-- ==== Sys2Proof/Word.lean ====
section
/-! DEFINITION. The one bit type of the model: the byte of a port frame or of a service bus frame. -/

namespace Sys2Proof

/-- One byte on the wire (R185, R187). Plates, seconds, units and slots are `Nat`, temperatures are `Int`:
only what the manual treats as bits is a bit vector. -/
abbrev Byte := BitVec 8

end Sys2Proof
end

