-- ==== Sys2Proof/Syntax.lean ====
section
/-! DEFINITION. The commands of the part: one constructor per row of spec/opcode_table.json, with the row's operands.
A port command carries the port it arrived on and its arguments as R185 lays them out (a selector is carried as the
number on the wire, so that an undefined one can be refused with RANGE). A response of a node carries its payload
fields (R187). A timer row names the record whose timer it is. -/

namespace Sys2Proof

/-- The three master ports (R185: A, B, C are 0, 1, 2). -/
inductive Port where
  | a
  | b
  | c
  deriving DecidableEq, Repr

/-- Element mode or element level of a cabinet node (R187: OFF 0 .. HEAT 3). -/
inductive ElementMode where
  | off
  | standby
  | hold
  | heat
  deriving DecidableEq, Repr

/-- Types of service bus node (R144, R187). -/
inductive NodeType where
  | oven
  | warmer
  | washer
  | pageBase
  deriving DecidableEq, Repr

/-- A set of cabinet conditions (R63, R185). -/
structure CondSet where
  doorOpen : Bool
  overtemp : Bool
  probeFault : Bool
  elementFault : Bool
  deriving DecidableEq, Repr

/-- An optional group of argument bytes behind its presence byte (R185): absent (0), present (1),
or a presence byte with no defined value. -/
inductive OptArg (α : Type) where
  | absent
  | present (x : α)
  | undef (code : Nat)
  deriving DecidableEq, Repr

/-- The batch group of COURSE_DEFINE (R26). -/
structure BatchArgs where
  oven : Nat
  shelves : Nat
  setpoint : Int
  cook : Nat
  overHold : Nat
  deriving DecidableEq, Repr

/-- COURSE_DEFINE's arguments (R26). -/
structure CourseArgs where
  fn : Nat
  cls : Nat
  covers : Nat
  batch : OptArg BatchArgs
  station : Nat
  fireTime : OptArg Nat
  deriving DecidableEq, Repr

/-- CABINET_SET's arguments after the slot and the kind (R53, R185). A field that the kind does not carry is ignored. -/
structure CabinetArgs where
  addr : Nat
  setpoint : Int
  band : Nat
  heat : Nat
  hold : Nat
  standby : Nat
  shelves : Nat
  cls : Nat
  capacity : Nat
  idle : Nat
  deriving DecidableEq, Repr

/-- LINE_SET's arguments after the line (R79). -/
structure LineArgs where
  addr : Nat
  defFn : Nat
  holdMode : Nat
  sanMin : Int
  high : Nat
  low : Nat
  transit : Nat
  route : Nat
  booster : Nat
  deriving DecidableEq, Repr

/-- POWER_SET's arguments (R111). -/
structure PowerArgs where
  high : Nat
  low : Nat
  saturation : Nat
  rounding : Nat
  prot0 : Nat
  prot1 : Nat
  deriving DecidableEq, Repr

/-- PAGING_SET's arguments (R140). -/
structure PagingArgs where
  base : Nat
  kitchen : Nat
  dish : Nat
  age : Nat
  rate : Nat
  anti : Nat
  rushLen : Nat
  deriving DecidableEq, Repr

/-- A cabinet node's REPORT (R187): a WARMER's carries its load and draw counters, an OVEN's none. -/
structure CabinetRep where
  temp : Int
  setpoint : Int
  level : ElementMode
  draw : Nat
  conds : CondSet
  counters : Option (Nat × Nat)
  deriving DecidableEq, Repr

/-- A rack event of a dish machine (R82). -/
inductive RackEvent where
  | enter (seq tag : Nat)
  | exit (seq tag : Nat) (rinse : Int)
  deriving DecidableEq, Repr

/-- A dish machine node's REPORT (R187). -/
structure WasherRep where
  running : Bool
  rinse : Int
  draw : Nat
  events : List RackEvent
  deriving DecidableEq, Repr

/-- The paging base's REPORT (R132, R187): ids transmitted, acknowledgements (pager, page id), check-ins. -/
structure BaseRep where
  transmitted : List Nat
  acks : List (Nat × Nat)
  checkIns : List Nat
  deriving DecidableEq, Repr

/-- The commands, in the table's order. -/
inductive Instr where
  | powerOn
  | resetN
  /-- `clocked`: the bytes clocked after the two status bytes (R163). -/
  | fetch (p : Port) (clocked : Nat)
  /-- `bytes`: everything the master sent in the transaction (R162). -/
  | undefinedCommandCode (p : Port) (bytes : List Byte)
  | noticeFetch (p : Port) (count : Nat)
  | noticeSubscribe (p : Port) (set enable : Nat)
  | portReset (p : Port)
  | portRead (p : Port)
  | holdBegin (p : Port)
  | holdEnd (p : Port)
  | configClaim (p : Port)
  | configRelease (p : Port)
  | permitSet (p : Port) (port set : Nat)
  | dayOpen (p : Port)
  | dayClose (p : Port)
  | closeCompletion
  | lockoutClear (p : Port)
  | deviceReset (p : Port)
  | dayRead (p : Port)
  | classSet (p : Port) (cls dwell : Nat)
  | wareStock (p : Port) (cls n : Nat)
  | wareAdd (p : Port) (cls n : Nat)
  | wareMove (p : Port) (cls dir n : Nat)
  | wareWriteOff (p : Port) (cls source n : Nat)
  /-- `target`: COURSE 0 or HOUSE 1; `x`: the course slot or the class (R185). -/
  | wareReturn (p : Port) (target x n : Nat)
  | wareRead (p : Port) (cls : Nat)
  /-- `members`: 24 bits, cabinet k at bit k (R185). -/
  | functionSet (p : Port) (fn action members team mode : Nat)
  | courseDefine (p : Port) (slot : Nat) (args : CourseArgs)
  | courseArm (p : Port) (slot : Nat)
  | courseFire (p : Port) (slot : Nat)
  | courseRebatch (p : Port) (slot oven : Nat)
  | courseCancel (p : Port) (slot : Nat)
  | courseClose (p : Port) (slot : Nat)
  /-- `start`: the start cabinet of EARMARKS; SUMMARY ignores it. -/
  | courseRead (p : Port) (slot part start : Nat)
  | functionRead (p : Port) (fn : Nat)
  | cabinetSet (p : Port) (slot kind : Nat) (args : CabinetArgs)
  | cabinetMode (p : Port) (slot mode force : Nat)
  | cabinetSetpoint (p : Port) (slot : Nat) (setpoint : Int) (band : Nat)
  | cabinetRearm (p : Port) (slot : Nat)
  /-- `start`: the start position of the list parts (R185); SUMMARY ignores it. -/
  | cabinetRead (p : Port) (slot part start : Nat)
  | lineSet (p : Port) (line : Nat) (args : LineArgs)
  | lineMode (p : Port) (line mode : Nat)
  | rackAnnounce (p : Port) (line tag cls count : Nat) (fn : OptArg Nat)
  | rackRelease (p : Port) (line tag action : Nat)
  | rackClear (p : Port) (line tag : Nat)
  | rackRead (p : Port) (line selector value : Nat)
  | lineRead (p : Port) (line : Nat)
  | budgetSet (p : Port) (budget : Nat)
  | powerSet (p : Port) (args : PowerArgs)
  | energyLoad (p : Port) (meter raw : Nat)
  /-- `x`: the consumer or the start position; SUMMARY ignores it. -/
  | powerRead (p : Port) (part x : Nat)
  | energyRead (p : Port) (meter : Nat)
  | energyReadRaw (p : Port) (meter : Nat)
  | pageSend (p : Port) (kind value code arg prio : Nat)
  | pageCancel (p : Port) (id : Nat)
  | pagingSet (p : Port) (args : PagingArgs)
  | pageRead (p : Port) (selector value : Nat)
  | pagerRead (p : Port) (selector value : Nat)
  /-- `addr`: the address of part NODE; part BUS ignores it. -/
  | nodeRead (p : Port) (part addr : Nat)
  | identReply (addr : Nat) (type : NodeType) (serial : Nat) (urgent : Bool)
  | cabinetReport (addr : Nat) (rep : CabinetRep) (urgent : Bool)
  | washerReport (addr : Nat) (rep : WasherRep) (urgent : Bool)
  | baseReport (addr : Nat) (rep : BaseRep) (urgent : Bool)
  | setAck (addr : Nat) (urgent : Bool)
  | deliverAck (addr : Nat) (accepted urgent : Bool)
  /-- `bytes`: what the part received (R187). -/
  | invalidResponse (bytes : List Byte)
  | responseTimeout
  | transactionSend
  | busGuardEnd
  | abandonGuardEnd
  | pollTimerExpiry (addr : Nat)
  | discoveryTimerExpiry
  | discoveryStep
  | silenceTimerExpiry (addr : Nat)
  | admission
  | settleTimerExpiry
  | holdTimerExpiry
  | confirmTimerExpiry (slot : Nat)
  | serviceSecond
  | plannedFireTimeReached (course : Nat)
  | cookTimeComplete (course : Nat)
  | overHoldLimit (course : Nat)
  | lotWarm (slot : Nat)
  | outOfBandExpiry (slot : Nat)
  | sleepTimerExpiry (slot : Nat)
  | doorTimerExpiry (slot : Nat)
  | transitLimit (line tag : Nat)
  | routeTimeout (line tag : Nat)
  | presenceAgeExpiry
  | rushTimerEnd (team : Nat)
  | rateWindowClose (team : Nat)
  | resendTimerExpiry (id : Nat)
  | pageLifetimeExpiry (id : Nat)
  | handOff
  | resetNRelease
  deriving DecidableEq, Repr

end Sys2Proof
end

