-- ==== Sys2Proof/WellFormed.lean ====
section
/-! DEFINITION. Which commands can be sent at all: every operand fits the bytes that carry it (R185 for the ports,
R187 for the service bus), and a field that the form does not carry is 0. A value that fits its bytes but lies outside
the range of its rule is well formed: the part answers it (RANGE). -/

namespace Sys2Proof

/-- A one-byte field. -/
abbrev fits8 (n : Nat) : Bool := decide (n < 256)
/-- A two-byte field. -/
abbrev fits16 (n : Nat) : Bool := decide (n < 65536)
/-- The three bytes of a member set. -/
abbrev fits24 (n : Nat) : Bool := decide (n < 16777216)
/-- A four-byte field. -/
abbrev fits32 (n : Nat) : Bool := decide (n < 4294967296)
/-- A temperature: two bytes, two's complement. -/
abbrev fitsTemp (t : Int) : Bool := decide (-32768 ≤ t ∧ t < 32768)

/-- An optional group: its bytes fit, and an undefined presence byte is a byte other than 0 and 1. -/
def OptArg.wf {α : Type} (f : α → Bool) : OptArg α → Bool
  | .absent => true
  | .present x => f x
  | .undef c => decide (2 ≤ c) && fits8 c

def BatchArgs.wf (b : BatchArgs) : Bool :=
  fits8 b.oven && fits8 b.shelves && fitsTemp b.setpoint && fits16 b.cook && fits16 b.overHold

def CourseArgs.wf (a : CourseArgs) : Bool :=
  fits8 a.fn && fits8 a.cls && fits16 a.covers && a.batch.wf BatchArgs.wf && fits8 a.station && a.fireTime.wf fits32

/-- The arguments of CABINET_SET that its kind does not carry are 0 (R185). -/
def CabinetArgs.wf (kind : Nat) (a : CabinetArgs) : Bool :=
  let common := fits8 a.addr && fitsTemp a.setpoint && fits8 a.band && fits16 a.heat && fits16 a.hold && fits16 a.standby
  match kind with
  | 1 => common && fits8 a.shelves && decide (a.cls = 0 ∧ a.capacity = 0 ∧ a.idle = 0)
  | 2 => common && fits8 a.cls && fits16 a.capacity && fits16 a.idle && decide (a.shelves = 0)
  | _ => decide (a = ⟨0, 0, 0, 0, 0, 0, 0, 0, 0, 0⟩)

def LineArgs.wf (a : LineArgs) : Bool :=
  fits8 a.addr && fits8 a.defFn && fits8 a.holdMode && fitsTemp a.sanMin && fits8 a.high && fits8 a.low &&
    fits16 a.transit && fits16 a.route && fits16 a.booster

def PowerArgs.wf (a : PowerArgs) : Bool :=
  fits16 a.high && fits16 a.low && fits8 a.saturation && fits8 a.rounding && fits8 a.prot0 && fits8 a.prot1

def PagingArgs.wf (a : PagingArgs) : Bool :=
  fits8 a.base && fits8 a.kitchen && fits8 a.dish && fits8 a.age && fits8 a.rate && fits8 a.anti && fits16 a.rushLen

def CabinetRep.wf (r : CabinetRep) : Bool :=
  fitsTemp r.temp && fitsTemp r.setpoint && fits16 r.draw &&
    (match r.counters with
     | none => true
     | some (l, d) => fits8 l && fits8 d)

def RackEvent.wf : RackEvent → Bool
  | .enter q t => fits8 q && fits16 t
  | .exit q t r => fits8 q && fits16 t && fitsTemp r

/-- At most 8 events a report (R187). -/
def WasherRep.wf (r : WasherRep) : Bool :=
  fitsTemp r.rinse && fits16 r.draw && decide (r.events.length ≤ 8) && r.events.all RackEvent.wf

/-- At most 56 payload bytes (R187). -/
def BaseRep.wf (r : BaseRep) : Bool :=
  decide (3 + r.transmitted.length + 2 * r.acks.length + r.checkIns.length ≤ 56) && r.transmitted.all fits8 &&
    r.acks.all (fun x => fits8 x.1 && fits8 x.2) && r.checkIns.all fits8

/-- A node address of the service bus (R144). -/
abbrev isAddr (a : Nat) : Bool := decide (1 ≤ a ∧ a ≤ 31)

/-- Well formed: the command can be put on the wire, or names a record that exists. -/
def Instr.wf : Instr → Bool
  | .powerOn => true
  | .resetN => true
  | .fetch _ _ => true
  | .undefinedCommandCode _ _ => true
  | .noticeFetch _ n => fits8 n
  | .noticeSubscribe _ s e => fits8 s && fits8 e
  | .portReset _ => true
  | .portRead _ => true
  | .holdBegin _ => true
  | .holdEnd _ => true
  | .configClaim _ => true
  | .configRelease _ => true
  | .permitSet _ q s => fits8 q && fits8 s
  | .dayOpen _ => true
  | .dayClose _ => true
  | .closeCompletion => true
  | .lockoutClear _ => true
  | .deviceReset _ => true
  | .dayRead _ => true
  | .classSet _ c d => fits8 c && fits16 d
  | .wareStock _ c n => fits8 c && fits16 n
  | .wareAdd _ c n => fits8 c && fits16 n
  | .wareMove _ c d n => fits8 c && fits8 d && fits16 n
  | .wareWriteOff _ c q n => fits8 c && fits8 q && fits16 n
  | .wareReturn _ t x n => fits8 t && fits8 x && fits16 n
  | .wareRead _ c => fits8 c
  | .functionSet _ f a m t r => fits8 f && fits8 a && fits24 m && fits8 t && fits8 r
  | .courseDefine _ c a => fits8 c && a.wf
  | .courseArm _ c => fits8 c
  | .courseFire _ c => fits8 c
  | .courseRebatch _ c k => fits8 c && fits8 k
  | .courseCancel _ c => fits8 c
  | .courseClose _ c => fits8 c
  | .courseRead _ c q k => fits8 c && fits8 q && fits8 k && (decide (q ≠ 0) || decide (k = 0))
  | .functionRead _ f => fits8 f
  | .cabinetSet _ k q a => fits8 k && fits8 q && a.wf q
  | .cabinetMode _ k m f => fits8 k && fits8 m && fits8 f
  | .cabinetSetpoint _ k t b => fits8 k && fitsTemp t && fits8 b
  | .cabinetRearm _ k => fits8 k
  | .cabinetRead _ k q i => fits8 k && fits8 q && fits8 i && (decide (q ≠ 0) || decide (i = 0))
  | .lineSet _ l a => fits8 l && a.wf
  | .lineMode _ l m => fits8 l && fits8 m
  | .rackAnnounce _ l t c n f => fits8 l && fits16 t && fits8 c && fits8 n && f.wf fits8
  | .rackRelease _ l t a => fits8 l && fits16 t && fits8 a
  | .rackClear _ l t => fits8 l && fits16 t
  | .rackRead _ l q v => fits8 l && fits8 q && fits16 v
  | .lineRead _ l => fits8 l
  | .budgetSet _ n => fits16 n
  | .powerSet _ a => a.wf
  | .energyLoad _ m r => fits8 m && fits32 r
  | .powerRead _ q x => fits8 q && fits8 x && (decide (q ≠ 0) || decide (x = 0))
  | .energyRead _ m => fits8 m
  | .energyReadRaw _ m => fits8 m
  | .pageSend _ k v c a r => fits8 k && fits8 v && fits8 c && fits16 a && fits8 r
  | .pageCancel _ i => fits8 i
  | .pagingSet _ a => a.wf
  | .pageRead _ q v => fits8 q && fits8 v
  | .pagerRead _ q v => fits8 q && fits8 v
  | .nodeRead _ q a => fits8 q && fits8 a && (decide (q ≠ 1) || decide (a = 0))
  | .identReply a _ n _ => isAddr a && fits32 n
  | .cabinetReport a r _ => isAddr a && r.wf
  | .washerReport a r _ => isAddr a && r.wf
  | .baseReport a r _ => isAddr a && r.wf
  | .setAck a _ => isAddr a
  | .deliverAck a _ _ => isAddr a
  | .invalidResponse _ => true
  | .responseTimeout => true
  | .transactionSend => true
  | .busGuardEnd => true
  | .abandonGuardEnd => true
  | .pollTimerExpiry a => isAddr a
  | .discoveryTimerExpiry => true
  | .discoveryStep => true
  | .silenceTimerExpiry a => isAddr a
  | .admission => true
  | .settleTimerExpiry => true
  | .holdTimerExpiry => true
  | .confirmTimerExpiry k => decide (k < 24)
  | .serviceSecond => true
  | .plannedFireTimeReached c => decide (c < 32)
  | .cookTimeComplete c => decide (c < 32)
  | .overHoldLimit c => decide (c < 32)
  | .lotWarm k => decide (k < 24)
  | .outOfBandExpiry k => decide (k < 24)
  | .sleepTimerExpiry k => decide (k < 24)
  | .doorTimerExpiry k => decide (k < 24)
  | .transitLimit l t => decide (l < 2) && fits16 t
  | .routeTimeout l t => decide (l < 2) && fits16 t
  | .presenceAgeExpiry => true
  | .rushTimerEnd t => decide (1 ≤ t ∧ t ≤ 14)
  | .rateWindowClose t => decide (1 ≤ t ∧ t ≤ 14)
  | .resendTimerExpiry i => fits8 i
  | .pageLifetimeExpiry i => fits8 i
  | .handOff => true
  | .resetNRelease => true

end Sys2Proof
end

