-- ==== Sys2Proof/Decode.lean ====
section
/-! DEFINITION. The byte layouts of requests and responses (chapter 10): a port request frame read as a command and
written from one (R162, R185), a service bus response read as its fields and a bus frame written (R187).
The rows of spec/opcode_table.json give no bits, so `decodeTableWord` spells no command. -/

namespace Sys2Proof

/-- No row of spec/opcode_table.json gives bits: no word spells a command. -/
def decodeTableWord (_nbits _w : Nat) : Option Instr := none

/-! ### Fields (R185: high byte first, temperatures two's complement) -/

def byteAt (l : List Byte) (i : Nat) : Nat := (l.getD i 0).toNat
def wordAt (l : List Byte) (i : Nat) : Nat := byteAt l i * 256 + byteAt l (i + 1)
def maskAt (l : List Byte) (i : Nat) : Nat := byteAt l i * 65536 + wordAt l (i + 1)
def longAt (l : List Byte) (i : Nat) : Nat := wordAt l i * 65536 + wordAt l (i + 2)
def tempAt (l : List Byte) (i : Nat) : Int := (BitVec.ofNat 16 (wordAt l i)).toInt

def be8 (n : Nat) : List Byte := [BitVec.ofNat 8 n]
def be16 (n : Nat) : List Byte := [BitVec.ofNat 8 (n / 256), BitVec.ofNat 8 n]
def be24 (n : Nat) : List Byte := [BitVec.ofNat 8 (n / 65536), BitVec.ofNat 8 (n / 256), BitVec.ofNat 8 n]
def be32 (n : Nat) : List Byte := be16 (n / 65536) ++ be16 n
def beTemp (t : Int) : List Byte := be16 (BitVec.ofInt 16 t).toNat
/-- An absent single field is all ones in its width (R185). -/
def beOpt8 (o : Option Nat) : List Byte := be8 (o.getD 0xFF)
def beOpt16 (o : Option Nat) : List Byte := be16 (o.getD 0xFFFF)
def beOpt32 (o : Option Nat) : List Byte := be32 (o.getD 0xFFFFFFFF)
/-- A flag is one byte, 0 or 1 (R185). -/
def beFlag (b : Bool) : List Byte := be8 b.toNat

/-- A mask: bit n is the nth member listed (R185). -/
def maskOf : List Bool → Nat
  | [] => 0
  | b :: bs => b.toNat + 2 * maskOf bs

def ElementMode.code : ElementMode → Nat
  | .off => 0
  | .standby => 1
  | .hold => 2
  | .heat => 3

def ElementMode.ofCode : Nat → Option ElementMode
  | 0 => some .off
  | 1 => some .standby
  | 2 => some .hold
  | 3 => some .heat
  | _ => none

/-- OVEN 1, WARMER 2, WASHER 3, PAGE_BASE 4 (R187). -/
def NodeType.code : NodeType → Nat
  | .oven => 1
  | .warmer => 2
  | .washer => 3
  | .pageBase => 4

def NodeType.ofCode : Nat → Option NodeType
  | 1 => some .oven
  | 2 => some .warmer
  | 3 => some .washer
  | 4 => some .pageBase
  | _ => none

def CondSet.mask (c : CondSet) : Nat := maskOf [c.doorOpen, c.overtemp, c.probeFault, c.elementFault]

def CondSet.ofMask (n : Nat) : CondSet := ⟨n.testBit 0, n.testBit 1, n.testBit 2, n.testBit 3⟩

/-- Ports A, B, C are 0, 1, 2 (R185). -/
def Port.code : Port → Nat
  | .a => 0
  | .b => 1
  | .c => 2

def Port.ofCode : Nat → Option Port
  | 0 => some .a
  | 1 => some .b
  | 2 => some .c
  | _ => none

/-- The sum of the bytes modulo 256. -/
def byteSum (l : List Byte) : Byte := l.foldl (· + ·) 0

/-! ### Port request frames (R162, R185) -/

/-- What the frame checks and checks 1 and 2 of R164 make of a request's bytes. -/
inductive Parsed where
  /-- Refused with FRAME. -/
  | frame
  /-- Refused with UNKNOWN. -/
  | unknown
  /-- A command, to be checked from check 3 on. -/
  | command (i : Instr)
  deriving DecidableEq, Repr

/-- A command whose arguments have one length. -/
def oneForm (l : List Byte) (n : Nat) (i : Instr) : Parsed := if l.length = n then .command i else .frame

/-- A leading selector fixes the length; an undefined one fits any length of the command's forms (log 10). -/
def someForm (l : List Byte) (ns : List Nat) (i : Instr) : Parsed := if l.length ∈ ns then .command i else .frame

/-- The planned fire time group of COURSE_DEFINE at position `i`. -/
def timeGroup (l : List Byte) (i : Nat) : OptArg Nat :=
  match byteAt l i with
  | 0 => .absent
  | 1 => .present (longAt l (i + 1))
  | c => .undef c

/-- The lengths a time group at position `i` leaves to a COURSE_DEFINE. -/
def timeForms (i : Nat) : OptArg Nat → List Nat
  | .absent => [i + 1]
  | .present _ => [i + 5]
  | .undef _ => [i + 1, i + 5]

def parseCourseDefine (p : Port) (l : List Byte) : Parsed :=
  let mk := fun (b : OptArg BatchArgs) (i : Nat) =>
    Instr.courseDefine p (byteAt l 0) ⟨byteAt l 1, byteAt l 2, wordAt l 3, b, byteAt l i, timeGroup l (i + 1)⟩
  match byteAt l 5 with
  | 0 => someForm l (timeForms 7 (timeGroup l 7)) (mk .absent 6)
  | 1 =>
    someForm l (timeForms 15 (timeGroup l 15))
      (mk (.present ⟨byteAt l 6, byteAt l 7, tempAt l 8, wordAt l 10, wordAt l 12⟩) 14)
  | c => someForm l [8, 12, 16, 20] (mk (.undef c) 6)

def parseCabinetSet (p : Port) (l : List Byte) : Parsed :=
  let k := byteAt l 0
  match byteAt l 1 with
  | 0 => oneForm l 2 (.cabinetSet p k 0 ⟨0, 0, 0, 0, 0, 0, 0, 0, 0, 0⟩)
  | 1 =>
    oneForm l 13 (.cabinetSet p k 1
      ⟨byteAt l 2, tempAt l 3, byteAt l 5, wordAt l 6, wordAt l 8, wordAt l 10, byteAt l 12, 0, 0, 0⟩)
  | 2 =>
    oneForm l 17 (.cabinetSet p k 2
      ⟨byteAt l 2, tempAt l 3, byteAt l 5, wordAt l 6, wordAt l 8, wordAt l 10, 0, byteAt l 12, wordAt l 13, wordAt l 15⟩)
  | q => someForm l [2, 13, 17] (.cabinetSet p k q ⟨0, 0, 0, 0, 0, 0, 0, 0, 0, 0⟩)

def parseRackAnnounce (p : Port) (l : List Byte) : Parsed :=
  let mk := Instr.rackAnnounce p (byteAt l 0) (wordAt l 1) (byteAt l 3) (byteAt l 4)
  match byteAt l 5 with
  | 0 => oneForm l 6 (mk .absent)
  | 1 => oneForm l 7 (mk (.present (byteAt l 6)))
  | c => someForm l [6, 7] (mk (.undef c))

/-- A part selector at byte `i`: `short` are the parts without a further argument byte (R185). -/
def partForms (l : List Byte) (i : Nat) (short long : List Nat) : List Nat :=
  if byteAt l i ∈ short then [i + 1] else if byteAt l i ∈ long then [i + 2] else [i + 1, i + 2]

/-- Checks 1 and 2 of R164 over R185's table of codes and argument lengths. -/
def parseCommand (p : Port) (code : Nat) (l : List Byte) : Parsed :=
  let b := byteAt l
  let w := wordAt l
  match code with
  | 0x02 => oneForm l 1 (.noticeFetch p (b 0))
  | 0x03 => oneForm l 2 (.noticeSubscribe p (b 0) (b 1))
  | 0x04 => oneForm l 0 (.portReset p)
  | 0x05 => oneForm l 0 (.portRead p)
  | 0x06 => oneForm l 0 (.holdBegin p)
  | 0x07 => oneForm l 0 (.holdEnd p)
  | 0x08 => oneForm l 0 (.configClaim p)
  | 0x09 => oneForm l 0 (.configRelease p)
  | 0x0A => oneForm l 2 (.permitSet p (b 0) (b 1))
  | 0x10 => oneForm l 0 (.dayOpen p)
  | 0x11 => oneForm l 0 (.dayClose p)
  | 0x12 => oneForm l 0 (.lockoutClear p)
  | 0x13 => oneForm l 0 (.deviceReset p)
  | 0x14 => oneForm l 0 (.dayRead p)
  | 0x20 => oneForm l 3 (.classSet p (b 0) (w 1))
  | 0x21 => oneForm l 3 (.wareStock p (b 0) (w 1))
  | 0x22 => oneForm l 3 (.wareAdd p (b 0) (w 1))
  | 0x23 => oneForm l 4 (.wareMove p (b 0) (b 1) (w 2))
  | 0x24 => oneForm l 4 (.wareWriteOff p (b 0) (b 1) (w 2))
  | 0x25 => oneForm l 4 (.wareReturn p (b 0) (b 1) (w 2))
  | 0x26 => oneForm l 1 (.wareRead p (b 0))
  | 0x30 => oneForm l 7 (.functionSet p (b 0) (b 1) (maskAt l 2) (b 5) (b 6))
  | 0x31 => parseCourseDefine p l
  | 0x32 => oneForm l 1 (.courseArm p (b 0))
  | 0x33 => oneForm l 1 (.courseFire p (b 0))
  | 0x34 => oneForm l 2 (.courseRebatch p (b 0) (b 1))
  | 0x35 => oneForm l 1 (.courseCancel p (b 0))
  | 0x36 => oneForm l 1 (.courseClose p (b 0))
  | 0x37 => someForm l (partForms l 1 [0] [1]) (.courseRead p (b 0) (b 1) (b 2))
  | 0x38 => oneForm l 1 (.functionRead p (b 0))
  | 0x40 => parseCabinetSet p l
  | 0x41 => oneForm l 3 (.cabinetMode p (b 0) (b 1) (b 2))
  | 0x42 => oneForm l 4 (.cabinetSetpoint p (b 0) (tempAt l 1) (b 3))
  | 0x43 => oneForm l 1 (.cabinetRearm p (b 0))
  | 0x44 => someForm l (partForms l 1 [0] [1, 2, 3]) (.cabinetRead p (b 0) (b 1) (b 2))
  | 0x50 =>
    oneForm l 14 (.lineSet p (b 0) ⟨b 1, b 2, b 3, tempAt l 4, b 6, b 7, w 8, w 10, w 12⟩)
  | 0x51 => oneForm l 2 (.lineMode p (b 0) (b 1))
  | 0x52 => parseRackAnnounce p l
  | 0x53 => oneForm l 4 (.rackRelease p (b 0) (w 1) (b 3))
  | 0x54 => oneForm l 3 (.rackClear p (b 0) (w 1))
  | 0x55 => oneForm l 4 (.rackRead p (b 0) (b 1) (w 2))
  | 0x56 => oneForm l 1 (.lineRead p (b 0))
  | 0x60 => oneForm l 2 (.budgetSet p (w 0))
  | 0x61 => oneForm l 8 (.powerSet p ⟨w 0, w 2, b 4, b 5, b 6, b 7⟩)
  | 0x62 => oneForm l 5 (.energyLoad p (b 0) (longAt l 1))
  | 0x63 => someForm l (partForms l 0 [0] [1, 2]) (.powerRead p (b 0) (b 1))
  | 0x64 => oneForm l 1 (.energyRead p (b 0))
  | 0x65 => oneForm l 1 (.energyReadRaw p (b 0))
  | 0x70 => oneForm l 6 (.pageSend p (b 0) (b 1) (b 2) (w 3) (b 5))
  | 0x71 => oneForm l 1 (.pageCancel p (b 0))
  | 0x72 => oneForm l 8 (.pagingSet p ⟨b 0, b 1, b 2, b 3, b 4, b 5, w 6⟩)
  | 0x73 => oneForm l 2 (.pageRead p (b 0) (b 1))
  | 0x74 => oneForm l 2 (.pagerRead p (b 0) (b 1))
  | 0x80 => someForm l (partForms l 0 [1] [0]) (.nodeRead p (b 0) (b 1))
  | _ => .unknown

/-- A request frame: the frame checks of R162, then checks 1 and 2 of R164. -/
def parseRequest (p : Port) (l : List Byte) : Parsed :=
  if byteAt l 1 > 40 || l.length ≠ byteAt l 1 + 3 || byteSum l ≠ 0 then .frame
  else parseCommand p (byteAt l 0) ((l.drop 2).dropLast)

/-- An optional group behind its presence byte (R185). -/
def OptArg.encode {α : Type} (f : α → List Byte) : OptArg α → List Byte
  | .absent => [0]
  | .present x => 1 :: f x
  | .undef c => be8 c

/-- The code and the argument bytes of a command that a request frame carries (R185), for a well-formed command. -/
def Instr.request : Instr → Option (Nat × List Byte)
  | .noticeFetch _ n => some (0x02, be8 n)
  | .noticeSubscribe _ s e => some (0x03, be8 s ++ be8 e)
  | .portReset _ => some (0x04, [])
  | .portRead _ => some (0x05, [])
  | .holdBegin _ => some (0x06, [])
  | .holdEnd _ => some (0x07, [])
  | .configClaim _ => some (0x08, [])
  | .configRelease _ => some (0x09, [])
  | .permitSet _ q s => some (0x0A, be8 q ++ be8 s)
  | .dayOpen _ => some (0x10, [])
  | .dayClose _ => some (0x11, [])
  | .lockoutClear _ => some (0x12, [])
  | .deviceReset _ => some (0x13, [])
  | .dayRead _ => some (0x14, [])
  | .classSet _ c d => some (0x20, be8 c ++ be16 d)
  | .wareStock _ c n => some (0x21, be8 c ++ be16 n)
  | .wareAdd _ c n => some (0x22, be8 c ++ be16 n)
  | .wareMove _ c d n => some (0x23, be8 c ++ be8 d ++ be16 n)
  | .wareWriteOff _ c q n => some (0x24, be8 c ++ be8 q ++ be16 n)
  | .wareReturn _ t x n => some (0x25, be8 t ++ be8 x ++ be16 n)
  | .wareRead _ c => some (0x26, be8 c)
  | .functionSet _ f a m t r => some (0x30, be8 f ++ be8 a ++ be24 m ++ be8 t ++ be8 r)
  | .courseDefine _ c a =>
    some (0x31, be8 c ++ be8 a.fn ++ be8 a.cls ++ be16 a.covers ++
      a.batch.encode (fun b => be8 b.oven ++ be8 b.shelves ++ beTemp b.setpoint ++ be16 b.cook ++ be16 b.overHold) ++
      be8 a.station ++ a.fireTime.encode be32)
  | .courseArm _ c => some (0x32, be8 c)
  | .courseFire _ c => some (0x33, be8 c)
  | .courseRebatch _ c k => some (0x34, be8 c ++ be8 k)
  | .courseCancel _ c => some (0x35, be8 c)
  | .courseClose _ c => some (0x36, be8 c)
  | .courseRead _ c q k => some (0x37, be8 c ++ be8 q ++ (if q = 0 then [] else be8 k))
  | .functionRead _ f => some (0x38, be8 f)
  | .cabinetSet _ k q a =>
    let common := be8 a.addr ++ beTemp a.setpoint ++ be8 a.band ++ be16 a.heat ++ be16 a.hold ++ be16 a.standby
    some (0x40, be8 k ++ be8 q ++
      (match q with
       | 1 => common ++ be8 a.shelves
       | 2 => common ++ be8 a.cls ++ be16 a.capacity ++ be16 a.idle
       | _ => []))
  | .cabinetMode _ k m f => some (0x41, be8 k ++ be8 m ++ be8 f)
  | .cabinetSetpoint _ k t b => some (0x42, be8 k ++ beTemp t ++ be8 b)
  | .cabinetRearm _ k => some (0x43, be8 k)
  | .cabinetRead _ k q i => some (0x44, be8 k ++ be8 q ++ (if q = 0 then [] else be8 i))
  | .lineSet _ l a =>
    some (0x50, be8 l ++ be8 a.addr ++ be8 a.defFn ++ be8 a.holdMode ++ beTemp a.sanMin ++ be8 a.high ++ be8 a.low ++
      be16 a.transit ++ be16 a.route ++ be16 a.booster)
  | .lineMode _ l m => some (0x51, be8 l ++ be8 m)
  | .rackAnnounce _ l t c n f => some (0x52, be8 l ++ be16 t ++ be8 c ++ be8 n ++ f.encode be8)
  | .rackRelease _ l t a => some (0x53, be8 l ++ be16 t ++ be8 a)
  | .rackClear _ l t => some (0x54, be8 l ++ be16 t)
  | .rackRead _ l q v => some (0x55, be8 l ++ be8 q ++ be16 v)
  | .lineRead _ l => some (0x56, be8 l)
  | .budgetSet _ n => some (0x60, be16 n)
  | .powerSet _ a =>
    some (0x61, be16 a.high ++ be16 a.low ++ be8 a.saturation ++ be8 a.rounding ++ be8 a.prot0 ++ be8 a.prot1)
  | .energyLoad _ m r => some (0x62, be8 m ++ be32 r)
  | .powerRead _ q x => some (0x63, be8 q ++ (if q = 0 then [] else be8 x))
  | .energyRead _ m => some (0x64, be8 m)
  | .energyReadRaw _ m => some (0x65, be8 m)
  | .pageSend _ k v c a r => some (0x70, be8 k ++ be8 v ++ be8 c ++ be16 a ++ be8 r)
  | .pageCancel _ i => some (0x71, be8 i)
  | .pagingSet _ a =>
    some (0x72, be8 a.base ++ be8 a.kitchen ++ be8 a.dish ++ be8 a.age ++ be8 a.rate ++ be8 a.anti ++ be16 a.rushLen)
  | .pageRead _ q v => some (0x73, be8 q ++ be8 v)
  | .pagerRead _ q v => some (0x74, be8 q ++ be8 v)
  | .nodeRead _ q a => some (0x80, be8 q ++ (if q = 1 then [] else be8 a))
  | .powerOn | .resetN | .fetch _ _ | .undefinedCommandCode _ _ | .closeCompletion | .identReply _ _ _ _
  | .cabinetReport _ _ _ | .washerReport _ _ _ | .baseReport _ _ _ | .setAck _ _ | .deliverAck _ _ _
  | .invalidResponse _ | .responseTimeout | .transactionSend | .busGuardEnd | .abandonGuardEnd | .pollTimerExpiry _
  | .discoveryTimerExpiry | .discoveryStep | .silenceTimerExpiry _ | .admission | .settleTimerExpiry
  | .holdTimerExpiry | .confirmTimerExpiry _ | .serviceSecond | .plannedFireTimeReached _ | .cookTimeComplete _
  | .overHoldLimit _ | .lotWarm _ | .outOfBandExpiry _ | .sleepTimerExpiry _ | .doorTimerExpiry _
  | .transitLimit _ _ | .routeTimeout _ _ | .presenceAgeExpiry | .rushTimerEnd _ | .rateWindowClose _
  | .resendTimerExpiry _ | .pageLifetimeExpiry _ | .handOff | .resetNRelease => none

/-- The request frame of a code and its arguments, with the check byte that brings the sum to 0 (R185). -/
def requestFrame (code : Nat) (args : List Byte) : List Byte :=
  let head := BitVec.ofNat 8 code :: BitVec.ofNat 8 args.length :: args
  head ++ [-byteSum head]

/-! ### Service bus frames (R187) -/

/-- One bit of the CRC-16 with polynomial 0x1021. -/
def crcBit (c : BitVec 16) : BitVec 16 := if c.msb then (c <<< 1) ^^^ 0x1021#16 else c <<< 1

/-- One byte, most significant bit first. -/
def crcByte (c : BitVec 16) (b : Byte) : BitVec 16 :=
  let x := c ^^^ (b.setWidth 16 <<< 8)
  crcBit (crcBit (crcBit (crcBit (crcBit (crcBit (crcBit (crcBit x)))))))

/-- CRC-16, polynomial 0x1021, initial value 0xFFFF, no reflection, no final inversion (R187). -/
def crc16 (l : List Byte) : BitVec 16 := l.foldl crcByte 0xFFFF#16

/-- A bus frame: sync, address, kind, length, payload, CRC over all but the sync byte (R187). -/
def busFrame (addr kind : Nat) (payload : List Byte) : List Byte :=
  let body := be8 addr ++ be8 kind ++ be8 payload.length ++ payload
  0xB4#8 :: (body ++ be16 (crc16 body).toNat)

/-- The answers a node can give (R149). -/
inductive RespBody where
  | ident (type : NodeType) (serial : Nat)
  | cabinet (rep : CabinetRep)
  | washer (rep : WasherRep)
  | base (rep : BaseRep)
  | setAck
  | deliverAck (accepted : Bool)
  deriving DecidableEq, Repr

/-- A response: the address that answered, the urgent-report flag, and the answer. -/
structure Response where
  addr : Nat
  urgent : Bool
  body : RespBody
  deriving DecidableEq, Repr

def parseIdent (l : List Byte) : Option RespBody :=
  if l.length = 5 then (NodeType.ofCode (byteAt l 0)).map fun t => .ident t (longAt l 1) else none

/-- OVEN: 8 payload bytes; WARMER: two more, the counters (R187). -/
def parseCabinetRep (counters : Bool) (l : List Byte) : Option RespBody :=
  if l.length = (if counters then 10 else 8) then
    (ElementMode.ofCode (byteAt l 4)).map fun m =>
      .cabinet ⟨tempAt l 0, tempAt l 2, m, wordAt l 5, CondSet.ofMask (byteAt l 7),
        if counters then some (byteAt l 8, byteAt l 9) else none⟩
  else none

/-- `n` rack events of 6 bytes each. -/
def parseEvents : Nat → List Byte → Option (List RackEvent)
  | 0, [] => some []
  | n + 1, q :: k :: t1 :: t0 :: r1 :: r0 :: rest =>
    let tag := wordAt [t1, t0] 0
    match k.toNat with
    | 0 => (parseEvents n rest).map (.enter q.toNat tag :: ·)
    | 1 => (parseEvents n rest).map (.exit q.toNat tag (tempAt [r1, r0] 0) :: ·)
    | _ => none
  | _, _ => none

def parseWasherRep (l : List Byte) : Option RespBody :=
  if l.length < 6 || byteAt l 5 > 8 || byteAt l 0 > 1 then none
  else (parseEvents (byteAt l 5) (l.drop 6)).map fun ev => .washer ⟨byteAt l 0 == 1, tempAt l 1, wordAt l 3, ev⟩

/-- Acknowledgement pairs: pager address, page id. -/
def parsePairs : List Byte → List (Nat × Nat)
  | a :: i :: rest => (a.toNat, i.toNat) :: parsePairs rest
  | _ => []

def parseBaseRep (l : List Byte) : Option RespBody :=
  let t := byteAt l 0
  let a := byteAt l (1 + t)
  let c := byteAt l (2 + t + 2 * a)
  if l.length = 3 + t + 2 * a + c then
    some (.base ⟨((l.drop 1).take t).map BitVec.toNat, parsePairs ((l.drop (2 + t)).take (2 * a)),
      (l.drop (3 + t + 2 * a)).map BitVec.toNat⟩)
  else none

/-- A REPORT is laid out by the type the node has on record (R187). -/
def parseReport (type : Option NodeType) (l : List Byte) : Option RespBody :=
  match type with
  | some .oven => parseCabinetRep false l
  | some .warmer => parseCabinetRep true l
  | some .washer => parseWasherRep l
  | some .pageBase => parseBaseRep l
  | none => none

/-- A received frame that passes R187's tests of form: sync, length, CRC, kind code and payload length. Bytes that follow a
complete frame make it fail: R187's list does not name them (DESIGN CHOICE, log 10).
Whether it answers the request in flight is `Machine.answers`. -/
def parseResponse (type : Option NodeType) (l : List Byte) : Option Response :=
  let payload := (l.drop 4).take (byteAt l 3)
  let body :=
    match byteAt l 2 % 128 with
    | 0x41 => parseIdent payload
    | 0x42 => parseReport type payload
    | 0x43 => if payload.length = 0 then some .setAck else none
    | 0x44 => if payload.length = 1 ∧ byteAt payload 0 ≤ 1 then some (.deliverAck (byteAt payload 0 == 0)) else none
    | _ => none
  if byteAt l 0 ≠ 0xB4 || byteAt l 3 > 56 || l.length ≠ byteAt l 3 + 6 ||
      crc16 ((l.drop 1).take (byteAt l 3 + 3)) ≠ BitVec.ofNat 16 (wordAt l (byteAt l 3 + 4)) then none
  else body.map fun b => ⟨byteAt l 1, decide (128 ≤ byteAt l 2), b⟩

end Sys2Proof
end

