-- ==== Sys2Proof/Config.lean ====
section
/-! DEFINITION. What the part fixes once (capacities and intervals of the spec) and the free values the spec leaves open. -/

namespace Sys2Proof.Config

/-- Notices a port's queue holds (R171). -/
def noticeCap : Nat := 24
/-- Counted commands of one hold (R167). -/
def holdLimit : Nat := 4
/-- The hold timer, in milliseconds (R167). -/
def holdMs : Nat := 50
/-- An overtemperature confirm timer, in milliseconds (R180). -/
def confirmMs : Nat := 3000
/-- Plates of one class the house may own (R1). -/
def stockMax : Nat := 30000
/-- Lots of one warmer (R69). -/
def lotCap : Nat := 8
/-- Batches of one oven (R73). -/
def batchCap : Nat := 4
/-- Racks of one line (R80). -/
def rackCap : Nat := 12
/-- Pages in the queue (R123). -/
def pageCap : Nat := 32
/-- Pages at the base (R129). -/
def baseCap : Nat := 2
/-- The settle interval, in seconds (R106). -/
def settleSec : Nat := 2
/-- The silence timer, in seconds (R145). -/
def silenceSec : Nat := 10
/-- The discovery timer, in seconds (R146). -/
def discoverySec : Nat := 5
/-- The door timer, in seconds (R66). -/
def doorSec : Nat := 120
/-- The out-of-band timer, in seconds (R67). -/
def oobSec : Nat := 60
/-- A page's resend timer, in seconds (R132). -/
def resendSec : Nat := 30
/-- A team's rate window, in seconds (R128). -/
def rateSec : Nat := 10
/-- The longest time one report is billed for, in seconds (R113). -/
def billCap : Nat := 5
/-- The largest raw value of a meter (R113). -/
def meterMax : Nat := 4294967295
/-- The length of the 32-bit service clock (section "Time" of 00). -/
def clockMod : Nat := 4294967296
/-- Misses after which a PRESENT node is SILENT, and attempts after which a transaction is MISSED (R145, R150). -/
def missLimit : Nat := 3

/-- FREE VALUE (log 1). R128 gives a team's rate count the range 0..255 and says that each counted
transmission raises it; what a count of 255 becomes is not stated. The argument is the fresh-value counter. -/
opaque rateCountPast255 : Nat → Fin 256

/-- FREE VALUE (log 1). R102 gives a tier to warmers, ovens and boosters; the tier of a consumer whose cabinet
slot has kind NONE is not stated. The argument is the consumer; the tier shown is the value plus 1. -/
opaque tierOfUnusedSlot : Nat → Fin 5

/-- FREE VALUE (log 1). R181 claims the LOCKOUT page to ALL and does not state its argument. The argument here is the
fresh-value counter. -/
opaque lockoutPageArg : Nat → Fin 65536

/-- FREE VALUE (log 1). R165 raises CLAIM_RELEASED and defines no detail for it. The argument is the fresh-value
counter; detail 1 takes one value and detail 2 the next. -/
opaque claimReleasedDetail : Nat → Fin 65536

end Sys2Proof.Config
end

