-- ==== Sys2Proof/Machine/State.lean ====
section
/-! DEFINITION. The state of the part: every record the manual gives its ten blocks, as plain data, and the state
right after reset. Values that the manual derives from other records (committed clean, owing lists, tiers, the wait
list, pending, NOTE_N) are not stored: `Flags` and `Operands` derive them. -/

namespace Sys2Proof.Machine

/-- The part never stops with a fault: a field report is clipped, not refused (R4), and a request gets a status. -/
inductive Fault where
  deriving DecidableEq, Repr

/-- Why a command has no meaning. -/
inductive Refusal where
  /-- Raised by an arm of `exec` whose command is not modelled. Safe: nothing is claimed about it. -/
  | notModelled (mnemonic : String)
  deriving DecidableEq, Repr

/-! ### Ports, notices, holds (chapter 8) -/

/-- Status codes of a reply (R164, R185). -/
inductive Status where
  | ok
  | frame
  | unknown
  | denied
  | held
  | claimed
  | badState
  | range
  | notFound
  | full
  | short
  | conflict
  | lockedOut
  deriving DecidableEq, Repr

/-- A reply: its status and its data bytes. Length and check byte are derived (R163). -/
structure Reply where
  status : Status
  data : List Byte
  deriving DecidableEq, Repr

/-- Notice categories (R170, R186). -/
inductive Category where
  | ware
  | course
  | cabinet
  | line
  | power
  | paging
  | bus
  | day
  | port
  deriving DecidableEq, Repr

/-- Notice kinds (R186). -/
inductive NoticeKind where
  | wareMismatch
  | courseState
  | courseFired
  | courseReverted
  | courseFireMissed
  | courseOvenFault
  | cabinetState
  | cabinetCondition
  | batchDone
  | rackUnknown
  | rackHeld
  | rackRouted
  | rackUnrouted
  | routeExpired
  | rackLeft
  | lineStopped
  | lineRunning
  | lineRinseLow
  | lineEventGap
  | shed
  | restore
  | powerOverUnresolved
  | budgetChanged
  | meterOverflow
  | pageOutcome
  | pageDropped
  | directoryFull
  | nodeJoined
  | nodeSilent
  | nodeLost
  | nodeTypeMismatch
  | dayOpened
  | dayClosing
  | dayClosed
  | lockoutEntered
  | lockoutCleared
  | holdEnded
  | holdExpired
  | holdBroken
  | claimReleased
  deriving DecidableEq, Repr

/-- A notice (R170). A temperature detail is kept as its two's complement of 16 bits. -/
structure Notice where
  kind : NoticeKind
  subject : Nat
  detail1 : Nat
  detail2 : Nat
  time : Nat
  deriving DecidableEq, Repr

/-- One port controller's record. Sets are masks (R185). -/
structure PortRec where
  slot : Option Reply
  unread : Bool
  queue : List Notice
  overflow : Bool
  /-- Subscription set: WARE, COURSE, CABINET, LINE, POWER, PAGING, BUS at bits 0..6 (R173). -/
  subs : Nat
  lineOn : Bool
  /-- Permission set: CONFIG, WARE, KITCHEN, DISH, PAGE, POWER at bits 0..5 (R165). -/
  perms : Nat
  /-- What the port clocked out on MISO in its last transaction (log 3). -/
  miso : List Byte
  deriving DecidableEq, Repr

structure Ports where
  a : PortRec
  b : PortRec
  c : PortRec
  deriving DecidableEq, Repr

/-- The hold arbiter (R167): the timer is stopped or runs from a millisecond. -/
structure Hold where
  owner : Option Port
  count : Nat
  start : Option Nat
  deriving DecidableEq, Repr

/-! ### The service day (chapter 9) -/

inductive DayState where
  | opening
  | service
  | closing
  | lockout
  deriving DecidableEq, Repr

structure Day where
  state : DayState
  /-- Return state, or none (R176). -/
  ret : Option DayState
  /-- Lockout cause, or none. -/
  cause : Option Nat
  clock : Nat
  /-- Confirm timer of each cabinet slot: stopped, or its start in milliseconds (R180). -/
  confirm : List (Option Nat)
  feedcut : Bool
  /-- Configuration claim (R166). -/
  claim : Option Port
  /-- RESET_N is held low (R183, log 4). -/
  resetLow : Bool
  /-- The millisecond count of the short timers (log 5). -/
  ms : Nat
  /-- Millisecond at which the present service second began (log 5). -/
  secMs : Nat
  deriving DecidableEq, Repr

/-! ### The ware account (chapter 1) -/

/-- A ware class record (R1). -/
structure Ware where
  dwell : Nat
  stock : Nat
  soiled : Nat
  washing : Nat
  held : Nat
  clean : Nat
  inWarmer : Nat
  plated : Nat
  house : Nat
  deriving DecidableEq, Repr

/-! ### Functions and courses (chapter 2) -/

inductive RouteMode where
  | fill
  | round
  | spread
  deriving DecidableEq, Repr

/-- A function record (R22); `members` is a mask, cabinet k at bit k. -/
structure Fn where
  used : Bool
  members : Nat
  team : Nat
  mode : RouteMode
  round : Nat
  deriving DecidableEq, Repr

inductive CourseState where
  | empty
  | planned
  | armed
  | fired
  | ready
  | plating
  | served
  | cancelled
  deriving DecidableEq, Repr

/-- A course record (R24). `fireSeq` is unset until the course fires. -/
structure Course where
  state : CourseState
  fn : Nat
  cls : Nat
  covers : Nat
  batch : Option BatchArgs
  station : Nat
  fireTime : Option Nat
  fireSeq : Option Nat
  owed : Nat
  plated : Nat
  returned : Nat
  ovenFault : Bool
  shortPaged : Bool
  overHoldPaged : Bool
  deriving DecidableEq, Repr

/-- The fire sequence counter (R28). -/
structure Fire where
  next : Nat
  exhausted : Bool
  deriving DecidableEq, Repr

/-- An entry of the earmark table (R31). -/
structure Earmark where
  course : Nat
  cab : Nat
  count : Nat
  deriving DecidableEq, Repr

/-! ### Cabinets (chapter 3) -/

inductive CabKind where
  | empty
  | oven
  | warmer
  deriving DecidableEq, Repr

inductive CabState where
  | offline
  | off
  | waitPower
  | heating
  | holding
  | sleep
  | shed
  | fault
  deriving DecidableEq, Repr

/-- A lot of a warmer (R69). -/
structure Lot where
  count : Nat
  warmFrom : Option Nat
  deriving DecidableEq, Repr

/-- A route entry of a warmer (R70). -/
structure Route where
  line : Nat
  tag : Nat
  count : Nat
  loaded : Nat
  deriving DecidableEq, Repr

inductive BatchState where
  | booked
  | waiting
  | cooking
  | paused
  | done
  | removed
  deriving DecidableEq, Repr

/-- A batch of an oven (R73). -/
structure Batch where
  course : Nat
  shelves : Nat
  setpoint : Int
  remaining : Nat
  state : BatchState
  doneAt : Option Nat
  deriving DecidableEq, Repr

/-- A cabinet record (R52). Timers hold the seconds left, or are stopped. -/
structure Cab where
  kind : CabKind
  addr : Option Nat
  state : CabState
  wantedOn : Bool
  /-- The wanted element mode (section 3.2, log 6). -/
  wantMode : ElementMode
  setpoint : Int
  band : Nat
  heat : Nat
  hold : Nat
  standby : Nat
  idle : Nat
  temp : Int
  level : ElementMode
  draw : Nat
  live : CondSet
  latchedSet : CondSet
  latched : Bool
  stale : Bool
  /-- Whether a report has come since the node was bound (R182). -/
  reported : Bool
  cls : Option Nat
  capacity : Nat
  lots : List Lot
  routes : List Route
  sleepT : Option Nat
  oobT : Option Nat
  doorT : Option Nat
  shelves : Nat
  batches : List Batch
  deriving DecidableEq, Repr

/-! ### Wash lines (chapter 4) -/

/-- Stop reasons of a line (R92). -/
structure StopSet where
  operator : Bool
  backpressure : Bool
  power : Bool
  lockout : Bool
  day : Bool
  deriving DecidableEq, Repr

inductive HoldReason where
  | rinse
  | skipped
  | transit
  deriving DecidableEq, Repr

/-- A rack record (R80). Its state is the section it stands in; in the exit section a hold reason marks it HELD. -/
structure Rack where
  tag : Nat
  cls : Nat
  count : Nat
  fn : Nat
  reason : Option HoldReason
  entry : Option Nat
  transit : Nat
  dest : Option Nat
  routeTime : Option Nat
  loaded : Nat
  noticed : Bool
  deriving DecidableEq, Repr

/-- A line record with its rack queue in three sections (R77, R80). -/
structure Line where
  addr : Option Nat
  defFn : Nat
  strict : Bool
  sanMin : Int
  high : Nat
  low : Nat
  transitLimit : Nat
  routeTimeout : Nat
  booster : Nat
  opRun : Bool
  stops : StopSet
  wantedRun : Bool
  running : Bool
  rinse : Int
  rinseLow : Bool
  lastEvent : Option Nat
  /-- The transit limit the last service second judged by (R79, log 7). -/
  transitJudged : Nat
  staged : List Rack
  inside : List Rack
  exits : List Rack
  deriving DecidableEq, Repr

/-! ### Power (chapter 5) -/

/-- A consumer record (R101); `reqTime` is the request time of its wait list entry. -/
structure Consumer where
  grant : Nat
  request : Nat
  mark : Bool
  reqTime : Option Nat
  measured : Nat
  lastReport : Option Nat
  deriving DecidableEq, Repr

/-- An energy meter (R113). -/
structure Meter where
  raw : Nat
  overflow : Bool
  deriving DecidableEq, Repr

structure Power where
  /-- Consumers 0..25. -/
  consumers : List Consumer
  budget : Nat
  shedHigh : Nat
  shedLow : Nat
  /-- Seconds left of the settle timer, or stopped (R106). -/
  settle : Option Nat
  unresolved : Bool
  saturate : Bool
  nearestEven : Bool
  /-- Boosters of lines 0 and 1: PROTECTED (true) or SHEDDABLE. -/
  protected0 : Bool
  protected1 : Bool
  meters : List Meter
  deriving DecidableEq, Repr

/-! ### Paging (chapter 6) -/

/-- A directory entry in use (R120). -/
structure Pager where
  addr : Nat
  present : Bool
  lastSeen : Nat
  deriving DecidableEq, Repr

inductive Target where
  | pager (addr : Nat)
  | team (t : Nat)
  | all
  deriving DecidableEq, Repr

inductive Prio where
  | urgent
  | rush
  | normal
  | info
  deriving DecidableEq, Repr

/-- Who receives a page's outcome (R123). -/
inductive Origin where
  | port (p : Port)
  | block
  deriving DecidableEq, Repr

inductive PageState where
  | queued
  | handed
  | sent
  | acked
  | unanswered
  | expired
  | dropped
  | cancelled
  deriving DecidableEq, Repr

/-- A page record (R123). -/
structure Page where
  id : Nat
  target : Target
  code : Nat
  arg : Nat
  prio : Prio
  origin : Origin
  created : Nat
  state : PageState
  inDelivery : Bool
  level : Option Prio
  resends : Nat
  cancelMark : Bool
  course : Option Nat
  resendEnd : Option Nat
  deriving DecidableEq, Repr

/-- A team's rate window (R128). -/
structure Rate where
  count : Nat
  ends : Option Nat
  deriving DecidableEq, Repr

/-- The paging settings (R140); a presence age of none is OFF. -/
structure PageSettings where
  base : Option Nat
  kitchen : Nat
  dish : Nat
  age : Option Nat
  rate : Nat
  anti : Nat
  rushLen : Nat
  deriving DecidableEq, Repr

structure Paging where
  /-- Entries 0..63. -/
  dir : List (Option Pager)
  dirFull : Bool
  pages : List Page
  nextId : Nat
  /-- Rush timers of teams 1..14, at positions 0..13: stopped, or the end time (R127). -/
  rush : List (Option Nat)
  rates : List Rate
  anti : Nat
  baseFull : Bool
  settings : PageSettings
  /-- The presence age the last service second judged by (R122, log 7). -/
  ageJudged : Option Nat
  deriving DecidableEq, Repr

/-! ### The service bus (chapter 7) -/

inductive Presence where
  | unknown
  | present
  | silent
  | lost
  deriving DecidableEq, Repr

inductive Binding where
  | unbound
  | cabinet (slot : Nat)
  | line (line : Nat)
  | base
  deriving DecidableEq, Repr

inductive PollClass where
  | fast
  | normal
  | slow
  deriving DecidableEq, Repr

/-- The state a node is to hold (R152). -/
inductive Wanted where
  | nothing
  | cabinet (mode : ElementMode) (setpoint : Int)
  | line (run : Bool)
  deriving DecidableEq, Repr

/-- A node record (R144). -/
structure Node where
  type : Option NodeType
  serial : Nat
  presence : Presence
  misses : Nat
  /-- Seconds left of the silence timer, or stopped. -/
  silence : Option Nat
  lastResp : Option Nat
  loadBase : Option Nat
  drawBase : Option Nat
  binding : Binding
  pollClass : PollClass
  /-- The millisecond at which the poll timer ends, or stopped. -/
  pollEnd : Option Nat
  fetchAhead : Bool
  wanted : Wanted
  wantedUrgent : Bool
  lastEvent : Option Nat
  deriving DecidableEq, Repr

/-- A transaction (R149). -/
inductive Tx where
  | identify (addr : Nat)
  | poll (addr : Nat)
  | set (addr : Nat)
  | deliver (addr id : Nat) (target : Target) (code arg : Nat)
  deriving DecidableEq, Repr

/-- The transaction in flight: its attempt 1..3, and whether it is an urgent SET. -/
structure InFlight where
  tx : Tx
  attempt : Nat
  urgent : Bool
  /-- A DELIVER whose page the paging unit has returned or cleared meanwhile: its answer is ignored (R156). -/
  isVoid : Bool
  deriving DecidableEq, Repr

inductive Guard where
  | free
  /-- The 1 ms guard after an exchange (R149). -/
  | bus
  /-- The 2 ms guard after an abandonment or a reset (R157, R158). -/
  | abandon
  deriving DecidableEq, Repr

structure Bus where
  /-- Addresses 1..31, at positions 0..30. -/
  nodes : List Node
  urgent : List Tx
  fetch : List Tx
  ordinary : List Tx
  inflight : Option InFlight
  guard : Guard
  discPtr : Nat
  /-- Seconds left of the discovery timer, or stopped (R146). -/
  discTimer : Option Nat
  /-- The bytes of the last request frame sent on BTX (log 3). -/
  btx : List Byte
  deriving DecidableEq, Repr

/-- The checks the running step has called for (log 2). -/
structure Calls where
  admission : Bool
  restore : Bool
  route0 : Bool
  route1 : Bool
  close : Bool
  deriving DecidableEq, Repr

/-- The part, and the queue of commands that wait for it. -/
structure State where
  pending : List Instr
  ports : Ports
  hold : Hold
  day : Day
  wares : List Ware
  fns : List Fn
  courses : List Course
  fire : Fire
  /-- Sorted by course, then cabinet; every count at least 1. -/
  earmarks : List Earmark
  cabs : List Cab
  lines : List Line
  power : Power
  paging : Paging
  bus : Bus
  calls : Calls
  /-- Counter of the free values taken (log 1). -/
  freeCount : Nat
  deriving DecidableEq, Repr

/-! ### Power-on values -/

/-- R163, R165, R171, R173. -/
def PortRec.initial : PortRec :=
  { slot := none, unread := false, queue := [], overflow := false, subs := 127, lineOn := true, perms := 63, miso := [] }

/-- R167. -/
def Hold.initial : Hold := { owner := none, count := 0, start := none }

/-- R176, R166. -/
def Day.initial : Day :=
  { state := .opening, ret := none, cause := none, clock := 0, confirm := List.replicate 24 none, feedcut := false,
    claim := none, resetLow := false, ms := 0, secMs := 0 }

/-- R1. -/
def Ware.initial : Ware :=
  { dwell := 0, stock := 0, soiled := 0, washing := 0, held := 0, clean := 0, inWarmer := 0, plated := 0, house := 0 }

/-- An UNUSED function (R22). -/
def Fn.initial : Fn := { used := false, members := 0, team := 0, mode := .fill, round := 23 }

/-- Function 0: DEFINED, all 24 cabinets (R22). -/
def Fn.house : Fn := { used := true, members := 16777215, team := 0, mode := .fill, round := 23 }

/-- An EMPTY course (R24). -/
def Course.initial : Course :=
  { state := .empty, fn := 0, cls := 0, covers := 0, batch := none, station := 0, fireTime := none, fireSeq := none,
    owed := 0, plated := 0, returned := 0, ovenFault := false, shortPaged := false, overHoldPaged := false }

def noConditions : CondSet := ⟨false, false, false, false⟩

/-- R52. -/
def Cab.initial : Cab :=
  { kind := .empty, addr := none, state := .offline, wantedOn := false, wantMode := .off, setpoint := 0, band := 0,
    heat := 0, hold := 0, standby := 0, idle := 900, temp := 0, level := .off, draw := 0, live := noConditions,
    latchedSet := noConditions, latched := false, stale := false, reported := false, cls := none, capacity := 0,
    lots := [], routes := [], sleepT := none, oobT := none, doorT := none, shelves := 0, batches := [] }

/-- R77. -/
def Line.initial : Line :=
  { addr := none, defFn := 0, strict := false, sanMin := 82, high := 5, low := 2, transitLimit := 600,
    routeTimeout := 300, booster := 0, opRun := false, stops := ⟨true, false, false, false, true⟩, wantedRun := false,
    running := false, rinse := 0, rinseLow := false, lastEvent := none, transitJudged := 600, staged := [],
    inside := [], exits := [] }

/-- R101. -/
def Consumer.initial : Consumer :=
  { grant := 0, request := 0, mark := false, reqTime := none, measured := 0, lastReport := none }

/-- R113. -/
def Meter.initial : Meter := { raw := 0, overflow := false }

/-- R106, R111. -/
def Power.initial : Power :=
  { consumers := List.replicate 26 Consumer.initial, budget := 0, shedHigh := 0, shedLow := 0, settle := none,
    unresolved := false, saturate := true, nearestEven := false, protected0 := true, protected1 := true,
    meters := List.replicate 34 Meter.initial }

/-- R128. -/
def Rate.initial : Rate := { count := 0, ends := none }

/-- R140. -/
def PageSettings.initial : PageSettings :=
  { base := none, kitchen := 0, dish := 0, age := some 120, rate := 8, anti := 8, rushLen := 180 }

/-- R120, R123, R127, R128, R130, R131. -/
def Paging.initial : Paging :=
  { dir := List.replicate 64 none, dirFull := false, pages := [], nextId := 0, rush := List.replicate 14 none,
    rates := List.replicate 14 Rate.initial, anti := 0, baseFull := false, settings := PageSettings.initial,
    ageJudged := some 120 }

/-- R144. -/
def Node.initial : Node :=
  { type := none, serial := 0, presence := .unknown, misses := 0, silence := none, lastResp := none, loadBase := none,
    drawBase := none, binding := .unbound, pollClass := .slow, pollEnd := none, fetchAhead := false, wanted := .nothing,
    wantedUrgent := false, lastEvent := none }

/-- R146, R156; the first request after a reset follows the 2 ms abandonment guard (R158). -/
def Bus.initial : Bus :=
  { nodes := List.replicate 31 Node.initial, urgent := [], fetch := [], ordinary := [], inflight := none,
    guard := .abandon, discPtr := 1, discTimer := none, btx := [] }

def Calls.none : Calls := ⟨false, false, false, false, false⟩

/-- The part right after reset: every record at its power-on value, no command waiting. -/
def State.reset : State :=
  { pending := [], ports := ⟨PortRec.initial, PortRec.initial, PortRec.initial⟩, hold := Hold.initial,
    day := Day.initial, wares := List.replicate 8 Ware.initial, fns := Fn.house :: List.replicate 7 Fn.initial,
    courses := List.replicate 32 Course.initial, fire := { next := 0, exhausted := false }, earmarks := [],
    cabs := List.replicate 24 Cab.initial, lines := List.replicate 2 Line.initial, power := Power.initial,
    paging := Paging.initial, bus := Bus.initial, calls := Calls.none, freeCount := 0 }

end Sys2Proof.Machine
end

