-- ==== Sys2Proof/Machine/Ops.lean ====
section
/-! DEFINITION. The named operations every block uses: one writer per record of the state, readers and writers of one
entry of a table, ordering, notices (R170, R171), the checks a step calls for (log 2), and free values (log 1).
Everything else changes the state through these. -/

namespace Sys2Proof.Machine

/-! ### Writers of the records -/

namespace State

def withPending (s : State) (x : List Instr) : State := { s with pending := x }
def withPorts (s : State) (x : Ports) : State := { s with ports := x }
def withHold (s : State) (x : Hold) : State := { s with hold := x }
def withDay (s : State) (x : Day) : State := { s with day := x }
def withWares (s : State) (x : List Ware) : State := { s with wares := x }
def withFns (s : State) (x : List Fn) : State := { s with fns := x }
def withCourses (s : State) (x : List Course) : State := { s with courses := x }
def withFire (s : State) (x : Fire) : State := { s with fire := x }
def withEarmarks (s : State) (x : List Earmark) : State := { s with earmarks := x }
def withCabs (s : State) (x : List Cab) : State := { s with cabs := x }
def withLines (s : State) (x : List Line) : State := { s with lines := x }
def withPower (s : State) (x : Power) : State := { s with power := x }
def withPaging (s : State) (x : Paging) : State := { s with paging := x }
def withBus (s : State) (x : Bus) : State := { s with bus := x }
def withCalls (s : State) (x : Calls) : State := { s with calls := x }
def withFreeCount (s : State) (x : Nat) : State := { s with freeCount := x }

/-! ### Entries of the tables -/

def ware (s : State) (c : Nat) : Ware := s.wares.getD c Ware.initial
def setWare (s : State) (c : Nat) (x : Ware) : State := s.withWares (s.wares.set c x)

def fn (s : State) (f : Nat) : Fn := s.fns.getD f Fn.initial
def setFn (s : State) (f : Nat) (x : Fn) : State := s.withFns (s.fns.set f x)

def course (s : State) (c : Nat) : Course := s.courses.getD c Course.initial
def setCourse (s : State) (c : Nat) (x : Course) : State := s.withCourses (s.courses.set c x)

def cab (s : State) (k : Nat) : Cab := s.cabs.getD k Cab.initial
def setCab (s : State) (k : Nat) (x : Cab) : State := s.withCabs (s.cabs.set k x)

def line (s : State) (l : Nat) : Line := s.lines.getD l Line.initial
def setLine (s : State) (l : Nat) (x : Line) : State := s.withLines (s.lines.set l x)

def consumer (s : State) (c : Nat) : Consumer := s.power.consumers.getD c Consumer.initial

def meter (s : State) (m : Nat) : Meter := s.power.meters.getD m Meter.initial
def setMeter (s : State) (m : Nat) (x : Meter) : State :=
  s.withPower { s.power with meters := s.power.meters.set m x }

/-- The position of an address's node record; address 0 has none (R144: addresses 1..31). -/
def nodeIdx (a : Nat) : Nat := if a = 0 then 31 else a - 1

def node (s : State) (a : Nat) : Node := s.bus.nodes.getD (nodeIdx a) Node.initial
def setNode (s : State) (a : Nat) (x : Node) : State :=
  s.withBus { s.bus with nodes := s.bus.nodes.set (nodeIdx a) x }

def port (s : State) : Port → PortRec
  | .a => s.ports.a
  | .b => s.ports.b
  | .c => s.ports.c

def setPort (s : State) (p : Port) (x : PortRec) : State :=
  match p with
  | .a => s.withPorts { s.ports with a := x }
  | .b => s.withPorts { s.ports with b := x }
  | .c => s.withPorts { s.ports with c := x }

/-- A consumer's record; a booster's POWER stop reason stands while it holds a request above its grant (R96). -/
def setConsumer (s : State) (c : Nat) (x : Consumer) : State :=
  let s := s.withPower { s.power with consumers := s.power.consumers.set c x }
  if c < 24 then s
  else
    let l := s.line (c - 24)
    s.setLine (c - 24) { l with stops := { l.stops with power := decide (x.grant < x.request) } }

/-- The service clock. -/
def now (s : State) : Nat := s.day.clock


end State

/-! ### Ordering -/

/-- Insert before the first entry that does not come before `x`. -/
def insertBy {α : Type} (le : α → α → Bool) (x : α) : List α → List α
  | [] => [x]
  | y :: ys => if le x y then x :: y :: ys else y :: insertBy le x ys

/-- A stable insertion sort. -/
def sortBy {α : Type} (le : α → α → Bool) : List α → List α
  | [] => []
  | x :: xs => insertBy le x (sortBy le xs)

/-- The first element that has the largest key. -/
def maxBy {α : Type} (key : α → Nat) : List α → Option α
  | [] => none
  | x :: xs =>
    match maxBy key xs with
    | none => some x
    | some y => if key y ≤ key x then some x else some y

/-- The sum of a list of counts. -/
def total (l : List Nat) : Nat := l.foldl (· + ·) 0

/-- The positions of a list whose entries satisfy `q`, ascending. -/
def positions {α : Type} (q : α → Bool) (l : List α) : List Nat :=
  (l.zipIdx.filter fun x => q x.1).map Prod.snd

/-- Apply `f` for each number of the list, in order. -/
def forEach (l : List Nat) (f : Nat → State → State) (s : State) : State := l.foldl (fun t k => f k t) s

/-! ### Notices (R170, R171, R186) -/

/-- Positions in the category list of R186. -/
def Category.code (c : Category) : Nat := c.ctorIdx

def NoticeKind.code : NoticeKind → Nat
  | .wareMismatch => 0x00
  | .courseState => 0x10
  | .courseFired => 0x11
  | .courseReverted => 0x12
  | .courseFireMissed => 0x13
  | .courseOvenFault => 0x14
  | .cabinetState => 0x20
  | .cabinetCondition => 0x21
  | .batchDone => 0x22
  | .rackUnknown => 0x30
  | .rackHeld => 0x31
  | .rackRouted => 0x32
  | .rackUnrouted => 0x33
  | .routeExpired => 0x34
  | .rackLeft => 0x35
  | .lineStopped => 0x36
  | .lineRunning => 0x37
  | .lineRinseLow => 0x38
  | .lineEventGap => 0x39
  | .shed => 0x40
  | .restore => 0x41
  | .powerOverUnresolved => 0x42
  | .budgetChanged => 0x43
  | .meterOverflow => 0x44
  | .pageOutcome => 0x50
  | .pageDropped => 0x51
  | .directoryFull => 0x52
  | .nodeJoined => 0x60
  | .nodeSilent => 0x61
  | .nodeLost => 0x62
  | .nodeTypeMismatch => 0x63
  | .dayOpened => 0x70
  | .dayClosing => 0x71
  | .dayClosed => 0x72
  | .lockoutEntered => 0x73
  | .lockoutCleared => 0x74
  | .holdEnded => 0x80
  | .holdExpired => 0x81
  | .holdBroken => 0x82
  | .claimReleased => 0x83

def NoticeKind.category : NoticeKind → Category
  | .wareMismatch => .ware
  | .courseState | .courseFired | .courseReverted | .courseFireMissed | .courseOvenFault => .course
  | .cabinetState | .cabinetCondition | .batchDone => .cabinet
  | .rackUnknown | .rackHeld | .rackRouted | .rackUnrouted | .routeExpired | .rackLeft | .lineStopped
  | .lineRunning | .lineRinseLow | .lineEventGap => .line
  | .shed | .restore | .powerOverUnresolved | .budgetChanged | .meterOverflow => .power
  | .pageOutcome | .pageDropped | .directoryFull => .paging
  | .nodeJoined | .nodeSilent | .nodeLost | .nodeTypeMismatch => .bus
  | .dayOpened | .dayClosing | .dayClosed | .lockoutEntered | .lockoutCleared => .day
  | .holdEnded | .holdExpired | .holdBroken | .claimReleased => .port

/-- A notice joins a queue of fewer than 24, and otherwise sets the overflow flag (R171). -/
def PortRec.offer (r : PortRec) (n : Notice) : PortRec :=
  if r.queue.length < Config.noticeCap then { r with queue := r.queue ++ [n] } else { r with overflow := true }

/-- Whether a port takes a notice of a category by its subscription; DAY goes to every port, PORT to none this way. -/
def PortRec.takes (r : PortRec) (c : Category) : Bool :=
  match c with
  | .day => true
  | .port => false
  | _ => r.subs.testBit c.code

/-- Offer a notice to port A, then B, then C, where `q` says so. -/
def offerWhere (q : Port → Bool) (n : Notice) (s : State) : State :=
  let put := fun (p : Port) (r : PortRec) => if q p || r.takes n.kind.category then r.offer n else r
  s.withPorts { a := put .a s.ports.a, b := put .b s.ports.b, c := put .c s.ports.c }

/-- Raise a notice to the ports its category goes to. -/
def raise (kind : NoticeKind) (subject detail1 detail2 : Nat) (s : State) : State :=
  offerWhere (fun _ => false) ⟨kind, subject, detail1, detail2, s.now⟩ s

/-- Raise a notice that port `p` takes whatever its subscription (category PORT, and R137). -/
def raiseTo (p : Port) (kind : NoticeKind) (subject detail1 detail2 : Nat) (s : State) : State :=
  offerWhere (fun q => decide (q = p)) ⟨kind, subject, detail1, detail2, s.now⟩ s

/-! ### The checks a step calls for (log 2) -/

/-- Admission is to be tried (R105). -/
def callAdmission (s : State) : State := s.withCalls { s.calls with admission := true }

/-- Admission is to be tried and the restore check made after it (R105, R108). -/
def callRestore (s : State) : State := s.withCalls { s.calls with admission := true, restore := true }

/-- The restore check alone is to be made (R103, R108). -/
def callCheck (s : State) : State := s.withCalls { s.calls with restore := true }

/-- A routing pass of one line is to follow (R89). -/
def callRoute (l : Nat) (s : State) : State :=
  if l = 0 then s.withCalls { s.calls with route0 := true } else s.withCalls { s.calls with route1 := true }

/-- A routing pass of both lines is to follow (R89). -/
def callRoutes (s : State) : State := s.withCalls { s.calls with route0 := true, route1 := true }

/-- The completion test is to be made (R179). -/
def callClose (s : State) : State := s.withCalls { s.calls with close := true }

/-! ### Free values (log 1) -/

/-- The number of the next free value. -/
def State.freshFree (s : State) : Nat × State := (s.freeCount, s.withFreeCount (s.freeCount + 1))

end Sys2Proof.Machine
end

