-- ==== Sys2Proof/Machine/Flags.lean ====
section
/-! DEFINITION. What the manual derives from the records whenever it uses it, and stores nowhere: the status and day
bytes, the notice line, bands, lot warmth, free plates, committed clean, owing lists, the serving course, tiers and the
wait list, the condition under which the day drain is complete. -/

namespace Sys2Proof.Machine

/-! ### Codes (R185: the position in the list the owning rule gives) -/

def Status.code (x : Status) : Nat := x.ctorIdx
def DayState.code (x : DayState) : Nat := x.ctorIdx
def CourseState.code (x : CourseState) : Nat := x.ctorIdx
def CabKind.code (x : CabKind) : Nat := x.ctorIdx
def CabState.code (x : CabState) : Nat := x.ctorIdx
def BatchState.code (x : BatchState) : Nat := x.ctorIdx
def RouteMode.code (x : RouteMode) : Nat := x.ctorIdx
def HoldReason.code (x : HoldReason) : Nat := x.ctorIdx
def Prio.code (x : Prio) : Nat := x.ctorIdx
def PageState.code (x : PageState) : Nat := x.ctorIdx
def Presence.code (x : Presence) : Nat := x.ctorIdx
def PollClass.code (x : PollClass) : Nat := x.ctorIdx

/-- A temperature as the two bytes that carry it (R185). -/
def tempCode (t : Int) : Nat := (BitVec.ofInt 16 t).toNat

/-- Stop reasons as a mask (R185). -/
def StopSet.mask (x : StopSet) : Nat := maskOf [x.operator, x.backpressure, x.power, x.lockout, x.day]

def StopSet.isEmpty (x : StopSet) : Bool := decide (x = ⟨false, false, false, false, false⟩)

/-- Two items of one detail: the first in the high byte (R186). -/
def pair (hi lo : Nat) : Nat := hi * 256 + lo

/-! ### Ports -/

/-- NONE 0, THIS_PORT 1, OTHER_PORT 2 (R185). -/
def relation (o : Option Port) (p : Port) : Nat :=
  match o with
  | none => 0
  | some q => if q = p then 1 else 2

/-- The status byte (R161, R185). -/
def State.statusByte (s : State) (p : Port) : Byte :=
  let r := s.port p
  BitVec.ofNat 8 (r.slot.isSome.toNat * 128 + r.unread.toNat * 64 + relation s.hold.owner p * 16 + min r.queue.length 15)

/-- The day byte (R161, R185). -/
def State.dayByte (s : State) (p : Port) : Byte :=
  BitVec.ofNat 8 (s.day.state.code * 64 + s.day.feedcut.toNat * 32 + (s.port p).overflow.toNat * 16 +
    relation s.day.claim p * 4)

/-- NOTE_N is asserted while the line is enabled and the queue or the overflow flag calls (R173). -/
def State.noteAsserted (s : State) (p : Port) : Bool :=
  let r := s.port p
  r.lineOn && (!r.queue.isEmpty || r.overflow)

/-- Milliseconds left on the hold timer, or none (R175). -/
def State.holdLeft (s : State) : Option Nat := s.hold.start.map fun t => t + Config.holdMs - s.day.ms

/-! ### Cabinets and lots -/

/-- A fault condition is in the set (R64). -/
def hasFault (c : CondSet) : Bool := c.overtemp || c.probeFault || c.elementFault

/-- R52. -/
def Cab.lotTotal (c : Cab) : Nat := total (c.lots.map (·.count))

/-- R70. -/
def Cab.pending (c : Cab) : Nat := total (c.routes.map fun r => r.count - r.loaded)

/-- In band (R52). -/
def Cab.inBand (c : Cab) : Bool := decide (c.setpoint - c.band ≤ c.temp)

/-- Below setpoint − 2 × band (R56). -/
def Cab.farBelow (c : Cab) : Bool := decide (c.temp < c.setpoint - 2 * c.band)

def Cab.isWarmer (c : Cab) : Bool := decide (c.kind = .warmer)
def Cab.isOven (c : Cab) : Bool := decide (c.kind = .oven)

/-- The states eligible for earmarks (R33). -/
def CabState.eligible : CabState → Bool
  | .heating | .holding | .waitPower | .shed => true
  | _ => false

def Cab.eligible (c : Cab) : Bool := c.isWarmer && c.state.eligible

/-- The states in which a warmer takes routes (R70). -/
def CabState.takesRoutes : CabState → Bool
  | .sleep => true
  | x => x.eligible

/-- The states that DAY_CLOSE, lockout and CABINET_MODE OFF take to OFF (R61, R178, R181). -/
def CabState.on : CabState → Bool
  | .waitPower | .heating | .holding | .sleep | .shed => true
  | _ => false

/-- The run condition of an oven (R73). -/
def Cab.runs (c : Cab) : Bool := decide (c.state = .holding) && !c.live.doorOpen

/-- R27: shelves not booked. -/
def Cab.freeShelves (c : Cab) : Nat := c.shelves - total (c.batches.map (·.shelves))

/-- A batch is working (R102, R114). -/
def Batch.working (b : Batch) : Bool :=
  decide (b.state = .waiting) || decide (b.state = .cooking) || decide (b.state = .done)

/-- A lot is warm (R69). -/
def Lot.warm (dwell now : Nat) (l : Lot) : Bool :=
  match l.warmFrom with
  | none => false
  | some t => decide (t + dwell ≤ now)

def State.dwellOf (s : State) (c : Cab) : Nat :=
  match c.cls with
  | none => 0
  | some i => (s.ware i).dwell

/-- ready(k) (R36, R69). -/
def State.readyPlates (s : State) (k : Nat) : Nat :=
  let c := s.cab k
  total ((c.lots.filter (Lot.warm (s.dwellOf c) s.now)).map (·.count))

/-! ### Earmarks and courses -/

/-- The earmarked total of a cabinet (R31). -/
def State.earmarkedAt (s : State) (k : Nat) : Nat := total ((s.earmarks.filter (·.cab = k)).map (·.count))

/-- A course's earmarked plates. -/
def State.earmarkedFor (s : State) (c : Nat) : Nat := total ((s.earmarks.filter (·.course = c)).map (·.count))

/-- A course's earmark at a cabinet, 0 when it holds none. -/
def State.earmark (s : State) (c k : Nat) : Nat :=
  total ((s.earmarks.filter fun e => e.course = c && e.cab = k).map (·.count))

/-- Free plates of a cabinet (R31). -/
def State.freePlates (s : State) (k : Nat) : Nat := (s.cab k).lotTotal - s.earmarkedAt k

/-- The cabinet is in the member set of the course's function. -/
def State.reaches (s : State) (c k : Nat) : Bool := (s.fn (s.course c).fn).members.testBit k

def CourseState.active : CourseState → Bool
  | .fired | .ready | .plating => true
  | _ => false

def State.seqOf (s : State) (c : Nat) : Nat := (s.course c).fireSeq.getD 0

/-- Course slots in fire order (R28). -/
def State.inFireOrder (s : State) (l : List Nat) : List Nat := sortBy (fun a b => decide (s.seqOf a ≤ s.seqOf b)) l

/-- The FIRED, READY and PLATING courses, in fire order. -/
def State.activeCourses (s : State) : List Nat := s.inFireOrder (positions (·.state.active) s.courses)

/-- The owing list of a class (R34). -/
def State.owing (s : State) (cls : Nat) : List Nat :=
  s.inFireOrder (positions (fun x => x.state.active && decide (x.cls = cls) && decide (0 < x.owed)) s.courses)

/-- The courses holding an earmark at a cabinet, in fire order. -/
def State.holdersAt (s : State) (k : Nat) : List Nat := s.inFireOrder ((s.earmarks.filter (·.cab = k)).map (·.course))

/-- The serving course of a warmer (R40), of the warmer's class as every holder there is (R29). -/
def State.serving (s : State) (k : Nat) : Option Nat :=
  (s.holdersAt k).find? fun c =>
    (decide ((s.course c).state = .ready) || decide ((s.course c).state = .plating)) &&
      decide ((s.cab k).cls = some (s.course c).cls)

/-- The plates a course's earmark at a cabinet stands behind, its own included (R36). -/
def State.aheadAt (s : State) (c k : Nat) : Nat :=
  total (((s.earmarks.filter fun e => e.cab = k && decide (s.seqOf e.course ≤ s.seqOf c))).map (·.count))

/-- A course's earmarked plates are warm (R36). -/
def State.warmFor (s : State) (c : Nat) : Bool :=
  (s.earmarks.filter (·.course = c)).all fun e => decide (s.aheadAt c e.cab ≤ s.readyPlates e.cab)

/-- A course's batch in its oven's list. -/
def State.batchOf (s : State) (c : Nat) : Option Batch :=
  match (s.course c).batch with
  | none => none
  | some b => (s.cab b.oven).batches.find? (·.course = c)

def State.batchDone (s : State) (c : Nat) : Bool :=
  match s.batchOf c with
  | none => false
  | some b => decide (b.state = .done)

/-- Readiness (R37). -/
def State.isReady (s : State) (c : Nat) : Bool :=
  ((s.course c).batch.isNone || s.batchDone c) && decide ((s.course c).owed = 0) && s.warmFor c

/-! ### Ware -/

/-- Committed clean of a class (R6). -/
def State.committed (s : State) (cls : Nat) : Nat :=
  total (s.lines.map fun l =>
    total ((l.exits.filter fun r => r.reason.isNone && decide (r.cls = cls)).map fun r => r.count - r.loaded))

/-- Uncommitted clean (R6): CLEAN less committed clean, or 0. -/
def State.uncommitted (s : State) (cls : Nat) : Nat := (s.ware cls).clean - s.committed cls

/-! ### Lines -/

/-- Exit occupancy (R80). -/
def Line.occupancy (l : Line) : Nat := l.exits.length

def Line.racks (l : Line) : List Rack := l.staged ++ l.inside ++ l.exits

def Line.hasTag (l : Line) (tag : Nat) : Bool := l.racks.any (·.tag = tag)

/-- The state of the rack with a tag: STAGED 0, IN_MACHINE 1, AT_EXIT 2, HELD 3, NONE 0xFF (R186). -/
def Line.stateOf (l : Line) (tag : Nat) : Nat :=
  if l.staged.any (·.tag = tag) then 0
  else if l.inside.any (·.tag = tag) then 1
  else
    match l.exits.find? (·.tag = tag) with
    | none => 0xFF
    | some r => if r.reason.isNone then 2 else 3

/-! ### Power -/

/-- Sheds, restores and heating happen in SERVICE and CLOSING only (R54, R95, R106). -/
def State.dayRuns (s : State) : Bool := decide (s.day.state = .service) || decide (s.day.state = .closing)

def State.grantSum (s : State) : Nat := total (s.power.consumers.map (·.grant))
def State.measuredTotal (s : State) : Nat := total (s.power.consumers.map (·.measured))

/-- The tier of a consumer (R102); that of a slot of kind NONE is a free value (log 1). -/
def State.tier (s : State) (c : Nat) : Nat :=
  if c = 24 then (if s.power.protected0 then 5 else 4)
  else if c = 25 then (if s.power.protected1 then 5 else 4)
  else
    match (s.cab c).kind with
    | .empty => (Config.tierOfUnusedSlot c).val + 1
    | .oven => if (s.cab c).batches.any Batch.working then 5 else 2
    | .warmer => if s.earmarkedAt c = 0 then 1 else 3

/-- Protected first, then tiers 4, 3, 2, 1 (R102). -/
def State.restoreClass (s : State) (c : Nat) : Nat := 5 - s.tier c

/-- The grant a shed leaves (R102). -/
def State.shedLevel (s : State) (c : Nat) : Nat :=
  if c < 24 && (s.cab c).isWarmer then (s.cab c).standby else 0

/-- R102. -/
def State.protectedPart (s : State) (c : Nat) : Nat :=
  let g := (s.consumer c).grant
  if s.tier c = 5 then g else min g (s.shedLevel c)

/-- What a shed consumer asks for: heat units, or booster units (R107). -/
def State.fullUnits (s : State) (c : Nat) : Nat := if c < 24 then (s.cab c).heat else (s.line (c - 24)).booster

/-- The wait list in its order (R104). -/
def State.waitList (s : State) : List Nat :=
  sortBy
    (fun a b =>
      let ka := s.restoreClass a
      let kb := s.restoreClass b
      let ta := (s.consumer a).reqTime.getD 0
      let tb := (s.consumer b).reqTime.getD 0
      decide (ka < kb) || (decide (ka = kb) && decide (ta ≤ tb)))
    (positions (fun x => decide (x.grant < x.request)) s.power.consumers)

/-! ### Bus -/

/-- An answering node (R144). -/
def Node.answering (n : Node) : Bool := decide (n.presence = .present) || decide (n.presence = .silent)

/-- CABINET 0, LINE 1, BASE 2, NONE 0xFF (R160, log 8). -/
def Binding.kindCode : Binding → Nat
  | .unbound => 0xFF
  | .cabinet _ => 0
  | .line _ => 1
  | .base => 2

/-- The node of an address is bound to `b`. -/
def State.boundTo (s : State) (a : Option Nat) (b : Binding) : Bool :=
  match a with
  | none => false
  | some x => decide ((s.node x).binding = b)

def State.cabBound (s : State) (k : Nat) : Bool := s.boundTo (s.cab k).addr (.cabinet k)
def State.lineBound (s : State) (l : Nat) : Bool := s.boundTo (s.line l).addr (.line l)

/-- The poll class of a cabinet's node (R74). -/
def State.cabPollClass (s : State) (k : Nat) : PollClass :=
  let c := s.cab k
  let cooking := c.batches.any fun b => decide (b.state = .cooking) || decide (b.state = .done)
  if (c.isOven && decide (c.state ≠ .fault) && cooking) || (c.isWarmer && (s.serving k).isSome) then .fast
  else if c.state = .off ∨ c.state = .offline then .slow
  else .normal

/-- R155. -/
def Line.pollClass (l : Line) : PollClass := if !l.inside.isEmpty || l.running then .fast else .normal

/-- R155. -/
def Paging.basePollClass (g : Paging) : PollClass :=
  if g.pages.any fun p => p.inDelivery || decide (p.state = .handed) || decide (p.state = .sent) then .fast else .normal

/-- The class of a node (R155). -/
def State.classOf (s : State) (a : Nat) : PollClass :=
  match (s.node a).binding with
  | .unbound => .slow
  | .cabinet k => s.cabPollClass k
  | .line l => (s.line l).pollClass
  | .base => s.paging.basePollClass

/-- FAST 250 ms, NORMAL 1000 ms, SLOW 4000 ms (R155). -/
def PollClass.interval : PollClass → Nat
  | .fast => 250
  | .normal => 1000
  | .slow => 4000

/-! ### The day -/

/-- The conditions of the completion test (R179). -/
def State.drained (s : State) : Bool :=
  (s.cabs.all fun c => decide (c.state = .off) || decide (c.state = .offline)) && s.lines.all fun l => l.inside.isEmpty

/-- Bound cabinets that have not reported element OFF since they were bound (R182). -/
def State.unconfirmed (s : State) : List Nat :=
  (List.range 24).filter fun k => s.cabBound k && !((s.cab k).reported && decide ((s.cab k).level = .off))

/-- Cabinets with OVERTEMP live (R182). -/
def State.overtempCabs (s : State) : List Nat := positions (·.live.overtemp) s.cabs

end Sys2Proof.Machine
end

