-- ==== Sys2Proof/Machine/Operands.lean ====
section
/-! DEFINITION. The operands of the port commands: the selectors of the enumerated arguments, ranges, and the ordered
checks that give a refusal its status (the first that fails decides). -/

namespace Sys2Proof.Machine

/-- The outcome of a command's own checks and effect: the status, the reply's data, the state left. -/
structure Result where
  status : Status
  data : List Byte
  state : State
  deriving DecidableEq, Repr

/-- A refused command changes no record, and its reply carries no data (R164). -/
def refuse (st : Status) (s : State) : Result := ⟨st, [], s⟩

/-- Executed, with result fields. -/
def okWith (data : List Byte) (s : State) : Result := ⟨.ok, data, s⟩

/-- The first check whose condition fails to hold gives the status. -/
def firstFailure : List (Bool × Status) → Option Status
  | [] => none
  | (good, st) :: rest => if good then firstFailure rest else some st

/-- Run `f` when every check holds, and otherwise refuse with the first failing check's status. -/
def checked (checks : List (Bool × Status)) (f : State → Result) (s : State) : Result :=
  match firstFailure checks with
  | some st => refuse st s
  | none => f s

def within (lo hi n : Nat) : Bool := decide (lo ≤ n) && decide (n ≤ hi)
def withinTemp (lo hi t : Int) : Bool := decide (lo ≤ t) && decide (t ≤ hi)

/-- A flag or a two-valued selector: 0 or 1 (R185). -/
def isFlag (n : Nat) : Bool := decide (n < 2)

def inDay (s : State) (l : List DayState) : Bool := decide (s.day.state ∈ l)

def CabKind.ofCode : Nat → Option CabKind
  | 0 => some .empty
  | 1 => some .oven
  | 2 => some .warmer
  | _ => none

def RouteMode.ofCode : Nat → Option RouteMode
  | 0 => some .fill
  | 1 => some .round
  | 2 => some .spread
  | _ => none

def Prio.ofCode : Nat → Option Prio
  | 0 => some .urgent
  | 1 => some .rush
  | 2 => some .normal
  | 3 => some .info
  | _ => none

/-- Pager addresses 0x10..0xEF (R120). -/
def isPager (a : Nat) : Bool := within 0x10 0xEF a

/-- Teams 1..14. -/
def isTeam (t : Nat) : Bool := within 1 14 t

/-- A page target: PAGER 0, TEAM 1, ALL 2, the last with value 0xFF (R185). -/
def Target.ofCode (kind value : Nat) : Option Target :=
  match kind with
  | 0 => if isPager value then some (.pager value) else none
  | 1 => if isTeam value then some (.team value) else none
  | 2 => if value = 0xFF then some .all else none
  | _ => none

def Target.kindCode : Target → Nat
  | .pager _ => 0
  | .team _ => 1
  | .all => 2

def Target.value : Target → Nat
  | .pager a => a
  | .team t => t
  | .all => 0xFF

/-- Presence age: OFF 0, 120 s 1, 600 s 2 (R185). -/
def ageOfCode : Nat → Option (Option Nat)
  | 0 => some none
  | 1 => some (some 120)
  | 2 => some (some 600)
  | _ => none

def ageCode : Option Nat → Nat
  | none => 0
  | some n => if n = 120 then 1 else 2

/-- Whole entries of a list part that fit, from a start position, then the list's length (R185; R118 for WAITLIST). In
CABINET_READ the length follows also where the whole list fits, of which R185 does not speak (DESIGN CHOICE, log 25). -/
def listPart (entries : List (List Byte)) (start fit : Nat) : List Byte :=
  ((entries.drop start).take fit).flatten ++ be8 entries.length

end Sys2Proof.Machine
end

