-- ==== Sys2Proof/Machine/Ware.lean ====
section
/-! DEFINITION. The transfers of the ware account (R2, R4, R7–R10, R12): plates of one class move between places, and
the two operations that change STOCK with one place. -/

namespace Sys2Proof.Machine

/-- The six places (R1). -/
inductive Place where
  | soiled
  | washing
  | held
  | clean
  | inWarmer
  | plated
  deriving DecidableEq, Repr

def Ware.holds (w : Ware) : Place → Nat
  | .soiled => w.soiled
  | .washing => w.washing
  | .held => w.held
  | .clean => w.clean
  | .inWarmer => w.inWarmer
  | .plated => w.plated

def Ware.put (w : Ware) (p : Place) (n : Nat) : Ware :=
  match p with
  | .soiled => { w with soiled := n }
  | .washing => { w with washing := n }
  | .held => { w with held := n }
  | .clean => { w with clean := n }
  | .inWarmer => { w with inWarmer := n }
  | .plated => { w with plated := n }

/-- The sum of the six places, which R2 keeps equal to STOCK. -/
def Ware.sum (w : Ware) : Nat := w.soiled + w.washing + w.held + w.clean + w.inWarmer + w.plated

/-- Take from one place and give to another the same count (R4): all of `n`, which every claim but a warmer load
has checked or has by R3, and no more than the source holds. -/
def Ware.move (w : Ware) (src dst : Place) (n : Nat) : Ware :=
  let m := min n (w.holds src)
  let w := w.put src (w.holds src - m)
  w.put dst (w.holds dst + m)

/-- A transfer claim of a class (R4). -/
def transfer (cls : Nat) (src dst : Place) (n : Nat) (s : State) : State :=
  s.setWare cls ((s.ware cls).move src dst n)

/-- New plates join a place (R17). -/
def Ware.bringIn (w : Ware) (p : Place) (n : Nat) : Ware :=
  { w.put p (w.holds p + n) with stock := w.stock + n }

/-- Plates leave stock from a place (R20). -/
def Ware.takeOut (w : Ware) (p : Place) (n : Nat) : Ware :=
  let m := min n (w.holds p)
  { w.put p (w.holds p - m) with stock := w.stock - m }

/-- House plated rises by the plates a course passes to it, or by a plate credited to no course (R12). -/
def addHouse (cls n : Nat) (s : State) : State :=
  let w := s.ware cls
  s.setWare cls { w with house := w.house + n }

/-- House plated falls (R12). -/
def subHouse (cls n : Nat) (s : State) : State :=
  let w := s.ware cls
  s.setWare cls { w with house := w.house - n }

/-- A WARE_MISMATCH of a cabinet's report (R11). -/
def mismatch (slot reported applied : Nat) (s : State) : State := raise .wareMismatch slot reported applied s

end Sys2Proof.Machine
end

