-- ==== Sys2Proof/Machine/BusList.lean ====
section
/-! DEFINITION. The transaction list of the service bus (R152, R156, R157) and the poll timers (R155): queuing, claims,
preemption, removal. -/

namespace Sys2Proof.Machine

/-- In the fetch-ahead or the ordinary part. -/
def Bus.waits (b : Bus) (t : Tx) : Bool := decide (t ∈ b.fetch) || decide (t ∈ b.ordinary)

/-- In any part. -/
def Bus.queued (b : Bus) (t : Tx) : Bool := decide (t ∈ b.urgent) || b.waits t

def Bus.isInFlight (b : Bus) (t : Tx) : Bool :=
  match b.inflight with
  | none => false
  | some f => decide (f.tx = t)

def Tx.isIdentify : Tx → Bool
  | .identify _ => true
  | _ => false

def Tx.isDeliver : Tx → Bool
  | .deliver _ _ _ _ _ => true
  | _ => false

def Tx.addr : Tx → Nat
  | .identify a => a
  | .poll a => a
  | .set a => a
  | .deliver a _ _ _ _ => a

/-- The IDENTIFY place is empty and no IDENTIFY is in flight (R146). -/
def Bus.identifyFree (b : Bus) : Bool :=
  !(b.urgent.any Tx.isIdentify || b.fetch.any Tx.isIdentify || b.ordinary.any Tx.isIdentify) &&
    (match b.inflight with
     | none => true
     | some f => !f.tx.isIdentify)

/-- Keep the queued transactions that satisfy `q`. -/
def keepTx (q : Tx → Bool) (s : State) : State :=
  s.withBus { s.bus with
    urgent := s.bus.urgent.filter q, fetch := s.bus.fetch.filter q, ordinary := s.bus.ordinary.filter q }

/-- The queued POLL and SET of a node leave the list (R156). -/
def removeNodeTx (a : Nat) (s : State) : State := keepTx (fun t => t ≠ .poll a ∧ t ≠ .set a) s

/-- The queued SET of a node leaves the list (R156). -/
def removeSet (a : Nat) (s : State) : State := keepTx (fun t => t ≠ .set a) s

/-- A DELIVER in flight is carried to its end with its answer ignored (R156). -/
def InFlight.voided (f : InFlight) : InFlight := { f with isVoid := f.isVoid || f.tx.isDeliver }

/-- The queued DELIVERs leave the list, and one in flight is void (R156). -/
def removeDelivers (s : State) : State :=
  let s := keepTx (fun t => !t.isDeliver) s
  s.withBus { s.bus with inflight := s.bus.inflight.map InFlight.voided }

/-- Queue at the tail of the ordinary part. -/
def queueOrdinary (t : Tx) (s : State) : State := s.withBus { s.bus with ordinary := s.bus.ordinary ++ [t] }

/-- Queue a POLL unless one is queued; a node with fetch-ahead set has it in the fetch-ahead part (R156). -/
def queuePoll (a : Nat) (s : State) : State :=
  if s.bus.queued (.poll a) then s
  else if (s.node a).fetchAhead then s.withBus { s.bus with fetch := s.bus.fetch ++ [.poll a] }
  else queueOrdinary (.poll a) s

/-- Set fetch-ahead: the node's POLL is queued in the fetch-ahead part, or moves to its tail (R151, R156). -/
def setFetchAhead (a : Nat) (s : State) : State :=
  let s := s.setNode a { s.node a with fetchAhead := true }
  if Tx.poll a ∈ s.bus.fetch then s
  else
    s.withBus { s.bus with
      ordinary := s.bus.ordinary.filter (fun t => t ≠ .poll a), fetch := s.bus.fetch ++ [.poll a] }

/-- The page of a DELIVER is in delivery. -/
def State.delivering (s : State) (t : Tx) : Bool :=
  match t with
  | .deliver _ id _ _ _ => s.paging.pages.any fun p => decide (p.id = id) && p.inDelivery
  | _ => false

/-- A DELIVER place is empty: fewer than two queued DELIVERs are of pages in delivery (R156, log 31). -/
def State.deliverPlace (s : State) : Bool :=
  decide (((s.bus.urgent ++ s.bus.fetch ++ s.bus.ordinary).filter s.delivering).length < 2)

/-- Whether an abandoned transaction returns to the list after an urgent claim for node `a` (R157's exceptions). A SET
whose node has become unbound meanwhile returns too, and goes out with no payload (DESIGN CHOICE, log 22). -/
def State.returns (s : State) (a : Nat) (f : InFlight) : Bool :=
  match f.tx with
  | .identify _ => !(s.bus.fetch.any Tx.isIdentify || s.bus.ordinary.any Tx.isIdentify)
  | .poll x => !s.bus.queued (.poll x)
  | .set x => decide (x ≠ a) && !s.bus.queued (.set x)
  | .deliver _ _ _ _ _ => !f.isVoid && s.delivering f.tx && s.deliverPlace

/-- Urgent preemption after an urgent claim for node `a` (R157). -/
def preempt (a : Nat) (s : State) : State :=
  match s.bus.inflight with
  | none => s
  | some f =>
    if f.urgent then s
    else
      s.withBus { s.bus with
        inflight := none, guard := .abandon,
        fetch := if s.returns a f then f.tx :: s.bus.fetch else s.bus.fetch }

/-- The table of R152: a claim applied to the node's SET place. -/
def queueSet (a : Nat) (urgent : Bool) (s : State) : State :=
  if Tx.set a ∈ s.bus.urgent then s
  else if urgent then
    preempt a (s.withBus { s.bus with
      fetch := s.bus.fetch.filter (fun t => t ≠ .set a), ordinary := s.bus.ordinary.filter (fun t => t ≠ .set a),
      urgent := s.bus.urgent ++ [.set a] })
  else if s.bus.waits (.set a) then s
  else queueOrdinary (.set a) s

/-- A SET claim of the owner `who` (R152): nothing for a node that is absent or not bound to it. -/
def claimSet (addr : Option Nat) (who : Binding) (w : Wanted) (urgent : Bool) (s : State) : State :=
  match addr with
  | none => s
  | some a =>
    let n := s.node a
    if n.answering && decide (n.binding = who) then
      queueSet a urgent (s.setNode a { n with wanted := w, wantedUrgent := urgent })
    else s

/-- The poll timer restarts for the present interval; an absent node's timer is stopped (R155). -/
def restartPoll (a : Nat) (s : State) : State :=
  let n := s.node a
  if n.answering then s.setNode a { n with pollEnd := some (s.day.ms + n.pollClass.interval) } else s

/-- The class of a node as its block gives it now; a running timer restarts if that ends it sooner (R155). -/
def refreshPoll (a : Nat) (s : State) : State :=
  let n := s.node a
  let c := s.classOf a
  if n.answering && decide (n.pollClass ≠ c) then
    let e := s.day.ms + c.interval
    s.setNode a { n with pollClass := c, pollEnd := n.pollEnd.map fun t => min t e }
  else s

/-- Every node's class (R155: in the step in which it changes). -/
def refreshPolls (s : State) : State := forEach ((List.range 31).map (· + 1)) refreshPoll s

/-- The first address from the discovery pointer, cyclically, whose node is not PRESENT (R146). -/
def State.nextUnknown (s : State) : Option Nat :=
  ((List.range 31).map fun i => (s.bus.discPtr - 1 + i) % 31 + 1).find? fun a =>
    decide ((s.node a).presence ≠ .present)

/-- A discovery step (R146). -/
def discoveryStep (s : State) : State :=
  match s.nextUnknown with
  | none => s
  | some a => queueOrdinary (.identify a) (s.withBus { s.bus with discPtr := a % 31 + 1 })

/-- The discovery timer matches the day state: stopped in OPENING, running otherwise (R146). -/
def matchDiscovery (s : State) : State :=
  let t :=
    if s.day.state = .opening then none
    else
      match s.bus.discTimer with
      | none => some Config.discoverySec
      | some n => some n
  s.withBus { s.bus with discTimer := t }

end Sys2Proof.Machine
end

