-- ==== Sys2Proof/Machine/PageOps.lean ====
section
/-! DEFINITION. The paging unit's operations (chapter 6): page creation and eviction, effective priority, rate and rush
windows, eligibility, selection and hand-off, outcomes, cancellation, the directory. -/

namespace Sys2Proof.Machine

/-! ### Message codes (R187) -/

def codeCourseReady : Nat := 0x01
def codePlatesShort : Nat := 0x02
def codeOverHold : Nat := 0x03
def codeCabinetFault : Nat := 0x04
def codeDoorOpenLong : Nat := 0x05
def codeRackHeld : Nat := 0x06
def codeLineJam : Nat := 0x07
def codeLockout : Nat := 0x08

/-! ### Records -/

def withPages (l : List Page) (s : State) : State := s.withPaging { s.paging with pages := l }

def State.page (s : State) (id : Nat) : Option Page := s.paging.pages.find? (·.id = id)

/-- Change the page with an id. -/
def updPage (id : Nat) (f : Page → Page) (s : State) : State :=
  withPages (s.paging.pages.map fun p => if p.id = id then f p else p) s

def withSettings (x : PageSettings) (s : State) : State := s.withPaging { s.paging with settings := x }

/-- The team of a TEAM target or of a PAGER target's address (R127). -/
def Target.teamOf : Target → Option Nat
  | .pager a => some (a / 16)
  | .team t => some t
  | .all => none

def State.rate (s : State) (t : Nat) : Rate := if t = 0 then Rate.initial else s.paging.rates.getD (t - 1) Rate.initial
def setRate (t : Nat) (r : Rate) (s : State) : State :=
  if t = 0 then s else s.withPaging { s.paging with rates := s.paging.rates.set (t - 1) r }

def State.rushEnd (s : State) (t : Nat) : Option Nat := if t = 0 then none else s.paging.rush.getD (t - 1) none
def setRush (t : Nat) (e : Option Nat) (s : State) : State :=
  if t = 0 then s else s.withPaging { s.paging with rush := s.paging.rush.set (t - 1) e }

/-- Lifetimes (R136). -/
def Prio.lifetime : Prio → Nat
  | .urgent => 900
  | .rush => 600
  | .normal => 600
  | .info => 120

/-- R127. -/
def State.effective (s : State) (p : Page) : Prio :=
  match p.prio, p.target.teamOf with
  | .normal, some t => if (s.rushEnd t).isSome then .rush else .normal
  | x, _ => x

/-- R129. -/
def State.standing (s : State) (p : Page) : Prio := p.level.getD (s.effective p)

/-- A page is at the base (R129). -/
def Page.atBase (p : Page) : Bool := decide (p.state = .handed) || p.inDelivery

def State.pagesAtBase (s : State) : Nat := (s.paging.pages.filter Page.atBase).length

/-- A team has a present member (R120). -/
def State.teamPresent (s : State) (t : Nat) : Bool :=
  s.paging.dir.any fun e =>
    match e with
    | none => false
    | some g => decide (g.addr / 16 = t) && g.present

/-- R129, condition 1. -/
def State.reachable (s : State) : Target → Bool
  | .pager a =>
    s.paging.dir.any fun e =>
      match e with
      | none => false
      | some g => decide (g.addr = a) && g.present
  | .team t => s.teamPresent t
  | .all => true

/-- R129, condition 2: no other page of the target holds a level at or above the page's standing. -/
def State.levelFree (s : State) (p : Page) : Bool :=
  !s.paging.pages.any fun q =>
    decide (q.id ≠ p.id) && decide (q.target = p.target) &&
      (match q.level with
       | none => false
       | some l => decide (l.code ≤ (s.standing p).code))

/-- A team's rate is exhausted (R128). -/
def State.exhausted (s : State) (t : Nat) : Bool :=
  let r := s.rate t
  r.ends.isSome && decide (s.paging.settings.rate ≤ r.count)

/-- The page would be held back by its team's rate (R129, condition 3; URGENT pages and ALL targets are exempt). -/
def State.rateBlocked (s : State) (p : Page) : Bool :=
  match p.target.teamOf with
  | none => false
  | some t => decide (p.prio ≠ .urgent) && s.exhausted t

/-- R129. -/
def State.eligiblePage (s : State) (p : Page) : Bool :=
  decide (p.state = .queued) && !p.inDelivery && s.reachable p.target && s.levelFree p && !s.rateBlocked p &&
    decide (s.pagesAtBase < Config.baseCap)

/-- The base node is PRESENT and bound (R130). -/
def State.basePresent (s : State) : Bool :=
  match s.paging.settings.base with
  | none => false
  | some a => decide ((s.node a).presence = .present) && decide ((s.node a).binding = .base)

/-! ### Outcomes (R137) -/

/-- The page reaches an outcome: its notice goes to its originating port and to PAGING subscribers, and it leaves the
queue, so that its level is released and its id free. -/
def endPage (id : Nat) (out : PageState) (s : State) : State :=
  match s.page id with
  | none => s
  | some p =>
    let s :=
      match p.origin with
      | .port q => raiseTo q .pageOutcome id (out.code - 3) p.code s
      | .block => raise .pageOutcome id (out.code - 3) p.code s
    withPages (s.paging.pages.filter (·.id ≠ id)) s

/-! ### Selection and hand-off (R129–R131) -/

/-- Hand off one page (R131): the DELIVER of a page that ended while it was queued takes no place (log 31). -/
def handOff (p : Page) (s : State) : State :=
  let lv := s.standing p
  let s := updPage p.id (fun q => { q with inDelivery := true, level := some lv }) s
  queueOrdinary (.deliver (s.paging.settings.base.getD 0) p.id p.target p.code p.arg) s

def withAnti (n : Nat) (s : State) : State := s.withPaging { s.paging with anti := n }

/-- A standing of NORMAL or INFO. -/
def Prio.low (x : Prio) : Bool := decide (x = .normal) || decide (x = .info)

/-- One choice among the eligible pages, with the anti-starvation count it leaves (R130). -/
def State.choose (s : State) : Option (Page × Nat) :=
  let el := s.paging.pages.filter s.eligiblePage
  let lows := el.filter fun p => (s.standing p).low
  match maxBy (fun p => 3 - (s.standing p).code) el with
  | none => none
  | some best =>
    if s.paging.settings.anti ≤ s.paging.anti then
      match lows with
      | low :: _ => some (low, 0)
      | [] => some (best, 0)
    else if (s.standing best).low then some (best, 0)
    else some (best, if lows.isEmpty then 0 else s.paging.anti + 1)

/-- QUEUED INFO pages held back by the rate are dropped (R129), several of them in queue order (DESIGN CHOICE, log 23). -/
def dropInfo (s : State) : State :=
  forEach
    ((s.paging.pages.filter fun p =>
      decide (p.state = .queued) && !p.inDelivery && decide (p.prio = .info) && s.rateBlocked p).map (·.id))
    (fun id => endPage id .dropped) s

/-- At most `n` choices of a selection pass, each after the INFO pages that the rate holds back are dropped (R130). -/
def selectUpTo : Nat → State → State
  | 0, s => dropInfo s
  | n + 1, s =>
    let s := dropInfo s
    if s.basePresent && !s.paging.baseFull then
      match s.choose with
      | none => s
      | some (p, anti) => selectUpTo n (handOff p (withAnti anti s))
    else s

/-- A selection pass (R130); at most two pages are at the base, so no pass makes more choices. -/
def selectPass (s : State) : State := selectUpTo Config.baseCap s

/-! ### Creation (R125, R126) -/

/-- The page that gives way to a page of priority `p`: of the lowest priority present, the oldest. -/
def State.evictable (s : State) (p : Prio) : Option Page :=
  maxBy (fun q => q.prio.code)
    (s.paging.pages.filter fun q =>
      decide (q.state = .queued) && !q.inDelivery && q.level.isNone && decide (p.code < q.prio.code))

/-- The first id from the next-id pointer that no live page has. -/
def State.freeId (s : State) : Nat :=
  (((List.range 256).map fun i => (s.paging.nextId + i) % 256).find? fun i => (s.page i).isNone).getD s.paging.nextId

/-- A QUEUED page joins the tail of a queue that has room. -/
def addPage (target : Target) (code arg : Nat) (prio : Prio) (origin : Origin) (course : Option Nat) (s : State) : State :=
  let id := s.freeId
  s.withPaging { s.paging with
    nextId := (id + 1) % 256,
    pages := s.paging.pages ++
      [{ id := id, target := target, code := code, arg := arg, prio := prio, origin := origin, created := s.now,
         state := .queued, inDelivery := false, level := none, resends := 0, cancelMark := false, course := course,
         resendEnd := none }] }

/-- Make room for a page of priority `p`: none when the queue is full and no page can be evicted (R126). -/
def makeRoom (p : Prio) (s : State) : Option State :=
  if s.paging.pages.length < Config.pageCap then some s
  else (s.evictable p).map fun q => endPage q.id .dropped s

/-- An internal page claim to a team (R125): team 0 and a queue that has no room raise PAGE_DROPPED. -/
def claimPage (target : Target) (code arg : Nat) (prio : Prio) (course : Option Nat) (s : State) : State :=
  if target = .team 0 then raise .pageDropped code (course.getD 0xFF) 1 s
  else
    match makeRoom prio s with
    | none => raise .pageDropped code (course.getD 0xFF) 0 s
    | some t => selectPass (addPage target code arg prio .block course t)

/-- A page of the kitchen team. -/
def pageKitchen (code arg : Nat) (prio : Prio) (course : Option Nat) (s : State) : State :=
  claimPage (.team s.paging.settings.kitchen) code arg prio course s

/-- A page of the dish team. -/
def pageDish (code arg : Nat) (prio : Prio) (course : Option Nat) (s : State) : State :=
  claimPage (.team s.paging.settings.dish) code arg prio course s

/-! ### Windows (R127, R128) -/

/-- Start or restart a team's rush window; a team outside 1..14 does nothing (R127). -/
def startRush (t : Nat) (s : State) : State :=
  if isTeam t then selectPass (setRush t (some (s.now + s.paging.settings.rushLen)) s) else s

/-- Count a transmission against the team's rate (R128). The count past 255 is a free value (log 1). -/
def countRate (p : Page) (s : State) : State :=
  match p.target.teamOf with
  | none => s
  | some t =>
    if p.prio = .urgent then s
    else
      let r := s.rate t
      match r.ends with
      | none => setRate t ⟨1, some (s.now + Config.rateSec)⟩ s
      | some e =>
        if r.count < 255 then setRate t ⟨r.count + 1, some e⟩ s
        else
          let (n, s) := s.freshFree
          setRate t ⟨(Config.rateCountPast255 n).val, some e⟩ s

/-! ### Transmission, acknowledgement, return (R131–R136) -/

/-- A page reported transmitted (R132). -/
def applyTransmitted (id : Nat) (s : State) : State :=
  match s.page id with
  | none => s
  | some p =>
    if p.state = .handed then
      if p.cancelMark then endPage id .cancelled s
      else
        countRate p
          (updPage id (fun q => { q with state := .sent, resendEnd := some (s.now + Config.resendSec) }) s)
    else s

/-- The page of an acknowledgement (R133). -/
def applyAck (id : Nat) (s : State) : State :=
  match s.page id with
  | none => s
  | some p =>
    if p.state = .handed then
      if p.cancelMark then endPage id .cancelled s else endPage id .acked (countRate p s)
    else endPage id .acked s

/-- A page comes back from the base or from an open DELIVER: CANCELLED if marked, else QUEUED in its place, its level
released if it was never transmitted; one that was in delivery past its lifetime expires (R131, R134, R136). -/
def returnPage (id : Nat) (s : State) : State :=
  match s.page id with
  | none => s
  | some p =>
    if p.cancelMark then endPage id .cancelled s
    else
      let s := updPage id
        (fun q => { q with
          state := .queued, inDelivery := false, level := if q.resends = 0 then none else q.level }) s
      if p.inDelivery && decide (p.created + p.prio.lifetime ≤ s.now) then endPage id .expired s else s

def withBaseFull (b : Bool) (s : State) : State := s.withPaging { s.paging with baseFull := b }

/-- The answer ACCEPTED or FULL to a DELIVER (R131); a page no longer in delivery ignores it. -/
def answerDeliver (id : Nat) (accepted : Bool) (s : State) : State :=
  match s.page id with
  | none => s
  | some p =>
    if p.inDelivery then
      if accepted then updPage id (fun q => { q with state := .handed, inDelivery := false }) s
      else selectPass (withBaseFull true (returnPage id s))
    else s

/-- A missed DELIVER (R131). -/
def missDeliver (id : Nat) (s : State) : State :=
  match s.page id with
  | none => s
  | some p => if p.inDelivery then selectPass (returnPage id s) else s

/-- The base is lost or unbound (R134). -/
def baseLost (s : State) : State :=
  let ids := (s.paging.pages.filter Page.atBase).map (·.id)
  selectPass (withBaseFull false (removeDelivers (forEach ids returnPage s)))

/-! ### Cancellation (R138, R139) -/

/-- A cancel reaching one page; a SENT page is cancelled only by PAGE_CANCEL. -/
def cancelPage (id : Nat) (sentToo : Bool) (s : State) : State :=
  match s.page id with
  | none => s
  | some p =>
    if p.atBase then updPage id (fun q => { q with cancelMark := true }) s
    else if p.state = .sent && !sentToo then s
    else endPage id .cancelled s

/-- The pages of a related course, or its COURSE_READY pages alone, in queue order (R139). -/
def cancelCoursePages (c : Nat) (readyOnly : Bool) (s : State) : State :=
  let ids := (s.paging.pages.filter fun p =>
    decide (p.course = some c) && (!readyOnly || decide (p.code = codeCourseReady))).map (·.id)
  selectPass (forEach ids (fun id => cancelPage id false) s)

/-- The related course of every live page naming the slot is cleared (R139). -/
def clearRelated (c : Nat) (s : State) : State :=
  withPages (s.paging.pages.map fun p => if p.course = some c then { p with course := none } else p) s

/-! ### The directory (R120–R122) -/

def withDir (l : List (Option Pager)) (s : State) : State := s.withPaging { s.paging with dir := l }

/-- The position of an address. -/
def State.dirFind (s : State) (a : Nat) : Option Nat :=
  s.paging.dir.findIdx? fun e =>
    match e with
    | none => false
    | some g => decide (g.addr = a)

def setDir (i : Nat) (g : Pager) (s : State) : State := withDir (s.paging.dir.set i (some g)) s

/-- A pager already in the directory is PRESENT and seen now. -/
def refreshPager (a : Nat) (s : State) : State :=
  match s.dirFind a with
  | none => s
  | some i => setDir i ⟨a, true, s.now⟩ s

def State.presentPagers (s : State) : Nat :=
  (s.paging.dir.filter fun e =>
    match e with
    | none => false
    | some g => g.present).length

/-- The ABSENT entry seen longest ago, the lowest-numbered on a tie. -/
def State.oldestAbsent (s : State) : Option Nat :=
  ((sortBy (fun x y => decide (x.1 ≤ y.1))
    ((s.paging.dir.zipIdx.filterMap fun x =>
      match x.1 with
      | none => none
      | some g => if g.present then none else some (g.lastSeen, x.2))))).head?.map Prod.snd

/-- A check-in (R121). -/
def applyCheckIn (a : Nat) (s : State) : State :=
  if isPager a then
    match s.dirFind a with
    | some _ => refreshPager a s
    | none =>
      match s.paging.dir.findIdx? Option.isNone with
      | some i => setDir i ⟨a, true, s.now⟩ s
      | none =>
        match s.oldestAbsent with
        | some i => setDir i ⟨a, true, s.now⟩ s
        | none =>
          if s.paging.dirFull then s
          else
            let s := raise .directoryFull a s.presentPagers 0 s
            s.withPaging { s.paging with dirFull := true }
  else s

/-- The REPORT of the base (R132): transmissions, acks, check-ins, then one selection pass. -/
def applyBaseReport (r : BaseRep) (s : State) : State :=
  let s := forEach r.transmitted applyTransmitted s
  let s := r.acks.foldl (fun t x => refreshPager x.1 (applyAck x.2 t)) s
  let s := forEach r.checkIns applyCheckIn s
  selectPass (withBaseFull false s)

/-- Entries whose last-seen time lies the presence age behind the clock become ABSENT, by the age `age` (R122). -/
def agePagers (age : Option Nat) (s : State) : State :=
  match age with
  | none => s
  | some n =>
    let due := fun (g : Pager) => g.present && decide (g.lastSeen + n ≤ s.now)
    if s.paging.dir.any (fun e => match e with | none => false | some g => due g) then
      let s := withDir (s.paging.dir.map fun e => e.map fun g => if due g then { g with present := false } else g) s
      s.withPaging { s.paging with dirFull := false }
    else s

/-! ### The day (R143) -/

/-- DAY_OPEN. -/
def pagingOpen (s : State) : State :=
  let s := removeDelivers s
  s.withPaging { s.paging with
    pages := [], baseFull := false, rush := List.replicate 14 none, rates := List.replicate 14 Rate.initial, anti := 0,
    dir := s.paging.dir.map fun e => e.map fun g => { g with lastSeen := 0 } }

end Sys2Proof.Machine
end

