-- ==== Sys2Proof/Machine/CourseOps.lean ====
section
/-! DEFINITION. The course controller's operations (chapter 2) and the batch moves they need (R73): earmarks and owing
lists, readiness, the crediting of draws, firing, cancelling and closing a course. -/

namespace Sys2Proof.Machine

/-! ### Batches (R73) -/

/-- The batch states follow the run condition; a COOKING batch whose last second has passed is not paused. -/
def Cab.refreshBatches (c : Cab) : Cab :=
  { c with batches := c.batches.map fun b =>
      if c.runs then
        if b.state = .waiting ∨ b.state = .paused then { b with state := .cooking } else b
      else if b.state = .cooking ∧ b.remaining ≠ 0 then { b with state := .paused }
      else b }

/-- Entry to OFF, FAULT or OFFLINE pauses WAITING and COOKING batches. -/
def Cab.pauseBatches (c : Cab) : Cab :=
  { c with batches := c.batches.map fun b =>
      if b.state = .waiting ∨ (b.state = .cooking ∧ b.remaining ≠ 0) then { b with state := .paused } else b }

/-- The course's batch becomes REMOVED and leaves its oven's list. -/
def removeBatch (c : Nat) (s : State) : State :=
  match (s.course c).batch with
  | none => s
  | some b =>
    let k := s.cab b.oven
    s.setCab b.oven { k with batches := k.batches.filter (·.course ≠ c) }

/-- At the fire, the batch moves from BOOKED to WAITING, and cooks if its oven runs. -/
def startBatch (c : Nat) (s : State) : State :=
  match (s.course c).batch with
  | none => s
  | some b =>
    let k := s.cab b.oven
    s.setCab b.oven (Cab.refreshBatches { k with
      batches := k.batches.map fun x => if x.course = c ∧ x.state = .booked then { x with state := .waiting } else x })

/-! ### Earmarks (R31–R35) -/

def Earmark.before (x y : Earmark) : Bool :=
  decide (x.course < y.course) || (decide (x.course = y.course) && decide (x.cab ≤ y.cab))

/-- Set a pair's earmark count; an entry whose count is 0 leaves the table (R31). -/
def setEarmark (c k n : Nat) (s : State) : State :=
  let rest := s.earmarks.filter fun e => !(decide (e.course = c) && decide (e.cab = k))
  s.withEarmarks (if n = 0 then rest else insertBy Earmark.before ⟨c, k, n⟩ rest)

/-- Change a course's owed. -/
def setOwed (c n : Nat) (s : State) : State := s.setCourse c { s.course c with owed := n }

/-- The course takes the lesser of the cabinet's free plates and its owed (R29, R34). -/
def takeEarmark (c k : Nat) (s : State) : State :=
  let n := min (s.freePlates k) (s.course c).owed
  if n = 0 then s else setOwed c ((s.course c).owed - n) (setEarmark c k (s.earmark c k + n) s)

/-- Lower an earmark by one plate. -/
def dropEarmark (c k : Nat) (s : State) : State := setEarmark c k (s.earmark c k - 1) s

/-- A warmer of the course's class and member set, in an eligible state (R29, R33). -/
def State.servesCourse (s : State) (c k : Nat) : Bool :=
  (s.cab k).eligible && decide ((s.cab k).cls = some (s.course c).cls) && s.reaches c k

/-- The course takes earmarks from the warmers it can reach, in ascending slot order (R29, step 4). -/
def takeEarmarks (c : Nat) (s : State) : State :=
  forEach (List.range 24) (fun k t => if t.servesCourse c k then takeEarmark c k t else t) s

/-- Free plates of an eligible warmer are given out along its class's owing list (R34). -/
def walkOwing (k : Nat) (s : State) : State :=
  match (s.cab k).cls with
  | none => s
  | some cls => forEach (s.owing cls) (fun c t => if t.servesCourse c k then takeEarmark c k t else t) s

/-- The refill of R35. -/
def refill (cls : Nat) (s : State) : State := forEach (s.owing cls) takeEarmarks s

/-! ### States and readiness (R37–R39, R44) -/

/-- Enter a course state, with its COURSE_STATE notice (R51). -/
def enterCourse (c : Nat) (st : CourseState) (s : State) : State :=
  let old := (s.course c).state
  raise .courseState c st.code old.code (s.setCourse c { s.course c with state := st })

/-- A FIRED course becomes READY (R38): rush window, page, notice. -/
def becomeReady (c : Nat) (s : State) : State :=
  let x := s.course c
  let team := (s.fn x.fn).team
  let s := s.setCourse c { x with state := .ready }
  let s := startRush team s
  let s := claimPage (.team team) codeCourseReady x.station .normal (some c) s
  raise .courseState c CourseState.ready.code CourseState.fired.code s

/-- A READY course reverts (R39): OWED 0 or COLD 1, and its COURSE_READY pages are cancelled. -/
def revert (c : Nat) (s : State) : State :=
  let x := s.course c
  let s := s.setCourse c { x with state := .fired }
  cancelCoursePages c true (raise .courseReverted c (if 0 < x.owed then 0 else 1) x.owed s)

/-- Evaluate one course's readiness (R37). -/
def evaluate (c : Nat) (s : State) : State :=
  match (s.course c).state with
  | .fired => if s.isReady c then becomeReady c s else s
  | .ready => if s.isReady c then s else revert c s
  | _ => s

/-- The PLATES_SHORT page, once a course (R44). -/
def pageShort (c : Nat) (s : State) : State :=
  let x := s.course c
  if x.state.active && s.batchDone c && decide (0 < x.owed) && !x.shortPaged then
    pageDish codePlatesShort x.owed .rush (some c) (s.setCourse c { x with shortPaged := true })
  else s

/-- The courses are evaluated in fire order (R37), and then PLATES_SHORT is judged, after any refill of the step: an owed
that has risen and is met again is not paged (DESIGN CHOICE, log 12). -/
def evaluateAll (s : State) : State :=
  let s := forEach s.activeCourses evaluate s
  forEach s.activeCourses pageShort s

/-- A course gives up its earmark at a cabinet: owed rises by the count (R35). -/
def releaseEntry (e : Earmark) (s : State) : State :=
  setOwed e.course ((s.course e.course).owed + e.count) (setEarmark e.course e.cab 0 s)

def releaseEntries (l : List Earmark) (s : State) : State := l.foldl (fun t e => releaseEntry e t) s

/-- A warmer has left the eligible states (R35): PLATES_SHORT is judged after the refill (log 12). -/
def releaseWarmer (k : Nat) (s : State) : State :=
  match s.earmarks.filter (·.cab = k) with
  | [] => s
  | es =>
    let s := releaseEntries es s
    match (s.cab k).cls with
    | none => evaluateAll s
    | some cls => evaluateAll (refill cls s)

/-- Lockout entry releases every earmark; no warmer is eligible to refill from (R35, R181). -/
def releaseAllEarmarks (s : State) : State := evaluateAll (releaseEntries s.earmarks s)

/-! ### Draws (R40–R43) -/

/-- Take plates from the lots, oldest first; emptied lots leave the list (R72). -/
def takeLots : List Lot → Nat → List Lot
  | [], _ => []
  | l :: ls, n =>
    if n = 0 then l :: ls
    else if l.count ≤ n then takeLots ls (n - l.count)
    else { l with count := l.count - n } :: ls

/-- A READY course moves to PLATING at its first credited draw; its batch is removed (R43). -/
def startPlating (c : Nat) (s : State) : State :=
  if (s.course c).state = .ready then enterCourse c .plating (removeBatch c s) else s

/-- The course with the highest fire sequence holding an earmark at `k` loses a plate there (R41, R42). -/
def robYoungest (k : Nat) (s : State) : State :=
  match (s.holdersAt k).getLast? with
  | none => s
  | some c => setOwed c ((s.course c).owed + 1) (dropEarmark c k s)

/-- The lowest-numbered other cabinet at which the course holds an earmark. -/
def State.otherEarmark (s : State) (c k : Nat) : Option Nat :=
  (sortBy (fun a b => decide (a ≤ b))
    ((s.earmarks.filter fun e => decide (e.course = c) && decide (e.cab ≠ k)).map (·.cab))).head?

/-- Settle the balance of one plate drawn at `k` for its serving course (R41); `free` is F before the draw. In case c with
no free plate the youngest course is robbed before the plate released at `j` is walked (DESIGN CHOICE, log 12). -/
def settleDraw (c k cls free : Nat) (s : State) : State :=
  if 0 < s.earmark c k then dropEarmark c k s
  else if 0 < free ∧ 0 < (s.course c).owed then setOwed c ((s.course c).owed - 1) s
  else
    match s.otherEarmark c k with
    | some j =>
      let s := dropEarmark c j s
      if 0 < free then walkOwing j s else refill cls (walkOwing j (robYoungest k s))
    | none => refill cls (robYoungest k (setOwed c ((s.course c).owed - 1) s))

/-- One plate drawn at warmer `k` of class `cls` (R41, R42): SERVED is notified before the other courses are judged
(DESIGN CHOICE, log 12). -/
def singleDraw (k cls : Nat) (serving : Option Nat) (s : State) : State :=
  let free := s.freePlates k
  let takePlate := fun (t : State) => t.setCab k { t.cab k with lots := takeLots (t.cab k).lots 1 }
  match serving with
  | some c =>
    let s := takePlate (startPlating c s)
    let s := s.setCourse c { s.course c with plated := (s.course c).plated + 1 }
    let s := settleDraw c k cls free s
    let s := if (s.course c).plated = (s.course c).covers then enterCourse c .served s else s
    evaluateAll s
  | none =>
    let s := addHouse cls 1 (takePlate s)
    evaluateAll (if 0 < free then s else refill cls (robYoungest k s))

/-- The single draws of a delta; the serving course stays until it is SERVED (R40, R41). -/
def drawPlates (k cls : Nat) : Nat → Option Nat → State → State
  | 0, _, s => s
  | n + 1, serving, s =>
    let s := singleDraw k cls serving s
    let next :=
      match serving with
      | none => none
      | some c => if (s.course c).state = .served then s.serving k else some c
    drawPlates k cls n next s

/-! ### Fire, cancel, close (R28, R29, R48, R49) -/

/-- The counter's value is given, and the counter rises or is exhausted (R28). -/
def takeFireSeq (s : State) : State :=
  s.withFire (if s.fire.next = 65535 then ⟨65535, true⟩ else ⟨s.fire.next + 1, s.fire.exhausted⟩)

/-- Fire a course (R29). -/
def fireCourse (c : Nat) (s : State) : State :=
  let x := s.course c
  let seq := s.fire.next
  let s := takeFireSeq s
  let s := s.setCourse c { x with fireSeq := some seq, fireTime := none, state := .fired, owed := x.covers, plated := 0 }
  let s := takeEarmarks c (startBatch c s)
  evaluate c (raise .courseFired c seq (s.course c).owed s)

/-- Cancel a course (R48): it leaves its owing list before its plates are given out (log 14). -/
def cancelCourse (c : Nat) (s : State) : State :=
  let old := (s.course c).state
  let s := removeBatch c s
  let es := s.earmarks.filter (·.course = c)
  let s := s.withEarmarks (s.earmarks.filter (·.course ≠ c))
  let s := s.setCourse c { s.course c with state := .cancelled, owed := 0, fireTime := none }
  let s := forEach (es.map (·.cab)) walkOwing s
  let s := if es.isEmpty then s else evaluateAll s
  raise .courseState c CourseState.cancelled.code old.code (cancelCoursePages c false s)

/-- A course's outstanding plates pass to house plated and its slot is EMPTY (R12, R49). -/
def emptyCourse (c : Nat) (s : State) : State :=
  let x := s.course c
  (addHouse x.cls (x.plated - x.returned) s).setCourse c Course.initial

end Sys2Proof.Machine
end

