-- ==== Sys2Proof/Machine/RackOps.lean ====
section
/-! DEFINITION. The claims on the power budget unit (R103), which call for admission and the restore check at the
step's end (log 2), and the operations of the wash tracker on one rack, one stop reason or one booster (R86, R91–R95). -/

namespace Sys2Proof.Machine

/-! ### Claims on the power budget unit (R103) -/

/-- Lower to `n`: grant and request become `n`, and any entry is removed. A lowering takes no units: only admission and
restore raise a grant (R105, R108), and a grant that is below `n`, as none is while units stand in R52's order, stays. -/
def lowerTo (c n : Nat) (s : State) : State :=
  let x := s.consumer c
  callRestore (s.setConsumer c { x with grant := min n x.grant, request := min n x.grant, reqTime := none })

/-- Request `n`: a wait list entry made now, or the entry it has with its time; at or below the grant, a lowering. -/
def request (c n : Nat) (s : State) : State :=
  let x := s.consumer c
  if x.grant < n then
    let t := if x.grant < x.request then x.reqTime else some s.now
    callAdmission (s.setConsumer c { x with request := n, reqTime := t })
  else lowerTo c n s

/-- Release, which also withdraws a marked request. -/
def release (c : Nat) (s : State) : State :=
  callRestore (s.setConsumer c { s.consumer c with grant := 0, request := 0, mark := false, reqTime := none })

/-- The owner is OFFLINE or its node is lost: measured draw 0, last report unset, and the restore check follows. -/
def clearMeasured (c : Nat) (s : State) : State :=
  callCheck (s.setConsumer c { s.consumer c with measured := 0, lastReport := none })

/-- The node of the owner has joined again: its first report bills nothing (R113). -/
def unsetReport (c : Nat) (s : State) : State := s.setConsumer c { s.consumer c with lastReport := none }

/-! ### One line -/

def withExits (l : Nat) (x : List Rack) (s : State) : State := s.setLine l { s.line l with exits := x }
def withInside (l : Nat) (x : List Rack) (s : State) : State := s.setLine l { s.line l with inside := x }
def withStaged (l : Nat) (x : List Rack) (s : State) : State := s.setLine l { s.line l with staged := x }
def withStops (l : Nat) (x : StopSet) (s : State) : State := s.setLine l { s.line l with stops := x }

/-- Change the rack with a tag in the exit section. -/
def updExit (l tag : Nat) (f : Rack → Rack) (s : State) : State :=
  withExits l ((s.line l).exits.map fun r => if r.tag = tag then f r else r) s

/-- RUN 0, STOP 1; RUNNING 0, STOPPED 1 (R77's lists, log 8). -/
def runCode (run : Bool) : Nat := if run then 0 else 1

/-- Backpressure by the watermarks (R93). -/
def backpressure (l : Nat) (s : State) : State :=
  let x := s.line l
  if x.high ≤ x.occupancy then withStops l { x.stops with backpressure := true } s
  else if x.occupancy ≤ x.low then withStops l { x.stops with backpressure := false } s
  else s

/-- Reasons of RACK_LEFT (R186). -/
def leftLoaded (slot : Nat) : Nat := pair 0 slot
def leftCleared : Nat := pair 1 0xFF
def leftSoiled : Nat := pair 2 0xFF
def leftClosed : Nat := pair 3 0xFF

/-- A rack of the exit section leaves the queue; occupancy falls and backpressure is applied (R87, R88, R91). -/
def leaveExit (l tag why : Nat) (s : State) : State :=
  let s := withExits l ((s.line l).exits.filter (·.tag ≠ tag)) s
  backpressure l (raise .rackLeft l tag why s)

/-- A route of the rack has ended without the rack leaving (R91): a routing pass of the line follows. -/
def unrouteRack (l tag : Nat) (s : State) : State :=
  callRoute l (updExit l tag (fun r => { r with dest := none, routeTime := none }) s)

/-- Plates of the rack were loaded (R91). -/
def loadRack (l tag n : Nat) (s : State) : State := updExit l tag (fun r => { r with loaded := r.loaded + n }) s

/-- A rack from inside the machine becomes HELD (R7, R84–R86): transfer, notice and page. -/
def holdRack (l : Nat) (r : Rack) (why : HoldReason) (s : State) : State :=
  let s := withExits l ((s.line l).exits ++ [{ r with reason := some why }]) s
  let s := transfer r.cls .washing .held r.count s
  let s := raise .rackHeld l r.tag why.code s
  callClose
    (match why with
     | .transit => pageDish codeLineJam r.tag .rush none s
     | _ => pageDish codeRackHeld r.tag .normal none s)

/-- The actual conveyor, with the notice of its change (R94): the stop reasons, and the conveyor that R92 wants while they
stand. -/
def setRunning (l : Nat) (run : Bool) (s : State) : State :=
  let x := s.line l
  if x.running = run then s
  else
    raise (if run then .lineRunning else .lineStopped) l x.stops.mask (runCode x.stops.isEmpty)
      (s.setLine l { x with running := run })

/-- The booster claims its request, or withdraws it, as R95's three conditions hold. -/
def boosterSync (l : Nat) (s : State) : State :=
  let x := s.line l
  let c := s.consumer (24 + l)
  if x.opRun && s.dayRuns && decide (0 < x.booster) then
    if c.request = 0 then request (24 + l) x.booster s else s
  else if 0 < c.request ∨ 0 < c.grant then release (24 + l) s
  else s

/-- The wanted conveyor follows the stop reasons; a change claims a SET (R92). -/
def conveyorSync (urgent : Bool) (l : Nat) (s : State) : State :=
  let x := s.line l
  let want := x.stops.isEmpty
  if x.wantedRun = want then s
  else claimSet x.addr (.line l) (.line want) urgent (s.setLine l { x with wantedRun := want })

end Sys2Proof.Machine
end

