-- ==== Sys2Proof/Machine/CabinetOps.lean ====
section
/-! DEFINITION. The cabinet controller's operations (chapter 3): changes of state with what each entry does, the latch,
routes, loads, draws, and the judging of a temperature. -/

namespace Sys2Proof.Machine

/-! ### Changes of state (section 3.2) -/

/-- The wanted element mode of a state (section 3.2); WAIT_POWER keeps the mode that matches its grant (log 15). -/
def CabState.mode (st : CabState) (old : ElementMode) : ElementMode :=
  match st with
  | .waitPower => old
  | .heating => .heat
  | .holding => .hold
  | .sleep => .standby
  | .shed => .standby
  | .offline => .off
  | .off => .off
  | .fault => .off

/-- A SET claim for the cabinet's node: wanted element mode and setpoint (R54). OFFLINE claims none. -/
def claimCab (k : Nat) (urgent : Bool) (s : State) : State :=
  let c := s.cab k
  if c.state = .offline then s else claimSet c.addr (.cabinet k) (.cabinet c.wantMode c.setpoint) urgent s

/-- The record after a change of state: wanted mode, batches (R73), and the sleep timer that runs in HOLDING only. -/
def Cab.enter (c : Cab) (st : CabState) : Cab :=
  let c := { c with state := st, wantMode := st.mode c.wantMode, sleepT := none }
  match st with
  | .off | .fault | .offline => c.pauseBatches
  | _ => c.refreshBatches

/-- A change of state (R54): notice, SET, earmarks released or plates given out, routing passes, completion test. -/
def changeState (k : Nat) (st : CabState) (urgent : Bool) (s : State) : State :=
  let c := s.cab k
  if c.state = st then s
  else
    let s := s.setCab k (c.enter st)
    let s := claimCab k urgent (raise .cabinetState k st.code c.state.code s)
    let s :=
      if c.isWarmer && c.state.eligible && !st.eligible then releaseWarmer k s
      else if c.isWarmer && !c.state.eligible && st.eligible && !c.lots.isEmpty then evaluateAll (walkOwing k s)
      else s
    callClose (callRoutes s)

/-- Enter WAIT_POWER and claim heat units; a grant that already reaches them is given at once (R55, R56, R58, log 15). -/
def requestHeat (k : Nat) (s : State) : State :=
  let s := changeState k .waitPower false s
  let s := request k (s.cab k).heat s
  if (s.cab k).heat ≤ (s.consumer k).grant then changeState k .heating false s else s

/-- Every route of the cabinet is cancelled; the racks are unrouted (R70). -/
def cancelRoutes (k : Nat) (s : State) : State :=
  let rs := (s.cab k).routes
  let s := s.setCab k { s.cab k with routes := [] }
  rs.foldl (fun t r => unrouteRack r.line r.tag t) s

/-- The whole lot total of a warmer goes to CLEAN and its list is emptied (R10). -/
def unload (k : Nat) (s : State) : State :=
  let c := s.cab k
  match c.cls with
  | none => s
  | some cls => transfer cls .inWarmer .clean c.lotTotal (s.setCab k { c with lots := [] })

/-- Entry to OFF (R57). -/
def enterOff (k : Nat) (urgent : Bool) (s : State) : State :=
  let s := changeState k .off urgent (release k s)
  let s := s.setCab k { s.cab k with sleepT := none, oobT := none, doorT := none }
  unload k (cancelRoutes k s)

/-- Entry to OFFLINE (R60, R66, R103). -/
def enterOffline (k : Nat) (s : State) : State :=
  let s := cancelRoutes k (changeState k .offline false (clearMeasured k (release k s)))
  let c := s.cab k
  s.setCab k { c with
    lots := c.lots.map (fun l => { l with warmFrom := none }), sleepT := none, oobT := none, doorT := none,
    stale := false }

/-- The node is lost or found unbound (R60): OFFLINE, or a FAULT cabinet marked stale. -/
def cabLost (k : Nat) (s : State) : State :=
  if (s.cab k).state = .fault then s.setCab k { s.cab k with stale := true } else enterOffline k s

/-- OVEN_FAULT on a course with a batch in a faulted oven (R46). -/
def setOvenFault (k : Nat) (b : Batch) (s : State) : State :=
  let x := s.course b.course
  if x.ovenFault then s
  else raise .courseOvenFault b.course k b.state.code (s.setCourse b.course { x with ovenFault := true })

/-- Entry to FAULT (R64); COURSE_OVEN_FAULT in booking order (R46; DESIGN CHOICE, log 12). -/
def enterFault (k : Nat) (s : State) : State :=
  let s := s.setCab k { s.cab k with wantedOn := false }
  let s := changeState k .fault true (release k s)
  let s := cancelRoutes k s
  let s := (s.cab k).batches.foldl (fun t b => setOvenFault k b t) s
  pageKitchen codeCabinetFault k .urgent none s

/-- An idle warmer enters SLEEP (R58). -/
def enterSleep (k : Nat) (s : State) : State := changeState k .sleep false (lowerTo k (s.cab k).standby s)

/-- Wanted mode OFF takes a cabinet that is on to OFF (R61, R178, R181). -/
def switchOff (k : Nat) (urgent : Bool) (s : State) : State :=
  let s := s.setCab k { s.cab k with wantedOn := false }
  if (s.cab k).state.on then enterOff k urgent s else s

/-- A cabinet in OFF whose wanted mode is ON enters WAIT_POWER while the day runs (R55). -/
def switchOn (k : Nat) (s : State) : State :=
  let c := s.cab k
  if decide (c.state = .off) && c.wantedOn && s.dayRuns then requestHeat k s else s

/-! ### Temperature (R56) -/

/-- A HEATING cabinet in band holds; a HOLDING cabinet far below band claims its raise. -/
def judgeNow (k : Nat) (s : State) : State :=
  let c := s.cab k
  match c.state with
  | .heating => if c.inBand then changeState k .holding false (lowerTo k c.hold s) else s
  | .holding => if c.farBelow then requestHeat k s else s
  | _ => s

/-- The moves a report's temperature calls for: as above, and a raise withdrawn once in band. -/
def judgeReport (k : Nat) (s : State) : State :=
  let c := s.cab k
  if decide (c.state = .waitPower) && decide (c.wantMode = .hold) then
    if c.inBand then changeState k .holding false (lowerTo k (s.consumer k).grant s) else s
  else judgeNow k s

/-- A new setpoint: SET claimed, and judged at once (R56, R62). -/
def applySetpoint (k : Nat) (t : Int) (band : Nat) (s : State) : State :=
  judgeNow k (claimCab k false (s.setCab k { s.cab k with setpoint := t, band := band }))

/-! ### Conditions (R63–R66, R180) -/

/-- The latch on a report's condition set (R63). -/
def latch (k : Nat) (set : CondSet) (s : State) : State :=
  let c := s.cab k
  if set = c.live then s
  else if c.latched then s.setCab k { c with live := set }
  else
    raise .cabinetCondition k set.mask c.state.code
      (s.setCab k { c with latchedSet := set, latched := true, live := set })

def setConfirm (k : Nat) (t : Option Nat) (s : State) : State :=
  s.withDay { s.day with confirm := s.day.confirm.set k t }

/-- A claim to start the confirm timer (R180). -/
def startConfirm (k : Nat) (s : State) : State :=
  if s.day.state = .lockout then s
  else
    match s.day.confirm.getD k none with
    | some _ => s
    | none => setConfirm k (some s.day.ms) s

/-- A report's condition set: latch, fault entry, confirm timer, door timer (R63, R64, R66, R180). -/
def applyConditions (k : Nat) (set : CondSet) (s : State) : State :=
  let old := (s.cab k).live
  let s := latch k set s
  let newFault := (set.overtemp && !old.overtemp) || (set.probeFault && !old.probeFault) ||
    (set.elementFault && !old.elementFault)
  let s := if newFault && decide ((s.cab k).state ≠ .fault) then enterFault k s else s
  let s := if set.overtemp && !old.overtemp then startConfirm k s else s
  let c := s.cab k
  if set.doorOpen && !old.doorOpen then s.setCab k { c with doorT := some Config.doorSec }
  else if !set.doorOpen && old.doorOpen then s.setCab k { c with doorT := none }
  else s

/-! ### Routes (R70) -/

/-- R70's acceptance test for `n` plates of a class. -/
def Cab.accepts (c : Cab) (cls n : Nat) : Bool :=
  c.isWarmer && decide (c.cls = some cls) && c.state.takesRoutes && decide (c.lotTotal + c.pending + n ≤ c.capacity)

/-- An accepted route: its entry joins the list, the sleep timer stops, a SLEEP warmer wakes (R58, R70). -/
def acceptRoute (k line tag n : Nat) (s : State) : State :=
  let c := s.cab k
  let s := s.setCab k { c with routes := c.routes ++ [⟨line, tag, n, 0⟩], sleepT := none }
  if c.state = .sleep then requestHeat k s else s

/-- The wash tracker cancels one route (R70). -/
def dropRoute (k line tag : Nat) (s : State) : State :=
  let c := s.cab k
  s.setCab k { c with routes := c.routes.filter fun r => !(decide (r.line = line) && decide (r.tag = tag)) }

/-- The cabinet controller cancels one route: the rack is unrouted (R71). -/
def cancelRoute (k : Nat) (r : Route) (s : State) : State := unrouteRack r.line r.tag (dropRoute k r.line r.tag s)

/-! ### Loads and draws (R71, R72) -/

/-- Fill entries in route order with `n` plates. -/
def fillRoutes : Nat → List Route → List Route
  | _, [] => []
  | n, r :: rs =>
    let m := min n (r.count - r.loaded)
    { r with loaded := r.loaded + m } :: fillRoutes (n - m) rs

/-- The plates a route still waits for. -/
def Route.left (r : Route) : Nat := r.count - r.loaded

/-- The routes to cancel, youngest first, until `need` plates of pending are given up; a filled entry is passed over. -/
def routesToCancel (need : Nat) : List Route → List Route
  | [] => []
  | r :: rs =>
    if need = 0 then []
    else if r.left = 0 then routesToCancel need rs
    else r :: routesToCancel (need - r.left) rs

/-- One lot of the applied count joins the list, or the newest lot of a full list (R71, step 5). -/
def Cab.addLot (c : Cab) (n now : Nat) : Cab :=
  let t := if c.inBand then some now else none
  if c.lots.length < Config.lotCap then { c with lots := c.lots ++ [⟨n, t⟩] }
  else
    match c.lots.getLast? with
    | none => c
    | some l => { c with lots := c.lots.dropLast ++ [⟨l.count + n, t⟩] }

/-- The plates that went into each entry reach its rack; a filled entry leaves, and its rack with it (R70, R91). -/
def settleRoute (k : Nat) (old new : Route) (s : State) : State :=
  let s := if new.loaded = old.loaded then s else loadRack new.line new.tag (new.loaded - old.loaded) s
  if new.left = 0 then leaveExit new.line new.tag (leftLoaded k) (dropRoute k new.line new.tag s) else s

/-- A load delta of `n` plates accepted in a state other than OFF and FAULT (R71, steps 2 to 6). -/
def loadPlates (k n : Nat) (s : State) : State :=
  let c := s.cab k
  let routed := min n c.pending
  let rest := n - routed
  let filled := fillRoutes routed c.routes
  let used := c.lotTotal + routed
  let excess := used + (c.pending - routed) + rest - c.capacity
  let gone := routesToCancel excess filled.reverse
  let s := gone.foldl (fun t r => cancelRoute k r t) s
  let kept := (s.cab k).routes
  let room := c.capacity - used - total ((fillRoutes routed kept).map Route.left)
  let taken := min rest room
  let s := if taken < rest then mismatch k rest taken s else s
  match c.cls with
  | none => s
  | some cls =>
    let claim := routed + taken
    let applied := min claim (s.ware cls).clean
    let s := transfer cls .clean .inWarmer applied s
    let s := if applied < claim then mismatch k n applied s else s
    if applied = 0 then s
    else
      let after := fillRoutes applied kept
      let s := s.setCab k { (s.cab k).addLot applied s.now with routes := after, sleepT := none }
      let s := if (s.cab k).state = .sleep then requestHeat k s else s
      let s := evaluateAll (walkOwing k s)
      callRoutes ((kept.zip after).foldl (fun t x => settleRoute k x.1 x.2 t) s)

/-- A load delta (R71). -/
def applyLoad (k n : Nat) (s : State) : State :=
  if n = 0 then s
  else if (s.cab k).state = .off ∨ (s.cab k).state = .fault then mismatch k n 0 s
  else loadPlates k n s

/-- A draw delta (R72): the plates taken from the lots, which IN_WARMER holds (R3), are credited one by one. -/
def applyDraw (k n : Nat) (s : State) : State :=
  if n = 0 then s
  else
    let lots := (s.cab k).lotTotal
    let s := if lots < n then mismatch k n lots s else s
    match (s.cab k).cls with
    | none => s
    | some cls =>
      let m := min (min n lots) (s.ware cls).inWarmer
      if m = 0 then s else callRoutes (drawPlates k cls m (s.serving k) (transfer cls .inWarmer .plated m s))

/-- A counter's delta against its baseline, modulo 256; an unset baseline yields 0 (R68). -/
def counterDelta (base : Option Nat) (v : Nat) : Nat :=
  match base with
  | none => 0
  | some b => (v + 256 - b % 256) % 256

end Sys2Proof.Machine
end

