-- ==== Sys2Proof/Machine/PowerOps.lean ====
section
/-! DEFINITION. The power budget unit's walks and checks (R105–R110) and the energy billing (R113–R115). -/

namespace Sys2Proof.Machine

/-! ### Admission and restore (R105, R108) -/

/-- Raise a grant to its request: the entry and any mark go. -/
def giveGrant (c : Nat) (s : State) : State :=
  let x := s.consumer c
  s.setConsumer c { x with grant := x.request, mark := false, reqTime := none }

/-- An entry fits when the grant sum plus its request less its grant is within the budget. -/
def State.fits (s : State) (c : Nat) : Bool :=
  let x := s.consumer c
  decide (s.grantSum + (x.request - x.grant) ≤ s.power.budget)

/-- The walk over unmarked entries stops at the first that does not fit. -/
def admitWalk : List Nat → State → State
  | [], s => s
  | c :: cs, s =>
    if s.fits c then
      let s := giveGrant c s
      admitWalk cs (if c < 24 then changeState c .heating false s else s)
    else s

/-- Admission (R105). -/
def admission (s : State) : State := admitWalk (s.waitList.filter fun c => !(s.consumer c).mark) s

def withSettle (t : Option Nat) (s : State) : State := s.withPower { s.power with settle := t }

/-- The restore check (R108). -/
def restoreCheck (s : State) : State :=
  if s.dayRuns && s.power.settle.isNone && decide (s.measuredTotal ≤ s.power.shedLow) then
    match s.waitList.find? fun c => (s.consumer c).mark with
    | none => s
    | some c =>
      if s.fits c then
        let s := giveGrant c s
        let s := if c < 24 then changeState c .heating false (changeState c .waitPower false s) else s
        withSettle (some Config.settleSec) (raise .restore c (s.consumer c).grant s.measuredTotal s)
      else s
  else s

/-- Admission and then the restore check, where the step has called for them (R105). -/
def powerTry (s : State) : State :=
  let a := s.calls.admission
  let r := s.calls.restore
  let s := s.withCalls { s.calls with admission := false, restore := false }
  let s := if a then admission s else s
  if r then restoreCheck s else s

/-! ### Shedding (R107, R110) -/

/-- Not protected, and its grant is above its shed level. -/
def State.sheddable (s : State) (c : Nat) : Bool :=
  decide (s.tier c ≠ 5) && decide (s.shedLevel c < (s.consumer c).grant)

/-- The victim: lowest tier, then largest grant, then highest number. -/
def State.victim (s : State) : Option Nat :=
  (sortBy
    (fun a b =>
      let ga := (s.consumer a).grant
      let gb := (s.consumer b).grant
      decide (s.tier a < s.tier b) ||
        (decide (s.tier a = s.tier b) && (decide (gb < ga) || (decide (ga = gb) && decide (b ≤ a)))))
    ((List.range 26).filter s.sheddable)).head?

/-- Shed a consumer; `why` is MEASURE 0 or BUDGET 1. -/
def shedOne (c why : Nat) (s : State) : State :=
  let x := s.consumer c
  let lv := s.shedLevel c
  let s := s.setConsumer c
    { x with grant := lv, request := s.fullUnits c, mark := true, reqTime := some s.now }
  let s := if c < 24 then changeState c .shed true s else s
  raise .shed c why (x.grant - lv) s

/-- The shed check (R107). -/
def shedCheck (s : State) : State :=
  if s.dayRuns && s.power.settle.isNone && decide (s.power.shedHigh < s.measuredTotal) then
    match s.victim with
    | some c => withSettle (some Config.settleSec) (shedOne c 0 s)
    | none =>
      if s.power.unresolved then s
      else
        raise .powerOverUnresolved 0 s.measuredTotal s.power.shedHigh
          (s.withPower { s.power with unresolved := true })
  else s

/-- Revoke grants until the grant sum is within the budget; the state and how many were revoked (R110). -/
def revoke : Nat → Nat → State → State × Nat
  | 0, n, s => (s, n)
  | k + 1, n, s =>
    if s.power.budget < s.grantSum then
      match s.victim with
      | none => (s, n)
      | some c => revoke k (n + 1) (shedOne c 1 s)
    else (s, n)

/-! ### Energy (R113–R115) -/

/-- The function a consumer's energy is charged to (R114). -/
def State.chargeFn (s : State) (c : Nat) : Nat :=
  if c < 24 then
    match (s.cab c).kind with
    | .oven =>
      match (s.cab c).batches.find? Batch.working with
      | none => 0
      | some b => (s.course b.course).fn
    | .warmer =>
      match (s.holdersAt c).head? with
      | none => 0
      | some i => (s.course i).fn
    | .empty => 0
  else
    match (s.line (c - 24)).inside.head? with
    | none => 0
    | some r => r.fn

/-- ON 0, OFF 1 (R111's list, log 8). -/
def onCode (on : Bool) : Nat := if on then 0 else 1

/-- The raw value after an addition, and whether the meter overflowed (R115). -/
def Meter.add (m : Meter) (e : Nat) (saturate : Bool) : Meter :=
  let sum := m.raw + e
  if sum ≤ Config.meterMax then { m with raw := sum }
  else { raw := if saturate then Config.meterMax else sum - 4294967296, overflow := true }

/-- Add to a meter, with its notice the first time it overflows (R115). -/
def addMeter (m e : Nat) (s : State) : State :=
  let old := s.meter m
  let new := old.add e s.power.saturate
  let s := s.setMeter m new
  if new.overflow && !old.overflow then raise .meterOverflow m (onCode s.power.saturate) 0 s else s

/-- The whole seconds a report is billed for, at most 5 (R113). -/
def State.elapsed (s : State) (c : Nat) : Nat :=
  match (s.consumer c).lastReport with
  | none => 0
  | some t => min (s.now - t) Config.billCap

/-- A report's draw: billed, stored, and the two checks made (R106, R107, R113). After a shed made here no admission is
tried (R106 lists none, R105 tries it whenever a grant is lowered; DESIGN CHOICE, log 28). -/
def powerReport (c draw : Nat) (s : State) : State :=
  let e := draw * s.elapsed c
  let s := addMeter (26 + s.chargeFn c) e (addMeter c e s)
  let s := s.setConsumer c { s.consumer c with measured := draw, lastReport := some s.now }
  let s :=
    if s.measuredTotal ≤ s.power.shedHigh then s.withPower { s.power with unresolved := false } else s
  restoreCheck (shedCheck s)

/-- A meter in hundredths of a kWh (R116). -/
def Meter.rounded (m : Meter) (nearestEven : Bool) : Nat :=
  let q := m.raw / 360
  let r := m.raw % 360
  if nearestEven && (decide (180 < r) || (decide (r = 180) && decide (q % 2 = 1))) then q + 1 else q

/-! ### The day (R112) -/

/-- Lockout entry: every grant, request, mark and entry goes, the timer stops and the flag clears. -/
def powerLockout (s : State) : State :=
  let s := forEach (List.range 26)
    (fun c t => t.setConsumer c { t.consumer c with grant := 0, request := 0, mark := false, reqTime := none }) s
  s.withPower { s.power with settle := none, unresolved := false }

/-- DAY_OPEN: set last report times become 0, the timer stops and the flag clears. -/
def powerOpen (s : State) : State :=
  s.withPower { s.power with
    consumers := s.power.consumers.map (fun c => { c with lastReport := c.lastReport.map fun _ => 0 }),
    settle := none, unresolved := false }

end Sys2Proof.Machine
end

