-- ==== Sys2Proof/Machine/LineOps.lean ====
section
/-! DEFINITION. Routing passes (R89, R90), rack events (R82–R85), and a line's settings of the day (R98). -/

namespace Sys2Proof.Machine

/-- The candidates of a rack (R89), ascending. -/
def State.candidates (s : State) (r : Rack) : List Nat :=
  (List.range 24).filter fun k => (s.cab k).accepts r.cls (r.count - r.loaded) && (s.fn r.fn).members.testBit k

/-- The choice among candidates by the routing mode of the rack's function (R90). -/
def pickCandidate (mode : RouteMode) (round tag : Nat) (cands : List Nat) : Option Nat :=
  match mode with
  | .fill => cands.head?
  | .round =>
    match cands.find? fun k => decide (round < k) with
    | some k => some k
    | none => cands.head?
  | .spread => cands[tag % cands.length]?

/-- One rack considered by a pass (R90). -/
def routeRack (l : Nat) (r : Rack) (s : State) : State :=
  let f := s.fn r.fn
  match pickCandidate f.mode f.round r.tag (s.candidates r) with
  | none =>
    if r.noticed then s
    else raise .rackUnrouted l r.tag r.count (updExit l r.tag (fun x => { x with noticed := true }) s)
  | some k =>
    let s := if f.mode = .round then s.setFn r.fn { f with round := k } else s
    let s := acceptRoute k l r.tag (r.count - r.loaded) s
    let s := updExit l r.tag (fun x => { x with dest := some k, routeTime := some s.now }) s
    raise .rackRouted l r.tag k s

/-- A routing pass of a line (R89). -/
def routingPass (l : Nat) (s : State) : State :=
  let x := s.line l
  let seen := if x.strict then x.exits.takeWhile (·.reason.isNone) else x.exits
  (seen.filter fun r => r.reason.isNone && r.dest.isNone).foldl (fun t r => routeRack l r t) s

/-! ### Rack events (R82–R84) -/

/-- An ENTER event (R83). -/
def enterEvent (l tag : Nat) (s : State) : State :=
  let x := s.line l
  match x.staged.find? (·.tag = tag) with
  | none => raise .rackUnknown l tag (pair 0 (x.stateOf tag)) s
  | some r =>
    s.setLine l { x with
      staged := x.staged.filter (·.tag ≠ tag), inside := x.inside ++ [{ r with entry := some s.now, transit := 0 }] }

/-- An EXIT event (R84). -/
def exitEvent (l tag : Nat) (rinse : Int) (s : State) : State :=
  let x := s.line l
  match x.inside.find? (·.tag = tag) with
  | none => raise .rackUnknown l tag (pair 1 (x.stateOf tag)) s
  | some r =>
    let ahead := x.inside.takeWhile (·.tag ≠ tag)
    let s := withInside l (x.inside.filter fun y => y.tag ≠ tag ∧ y ∉ ahead) s
    let s := ahead.foldl (fun t y => holdRack l y .skipped t) s
    if rinse < x.sanMin then backpressure l (holdRack l r .rinse s)
    else
      let s := withExits l ((s.line l).exits ++ [r]) s
      let s := callClose (transfer r.cls .washing .clean r.count s)
      routingPass l (backpressure l s)

def RackEvent.seq : RackEvent → Nat
  | .enter q _ => q
  | .exit q _ _ => q

/-- The event itself, whose sequence becomes the last applied. -/
def applyEvent (l : Nat) (e : RackEvent) (s : State) : State :=
  let s := s.setLine l { s.line l with lastEvent := some (RackEvent.seq e) }
  match e with
  | .enter _ tag => enterEvent l tag s
  | .exit _ tag rinse => exitEvent l tag rinse s

/-- The sequence window of R82: older events are skipped, a gap is noticed. -/
def windowEvent (l : Nat) (e : RackEvent) (s : State) : State :=
  match (s.line l).lastEvent with
  | none => applyEvent l e s
  | some last =>
    let diff := (RackEvent.seq e + 256 - last % 256) % 256
    if 1 ≤ diff ∧ diff ≤ 127 then
      applyEvent l e
        (if 1 < diff then raise .lineEventGap l ((last + 1) % 256) (RackEvent.seq e) s else s)
    else s

/-- A report's events: all of them, with no gap judged, while the last applied event is unset (R82). -/
def applyEvents (l : Nat) (es : List RackEvent) (s : State) : State :=
  if (s.line l).lastEvent.isNone then es.foldl (fun t e => applyEvent l e t) s
  else es.foldl (fun t e => windowEvent l e t) s

/-- The rinse of a report (R94). -/
def applyRinse (l : Nat) (t : Int) (s : State) : State :=
  let x := s.line l
  let s := s.setLine l { x with rinse := t }
  if x.sanMin ≤ t then s.setLine l { s.line l with rinseLow := false }
  else if x.running && !x.rinseLow then
    raise .lineRinseLow l (tempCode t) (tempCode x.sanMin) (s.setLine l { s.line l with rinseLow := true })
  else s

/-- A rack's transit seconds are at the limit: HELD for TRANSIT (R85). -/
def transitHold (l : Nat) (r : Rack) (s : State) : State :=
  let s := withInside l ((s.line l).inside.filter (·.tag ≠ r.tag)) s
  backpressure l (holdRack l r .transit s)

/-- The node of a line is lost or unbound (R94). -/
def lineLost (l : Nat) (s : State) : State := clearMeasured (24 + l) (setRunning l false s)

/-- A node joins a line (R92, R94): its last event becomes unset, and the wanted conveyor is sent. -/
def lineJoined (l : Nat) (s : State) : State :=
  let s := s.setLine l { s.line l with lastEvent := none }
  claimSet (s.line l).addr (.line l) (.line (s.line l).wantedRun) false s

/-! ### The day (R98) -/

/-- DAY_CLOSE removes the STAGED racks to SOILED. -/
def removeStaged (l : Nat) (s : State) : State :=
  let rs := (s.line l).staged
  rs.foldl (fun t r => raise .rackLeft l r.tag leftClosed (transfer r.cls .washing .soiled r.count t)) (withStaged l [] s)

/-- Close completion: one rack of the exit section leaves. -/
def closeRack (l : Nat) (r : Rack) (s : State) : State :=
  let s :=
    match r.reason, r.dest with
    | some _, _ => transfer r.cls .held .soiled r.count s
    | none, some k => dropRoute k l r.tag s
    | none, none => s
  leaveExit l r.tag leftClosed s

/-- Close completion on one line: the exit section leaves in exit order, AT_EXIT and HELD racks as they stand (DESIGN
CHOICE, log 27). -/
def closeLine (l : Nat) (s : State) : State :=
  let s := (s.line l).exits.foldl (fun t r => closeRack l r t) s
  let s := release (24 + l) s
  withStops l { (s.line l).stops with day := true } s

end Sys2Proof.Machine
end

