-- ==== Sys2Proof/Machine/DayOps.lean ====
section
/-! DEFINITION. Close completion (R179), lockout entry (R181), the end of a hold (R169), and what ends every step that
called for later checks (log 2). -/

namespace Sys2Proof.Machine

/-! ### The hold (R169) -/

/-- The hold ends: the holding port is told, unless `kind` is none. -/
def endHold (kind : Option NoticeKind) (detail1 : Nat) (s : State) : State :=
  let s :=
    match s.hold.owner, kind with
    | some p, some k => raiseTo p k p.code detail1 s.hold.count s
    | _, _ => s
  s.withHold Hold.initial

/-! ### Close completion (R179) -/

/-- OFFLINE warmers that hold lots unload them; the plates unloaded are counted. -/
def unloadOffline (s : State) : State :=
  forEach (List.range 24) (fun k t => if (t.cab k).state = .offline then unload k t else t) s

/-- The plates in OFFLINE warmers. -/
def State.offlinePlates (s : State) : Nat :=
  total ((s.cabs.filter fun c => c.isWarmer && decide (c.state = .offline)).map Cab.lotTotal)

/-- The day state becomes OPENING, and discovery becomes continuous. -/
def dayToOpening (s : State) : State :=
  matchDiscovery ((s.withDay { s.day with state := .opening, ret := none }).withPower { s.power with settle := none })

/-- Close completion. -/
def completeClose (s : State) : State :=
  let racks := total (s.lines.map Line.occupancy)
  let s := closeLine 1 (closeLine 0 s)
  let plates := s.offlinePlates
  let s := dayToOpening (unloadOffline s)
  raise .dayClosed 0 racks plates s

/-- The completion test, where the step has called for it. -/
def closeTest (s : State) : State :=
  let asked := s.calls.close
  let s := s.withCalls { s.calls with close := false }
  if asked && decide (s.day.state = .closing) && s.drained then completeClose s else s

/-! ### Lockout entry (R181) -/

/-- Step 1: the day state in force becomes the return state; FEEDCUT is asserted; every confirm timer stops. -/
def lockoutDay (cause : Nat) (s : State) : State :=
  matchDiscovery (s.withDay { s.day with
    ret := some s.day.state, cause := some cause, state := .lockout, feedcut := true,
    confirm := List.replicate 24 none })

/-- Step 5 for one cabinet: wanted mode OFF, entry to OFF where it is on, and an urgent SET to OFF in every state. -/
def lockoutCab (k : Nat) (s : State) : State := claimCab k true (switchOff k true s)

/-- Step 6 for one line: LOCKOUT joins the stop reasons, the booster releases, the conveyor SET is urgent. -/
def lockoutLine (l : Nat) (s : State) : State :=
  let s := boosterSync l (withStops l { (s.line l).stops with lockout := true } s)
  conveyorSync true l s

/-- Step 7: the LOCKOUT page; its argument is a free value (log 1). -/
def lockoutPage (s : State) : State :=
  let (n, s) := s.freshFree
  claimPage .all codeLockout (Config.lockoutPageArg n).val .urgent none s

/-- Lockout entry; line 0's urgent conveyor SET is claimed before line 1's (DESIGN CHOICE, log 18). -/
def enterLockout (cause : Nat) (s : State) : State :=
  let ret := s.day.state
  let held := s.hold.owner.isSome
  let s := lockoutDay cause s
  let s := endHold (some .holdBroken) s.hold.count s
  let s := releaseAllEarmarks (powerLockout s)
  let s := forEach (List.range 24) lockoutCab s
  let s := lockoutPage (lockoutLine 1 (lockoutLine 0 s))
  raise .lockoutEntered cause ret.code held.toNat s

/-! ### The end of a step (log 2) -/

/-- The sleep timer runs in an idle HOLDING warmer (R58). -/
def sleepSync (k : Nat) (s : State) : State :=
  let c := s.cab k
  let idle := c.isWarmer && decide (c.state = .holding) && c.lots.isEmpty && decide (c.pending = 0) && decide (c.idle ≠ 0)
  if idle then (if c.sleepT.isSome then s else s.setCab k { c with sleepT := some c.idle })
  else if c.sleepT.isSome then s.setCab k { c with sleepT := none }
  else s

/-- Admission, the restore check and the completion test first; then the routing passes, line 0 before line 1 (R89);
and again while these call for more. -/
def settle : Nat → State → State
  | 0, s => s
  | n + 1, s =>
    if s.calls.admission || s.calls.restore then settle n (powerTry s)
    else if s.calls.close then settle n (closeTest s)
    else if s.calls.route0 then settle n (routingPass 0 (s.withCalls { s.calls with route0 := false }))
    else if s.calls.route1 then settle n (routingPass 1 (s.withCalls { s.calls with route1 := false }))
    else s

/-- Far more rounds than the finite sequence of state changes of one step can call for. -/
def settleRounds : Nat := 1000

/-- The end of a step: what it called for, the wanted conveyors, the sleep timers, the poll classes. -/
def finish (s : State) : State :=
  let s := settle settleRounds s
  let s := conveyorSync false 1 (conveyorSync false 0 s)
  let s := refreshPolls (forEach (List.range 24) sleepSync s)
  s.withCalls Calls.none

end Sys2Proof.Machine
end

