-- ==== Sys2Proof/Machine/NodeOps.lean ====
section
/-! DEFINITION. Nodes: presence, binding (R144–R148), reports (R67, R82), reconciliation (R153), the answers of a
transaction and its failures (R149–R151, R154), and what goes out on BTX. -/

namespace Sys2Proof.Machine

/-! ### Binding (R148) -/

/-- The cabinet slot that names an address. -/
def State.cabNaming (s : State) (a : Nat) : Option Nat :=
  s.cabs.findIdx? fun c => decide (c.kind ≠ .empty) && decide (c.addr = some a)

def State.lineNaming (s : State) (a : Nat) : Option Nat := s.lines.findIdx? fun l => decide (l.addr = some a)

def State.baseNaming (s : State) (a : Nat) : Bool := decide (s.paging.settings.base = some a)

/-- The claimant whose kind matches the node's type. -/
def State.matching (s : State) (a : Nat) : Binding :=
  match (s.node a).type with
  | none => .unbound
  | some .oven =>
    match s.cabNaming a with
    | none => .unbound
    | some k => if (s.cab k).isOven then .cabinet k else .unbound
  | some .warmer =>
    match s.cabNaming a with
    | none => .unbound
    | some k => if (s.cab k).isWarmer then .cabinet k else .unbound
  | some .washer =>
    match s.lineNaming a with
    | none => .unbound
    | some l => .line l
  | some .pageBase => if s.baseNaming a then .base else .unbound

/-- The claimants that name an address, in the order cabinet, line, base. -/
def State.claimants (s : State) (a : Nat) : List Binding :=
  ((s.cabNaming a).map Binding.cabinet).toList ++ ((s.lineNaming a).map Binding.line).toList ++
    (if s.baseNaming a then [.base] else [])

/-- A node type, all ones for none (R185). -/
def typeCode (t : Option NodeType) : Nat :=
  match t with
  | none => 0xFF
  | some x => x.code

/-- Make the binding of an answering node, or make it again: a node that becomes unbound loses its queued SET and its
wanted state, and NODE_TYPE_MISMATCH carries the first naming claimant that does not match (log 20). -/
def bindNode (a : Nat) (s : State) : State :=
  let n := s.node a
  let b := s.matching a
  let s :=
    if b = .unbound then
      removeSet a (s.setNode a { n with binding := .unbound, wanted := .nothing, wantedUrgent := false })
    else s.setNode a { n with binding := b }
  match (s.claimants a).find? (· ≠ b) with
  | some c => raise .nodeTypeMismatch a (typeCode n.type) c.kindCode s
  | none => s

/-- A command has changed what names an address (R148). -/
def renamed (a : Option Nat) (s : State) : State :=
  match a with
  | none => s
  | some x => if (s.node x).answering then bindNode x s else s

/-! ### Presence (R145), as the bound block takes it (R60, R94, R134) -/

/-- The node is PRESENT again after SILENT. -/
def tellBack (b : Binding) (s : State) : State :=
  match b with
  | .cabinet k => s.setCab k { s.cab k with stale := false }
  | .base => selectPass s
  | _ => s

/-- The node is SILENT: a cabinet is stale, and a warmer's out-of-band timer runs (R60). -/
def tellSilent (b : Binding) (s : State) : State :=
  match b with
  | .cabinet k =>
    let c := s.cab k
    let t := if c.isWarmer && c.oobT.isNone then some Config.oobSec else c.oobT
    s.setCab k { c with stale := true, oobT := t }
  | _ => s

/-- The node is LOST. -/
def tellLost (b : Binding) (s : State) : State :=
  match b with
  | .cabinet k => cabLost k s
  | .line l => lineLost l s
  | .base => baseLost s
  | .unbound => s

/-- The node of a cabinet has joined (R60, R113). -/
def cabJoined (k : Nat) (s : State) : State :=
  let s := s.setCab k { s.cab k with reported := false, stale := false }
  match (s.cab k).state with
  | .fault => claimCab k true (unsetReport k s)
  | .offline => if (s.cab k).wantedOn && s.dayRuns then requestHeat k s else enterOff k false s
  | _ => s

/-- A binding made at a join is told to the claimant. -/
def tellJoined (b : Binding) (s : State) : State :=
  match b with
  | .cabinet k => cabJoined k s
  | .line l => lineJoined l s
  | .base => selectPass s
  | .unbound => s

/-- SILENT to PRESENT, or PRESENT as before: a valid response (R145, R151 step 1). -/
def answered (a : Nat) (s : State) : State :=
  let n := s.node a
  let s := s.setNode a { n with lastResp := some s.now, misses := 0, silence := none, presence := .present }
  if n.presence = .silent then tellBack n.binding s else s

/-- PRESENT to SILENT (R145). -/
def goSilent (a : Nat) (s : State) : State :=
  let n := s.node a
  let s := s.setNode a { n with presence := .silent, silence := some Config.silenceSec }
  tellSilent n.binding (raise .nodeSilent a n.misses n.binding.kindCode s)

/-- Entry to LOST (R145). -/
def goLost (a : Nat) (s : State) : State :=
  let n := s.node a
  let s := s.setNode a { n with
    presence := .lost, misses := 0, silence := none, loadBase := none, drawBase := none, binding := .unbound,
    pollEnd := none, fetchAhead := false, wanted := .nothing, wantedUrgent := false, lastEvent := none }
  let s := removeNodeTx a s
  tellLost n.binding (raise .nodeLost a (typeCode n.type) n.binding.kindCode s)

/-- Join (R147). -/
def joinNode (a : Nat) (type : NodeType) (serial : Nat) (s : State) : State :=
  let s := s.setNode a { s.node a with
    type := some type, serial := serial, presence := .present, misses := 0, silence := none, lastResp := some s.now,
    loadBase := none, drawBase := none, lastEvent := none }
  let s := bindNode a (raise .nodeJoined a type.code (serial % 65536) s)
  let s := tellJoined (s.node a).binding s
  let s := s.setNode a { s.node a with pollClass := s.classOf a }
  restartPoll a (queuePoll a s)

/-- A valid IDENT_REPLY (R147). -/
def applyIdent (a : Nat) (type : NodeType) (serial : Nat) (s : State) : State :=
  let n := s.node a
  if n.answering then
    if n.type = some type ∧ n.serial = serial then answered a s else joinNode a type serial (goLost a s)
  else joinNode a type serial s

/-! ### Reports -/

/-- The in-band test of a warmer's report (R67, step 2). -/
def bandTest (k : Nat) (s : State) : State :=
  let c := s.cab k
  if c.isWarmer then
    if c.inBand then
      let lots := c.lots.map fun l => if l.warmFrom.isNone then { l with warmFrom := some s.now } else l
      evaluateAll (s.setCab k { c with oobT := none, lots := lots })
    else if c.oobT.isNone then s.setCab k { c with oobT := some Config.oobSec }
    else s
  else s

/-- The counters of a warmer's report (R67 steps 3 and 4, R68). -/
def applyCounters (a k : Nat) (counters : Option (Nat × Nat)) (s : State) : State :=
  match counters with
  | none => s
  | some (ld, dr) =>
    let n := s.node a
    let s := s.setNode a { n with loadBase := some ld, drawBase := some dr }
    applyDraw k (counterDelta n.drawBase dr) (applyLoad k (counterDelta n.loadBase ld) s)

/-- A running confirm timer stops at a report that shows the element OFF (R180). -/
def confirmLevel (k : Nat) (wasRunning : Bool) (level : ElementMode) (s : State) : State :=
  if wasRunning && decide (level = .off) then setConfirm k none s else s

/-- A REPORT from a cabinet's node, applied to the bound cabinet (R67). A report that brings OVERTEMP back and shows the
element OFF while the confirm timer runs: the claim finds it running, and the level then stops it (DESIGN CHOICE, log 17). -/
def applyCabinetReport (a k : Nat) (r : CabinetRep) (s : State) : State :=
  let running := (s.day.confirm.getD k none).isSome
  let s := s.setCab k { s.cab k with temp := r.temp, level := r.level, draw := r.draw, reported := true }
  let s := applyCounters a k r.counters (bandTest k s)
  let s := confirmLevel k running r.level (applyConditions k r.conds s)
  let s := if (s.cab k).state = .fault then s else judgeReport k s
  let s := if (s.cab k).isOven then s.setCab k (s.cab k).refreshBatches else s
  powerReport k r.draw (powerTry s)

/-- A REPORT from a line's node (R82). The wanted conveyor follows the stop reasons that the events, and then the power
checks, have changed (R92), so that the report is reconciled with it as this handling has left it (R151). -/
def applyWasherReport (l : Nat) (r : WasherRep) (s : State) : State :=
  let s := conveyorSync false l (applyEvents l r.events (applyRinse l r.rinse s))
  let s := setRunning l r.running s
  conveyorSync false l (powerReport (24 + l) r.draw (powerTry s))

/-- Reconciliation (R153). -/
def reconcile (a : Nat) (body : RespBody) (s : State) : State :=
  let n := s.node a
  let differs :=
    match n.wanted, body with
    | .cabinet m t, .cabinet r => decide (r.level ≠ m) || decide (r.setpoint ≠ t)
    | .line w, .washer r => decide (r.running ≠ w)
    | _, _ => false
  if differs then queueSet a n.wantedUrgent s else s

/-! ### Answers (R149, R151) -/

/-- A response is the one the request calls for, as the node's type requires it (R149, R187). -/
def State.answers (s : State) (t : Tx) (a : Nat) (body : RespBody) : Bool :=
  decide (t.addr = a) &&
    (match t, body with
     | .identify _, .ident _ _ => true
     | .poll _, .cabinet r =>
       match (s.node a).type with
       | some .oven => r.counters.isNone
       | some .warmer => r.counters.isSome
       | _ => false
     | .poll _, .washer _ => decide ((s.node a).type = some .washer)
     | .poll _, .base _ => decide ((s.node a).type = some .pageBase)
     | .set _, .setAck => true
     | .deliver _ _ _ _ _, .deliverAck _ => true
     | _, _ => false)

/-- The kind of a valid response (R151, step 2). The answer to a DELIVER that is void is ignored (R156). -/
def applyBody (f : InFlight) (a : Nat) (body : RespBody) (s : State) : State :=
  match body, (s.node a).binding with
  | .ident type serial, _ => applyIdent a type serial s
  | .cabinet r, .cabinet k => applyCabinetReport a k r s
  | .washer r, .line l => applyWasherReport l r s
  | .base r, .base => applyBaseReport r s
  | .deliverAck accepted, _ =>
    match f.tx with
    | .deliver _ id _ _ _ => if f.isVoid then s else answerDeliver id accepted s
    | _ => s
  | _, _ => s

def Tx.isPoll : Tx → Bool
  | .poll _ => true
  | _ => false

/-- A valid response in its order (R151). An answer of a node that is no longer answering is discarded, but for an
IDENT_REPLY (R145, log 19). -/
def applyResponse (f : InFlight) (a : Nat) (body : RespBody) (urgent : Bool) (s : State) : State :=
  let ident := f.tx.isIdentify
  if !ident && !(s.node a).answering then s
  else
    let s := if ident then s else answered a s
    let s := reconcile a body (applyBody f a body s)
    let s := if urgent then setFetchAhead a s else s
    if f.tx.isPoll then
      let s := if urgent then s else s.setNode a { s.node a with fetchAhead := false }
      restartPoll a (refreshPoll a s)
    else s

/-- The transaction in flight ends and the 1 ms guard runs (R149). -/
def endTx (s : State) : State := s.withBus { s.bus with inflight := none, guard := .bus }

/-- Misses rise to 255 at most, and the third takes a PRESENT node to SILENT (R145, R150). -/
def countMiss (a : Nat) (s : State) : State :=
  let n := s.node a
  let s := s.setNode a { n with misses := min (n.misses + 1) 255 }
  if decide (n.presence = .present) && decide (Config.missLimit ≤ n.misses + 1) then goSilent a s else s

/-- A MISSED transaction (R150). -/
def missTx (f : InFlight) (s : State) : State :=
  match f.tx with
  | .poll a =>
    let s := countMiss a s
    restartPoll a (refreshPoll a (s.setNode a { s.node a with fetchAhead := false }))
  | .set a => countMiss a s
  | .deliver a id _ _ _ =>
    let s := countMiss a s
    if f.isVoid then s else missDeliver id s
  | .identify a => if (s.node a).presence = .silent then countMiss a s else s

/-- A failed attempt: a retry after the guard, or MISSED at the third (R150). -/
def failAttempt (f : InFlight) (s : State) : State :=
  if f.attempt < Config.missLimit then
    s.withBus { s.bus with inflight := some { f with attempt := f.attempt + 1 }, guard := .bus }
  else missTx f (endTx s)

/-- The transaction in flight that awaits its response: none in flight, or none outside a guard. -/
def State.awaiting (s : State) : Option InFlight := if s.bus.guard = .free then s.bus.inflight else none

/-- A response arrives. With no response awaited it is discarded (R150); one that is not the answer asked for fails
the attempt. -/
def receive (a : Nat) (body : RespBody) (urgent : Bool) (s : State) : State :=
  match s.awaiting with
  | none => s
  | some f => finish (if s.answers f.tx a body then applyResponse f a body urgent (endTx s) else failAttempt f s)

/-! ### Requests (R149, R154, R187) -/

/-- The event sequence that a POLL to a washer carries: its line's last applied one, unset with no line bound (R154). -/
def State.carried (s : State) (a : Nat) : Option Nat :=
  match (s.node a).binding with
  | .line l => (s.line l).lastEvent
  | _ => none

/-- The payload of a request as it goes out now. -/
def State.payload (s : State) (t : Tx) : List Byte :=
  match t with
  | .identify _ => []
  | .poll a =>
    if (s.node a).type = some .washer then
      match s.carried a with
      | none => [0, 0]
      | some q => 1 :: be8 q
    else []
  | .set a =>
    match (s.node a).wanted with
    | .nothing => []
    | .cabinet m t => be8 m.code ++ beTemp t
    | .line run => be8 run.toNat
  | .deliver _ id target code arg => be8 id ++ be8 target.kindCode ++ be8 target.value ++ be8 code ++ be16 arg

def Tx.kind : Tx → Nat
  | .identify _ => 0x01
  | .poll _ => 0x02
  | .set _ => 0x03
  | .deliver _ _ _ _ _ => 0x04

/-- The request goes out: BTX, and the sequence that a POLL to a washer carries (R154). -/
def transmit (t : Tx) (s : State) : State :=
  let s := s.withBus { s.bus with btx := busFrame t.addr t.kind (s.payload t) }
  match t with
  | .poll a =>
    if (s.node a).type = some .washer then s.setNode a { s.node a with lastEvent := s.carried a } else s
  | _ => s

/-- Send a transaction for the first time; it leaves its place (R156). -/
def sendTx (t : Tx) (urgent : Bool) (s : State) : State :=
  transmit t (s.withBus { s.bus with inflight := some ⟨t, 1, urgent, false⟩ })

/-- The service order of R156: urgent part, fetch-ahead part, ordinary part. -/
def sendNext (s : State) : State :=
  match s.bus.urgent, s.bus.fetch, s.bus.ordinary with
  | t :: ts, _, _ => sendTx t true (s.withBus { s.bus with urgent := ts })
  | [], t :: ts, _ => sendTx t false (s.withBus { s.bus with fetch := ts })
  | [], [], t :: ts => sendTx t false (s.withBus { s.bus with ordinary := ts })
  | [], [], [] => s

end Sys2Proof.Machine
end

