-- ==== Sys2Proof/Machine/PortOps.lean ====
section
/-! DEFINITION. A port transaction (R161–R164, R168): the status bytes, the unread refusal, the common checks, the hold
count, and the reply; and the shapes every meaning has. -/

namespace Sys2Proof.Machine

/-- While RESET_N is held low nothing but the resets acts (R183). -/
def live (f : State → State) (s : State) : Host.Outcome State Fault Refusal :=
  .next (if s.day.resetLow then s else f s)

/-- What the common checks need to know of a command (R164). -/
structure Gate where
  /-- The bit of the permission class; none is READ. -/
  perm : Option Nat
  changing : Bool
  /-- Let through in LOCKOUT. -/
  inLockout : Bool
  /-- HOLD_BEGIN and HOLD_END: neither held off nor counted. -/
  holdExempt : Bool
  /-- CONFIG_CLAIM and CONFIG_RELEASE need no claim. -/
  claimExempt : Bool
  deriving DecidableEq, Repr

/-- A read. -/
def Gate.read : Gate := ⟨none, false, false, false, false⟩

/-- A changing command of the class at bit `b`: CONFIG 0, WARE 1, KITCHEN 2, DISH 3, PAGE 4, POWER 5. -/
def Gate.changes (b : Nat) : Gate := ⟨some b, true, false, false, false⟩

/-- Checks 3 to 6 of R164. -/
def commonCheck (g : Gate) (p : Port) (s : State) : Option Status :=
  firstFailure
    [ ((match g.perm with
        | none => true
        | some b => (s.port p).perms.testBit b), .denied),
      (!(decide (s.day.state = .lockout) && g.changing && !g.inLockout), .lockedOut),
      (!(g.changing && !g.holdExempt && s.hold.owner.isSome && decide (s.hold.owner ≠ some p)), .held),
      (!(decide (s.day.state = .opening) && decide (g.perm = some 0) && !g.claimExempt && decide (s.day.claim ≠ some p)),
        .claimed) ]

/-- The two status bytes of a transaction, as they stand at the fall of CS_N (R161). -/
def State.statusBytes (s : State) (p : Port) : List Byte := [s.statusByte p, s.dayByte p]

/-- What the port clocked out (log 3). -/
def withMiso (p : Port) (l : List Byte) (s : State) : State := s.setPort p { s.port p with miso := l }

/-- Place a reply in the slot (R162); MISO keeps the two status bytes alone (R161 is silent on the rest, log 3). -/
def placeReply (p : Port) (r : Reply) (miso : List Byte) (s : State) : State :=
  s.setPort p { s.port p with slot := some r, miso := miso }

/-- A request while the slot holds a reply is dropped (R162). -/
def refuseUnread (p : Port) (miso : List Byte) (s : State) : State :=
  s.setPort p { s.port p with unread := true, miso := miso }

/-- The command is counted against its own port's hold (R168). -/
def Gate.counted (g : Gate) (p : Port) (s : State) : Bool :=
  g.changing && !g.holdExempt && decide (s.hold.owner = some p)

/-- The hold ends after the fourth counted command (R169); its reason is COUNT, 1. -/
def endHoldAtLimit (p : Port) (s : State) : State :=
  if s.hold.owner = some p ∧ Config.holdLimit ≤ s.hold.count then endHold (some .holdEnded) 1 s else s

/-- A request whose frame and form are right, taken with an empty slot: counted, checked, executed, answered. -/
def takeRequest (p : Port) (g : Gate) (body : State → Result) (s : State) : Result :=
  let counted := g.counted p s
  let s := if counted then s.withHold { s.hold with count := s.hold.count + 1 } else s
  let r :=
    match commonCheck g p s with
    | some st => refuse st s
    | none => body s
  { r with state := if counted then endHoldAtLimit p r.state else r.state }

/-- A port request (R162, R164). -/
def portRequest (p : Port) (g : Gate) (body : State → Result) (s : State) : State :=
  let bytes := s.statusBytes p
  if (s.port p).slot.isSome then refuseUnread p bytes s
  else
    let r := takeRequest p g body s
    placeReply p ⟨r.status, r.data⟩ bytes r.state

/-- A reply's frame: status, length, data, check (R163, R185). -/
def Reply.frame (r : Reply) : List Byte :=
  let head := be8 r.status.code ++ be8 r.data.length ++ r.data
  head ++ [-byteSum head]

/-- A fetch that clocks `n` bytes after the status bytes (R163). -/
def fetchReply (p : Port) (n : Nat) (s : State) : State :=
  let r := s.port p
  let frame :=
    match r.slot with
    | none => []
    | some x => x.frame
  let miso := s.statusBytes p ++ (frame ++ List.replicate n 0xFF#8).take n
  if r.slot.isSome && decide (frame.length ≤ n) then
    s.setPort p { r with slot := none, unread := false, miso := miso }
  else s.setPort p { r with miso := miso }

/-- The reset of the whole part: every record at its power-on value; the commands that wait, and the count of the free
values taken, are the model's own and stay. -/
def powerOnState (low : Bool) (s : State) : State :=
  let t := State.reset.withDay { State.reset.day with resetLow := low }
  (t.withPending s.pending).withFreeCount s.freeCount

end Sys2Proof.Machine
end

