-- ==== Sys2Proof/Machine/WareCommands.lean ====
section
/-! DEFINITION. The ware commands (R14–R21). -/

namespace Sys2Proof.Machine

/-- OPENING, SERVICE and CLOSING. -/
def openDays : List DayState := [.opening, .service, .closing]

/-- CLASS_SET (R15). -/
def classSetBody (cls dwell : Nat) (s : State) : Result :=
  checked [(decide (cls < 8) && decide (dwell ≤ 7200), .range), (inDay s [.opening], .badState)]
    (fun s => okWith [] (s.setWare cls { s.ware cls with dwell := dwell })) s

def classSet (p : Port) (cls dwell : Nat) : State → State := portRequest p (.changes 0) (classSetBody cls dwell)

def execClassSet (p : Port) (cls dwell : Nat) (s : State) : Host.Outcome State Fault Refusal := live (classSet p cls dwell) s

/-- A class has records in use (R16). -/
def State.classInUse (s : State) (cls : Nat) : Bool :=
  (s.lines.any fun l => l.racks.any (·.cls = cls)) ||
    (s.cabs.any fun c => c.isWarmer && decide (c.cls = some cls) && !c.lots.isEmpty) ||
    (s.courses.any fun c => decide (c.state ≠ .empty) && decide (c.cls = cls))

/-- WARE_STOCK (R16). -/
def wareStockBody (cls n : Nat) (s : State) : Result :=
  checked [(decide (cls < 8) && decide (n ≤ Config.stockMax), .range), (inDay s [.opening] && !s.classInUse cls, .badState)]
    (fun s => okWith [] (s.setWare cls { Ware.initial with dwell := (s.ware cls).dwell, stock := n, clean := n })) s

def wareStock (p : Port) (cls n : Nat) : State → State := portRequest p (.changes 1) (wareStockBody cls n)

def execWareStock (p : Port) (cls n : Nat) (s : State) : Host.Outcome State Fault Refusal := live (wareStock p cls n) s

/-- WARE_ADD (R17). -/
def wareAddBody (cls n : Nat) (s : State) : Result :=
  checked
    [(decide (cls < 8) && within 1 Config.stockMax n && decide ((s.ware cls).stock + n ≤ Config.stockMax), .range),
      (inDay s openDays, .badState)]
    (fun s =>
      let s := s.setWare cls ((s.ware cls).bringIn .clean n)
      okWith (be16 (s.ware cls).stock) s) s

def wareAdd (p : Port) (cls n : Nat) : State → State := portRequest p (.changes 1) (wareAddBody cls n)

def execWareAdd (p : Port) (cls n : Nat) (s : State) : Host.Outcome State Fault Refusal := live (wareAdd p cls n) s

/-- WARE_MOVE (R18): TO_CLEAN 0, TO_SOILED 1. -/
def wareMoveBody (cls dir n : Nat) (s : State) : Result :=
  checked
    [(decide (cls < 8) && isFlag dir && within 1 Config.stockMax n, .range), (inDay s openDays, .badState),
      (decide (n ≤ (if dir = 0 then (s.ware cls).soiled else s.uncommitted cls)), .short)]
    (fun s =>
      let s := if dir = 0 then transfer cls .soiled .clean n s else transfer cls .clean .soiled n s
      okWith (be16 (s.ware cls).soiled ++ be16 (s.ware cls).clean) s) s

def wareMove (p : Port) (cls dir n : Nat) : State → State := portRequest p (.changes 1) (wareMoveBody cls dir n)

def execWareMove (p : Port) (cls dir n : Nat) (s : State) : Host.Outcome State Fault Refusal := live (wareMove p cls dir n) s

/-- What WARE_WRITE_OFF may take from a source: SOILED 0, CLEAN 1, HOUSE_PLATED 2 (R20). -/
def State.writeOffLimit (s : State) (cls source : Nat) : Nat :=
  match source with
  | 0 => (s.ware cls).soiled
  | 1 => s.uncommitted cls
  | _ => (s.ware cls).house

/-- WARE_WRITE_OFF (R20). -/
def wareWriteOffBody (cls source n : Nat) (s : State) : Result :=
  checked
    [(decide (cls < 8) && decide (source < 3) && within 1 Config.stockMax n, .range), (inDay s openDays, .badState),
      (decide (n ≤ s.writeOffLimit cls source), .short)]
    (fun s =>
      let w := s.ware cls
      let s :=
        match source with
        | 0 => s.setWare cls (w.takeOut .soiled n)
        | 1 => s.setWare cls (w.takeOut .clean n)
        | _ => subHouse cls n (s.setWare cls (w.takeOut .plated n))
      okWith (be16 (s.ware cls).stock) s) s

def wareWriteOff (p : Port) (cls source n : Nat) : State → State :=
  portRequest p (.changes 1) (wareWriteOffBody cls source n)

def execWareWriteOff (p : Port) (cls source n : Nat) (s : State) : Host.Outcome State Fault Refusal :=
  live (wareWriteOff p cls source n) s

/-- The outstanding plates of a target: COURSE 0 or HOUSE 1 (R19). -/
def State.outstanding (s : State) (target x : Nat) : Nat :=
  if target = 0 then (s.course x).plated - (s.course x).returned else (s.ware x).house

/-- WARE_RETURN (R19). -/
def wareReturnBody (target x n : Nat) (s : State) : Result :=
  checked
    [(isFlag target && decide (x < (if target = 0 then 32 else 8)) && within 1 3000 n, .range),
      (decide (target ≠ 0) || decide ((s.course x).state ≠ .empty), .notFound), (inDay s openDays, .badState),
      (decide (n ≤ s.outstanding target x), .short)]
    (fun s =>
      let s :=
        if target = 0 then
          let c := s.course x
          (transfer c.cls .plated .soiled n s).setCourse x { c with returned := c.returned + n }
        else subHouse x n (transfer x .plated .soiled n s)
      okWith (be16 (s.outstanding target x)) s) s

def wareReturn (p : Port) (target x n : Nat) : State → State := portRequest p (.changes 3) (wareReturnBody target x n)

def execWareReturn (p : Port) (target x n : Nat) (s : State) : Host.Outcome State Fault Refusal :=
  live (wareReturn p target x n) s

/-- WARE_READ (R21). -/
def wareReadBody (cls : Nat) (s : State) : Result :=
  checked [(decide (cls < 8), .range)]
    (fun s =>
      let w := s.ware cls
      okWith (be16 w.dwell ++ be16 w.stock ++ be16 w.soiled ++ be16 w.washing ++ be16 w.held ++ be16 w.clean ++
        be16 w.inWarmer ++ be16 w.plated ++ be16 w.house ++ be16 (s.committed cls)) s) s

def wareRead (p : Port) (cls : Nat) : State → State := portRequest p .read (wareReadBody cls)

def execWareRead (p : Port) (cls : Nat) (s : State) : Host.Outcome State Fault Refusal := live (wareRead p cls) s

end Sys2Proof.Machine
end

