-- ==== Sys2Proof/Machine/CourseCommands.lean ====
section
/-! DEFINITION. The function and course commands (R23, R25–R29, R47–R50). -/

namespace Sys2Proof.Machine

/-- A course of any state but EMPTY names the function. -/
def State.fnInUse (s : State) (f : Nat) : Bool := s.courses.any fun c => decide (c.state ≠ .empty) && decide (c.fn = f)

/-- FUNCTION_SET (R23): DEFINE 0, CLEAR 1. -/
def functionSetBody (f action members team mode : Nat) (s : State) : Result :=
  match RouteMode.ofCode mode with
  | none => refuse .range s
  | some m =>
    checked
      [(decide (f < 8) && isFlag action && (decide (action ≠ 0) || decide (f = 0) || isTeam team) &&
          !(decide (action = 1) && decide (f = 0)), .range),
        (inDay s [.opening] && !(decide (action = 1) && s.fnInUse f), .badState)]
      (fun s =>
        okWith []
          (if action = 1 then s.setFn f Fn.initial
           else if f = 0 then s.setFn f { s.fn f with mode := m, round := 23 }
           else s.setFn f ⟨true, members, team, m, 23⟩)) s

def functionSet (p : Port) (f action members team mode : Nat) : State → State :=
  portRequest p (.changes 0) (functionSetBody f action members team mode)

def execFunctionSet (p : Port) (f action members team mode : Nat) (s : State) : Host.Outcome State Fault Refusal :=
  live (functionSet p f action members team mode) s

/-- The ranges of a batch group against its oven (R26). -/
def State.batchOk (s : State) (b : BatchArgs) : Bool :=
  decide (b.oven < 24) && (s.cab b.oven).isOven && within 1 20 b.shelves && decide (b.shelves ≤ (s.cab b.oven).shelves) &&
    withinTemp 60 250 b.setpoint && within 60 14400 b.cook && within 60 3600 b.overHold

/-- An optional group is absent, or present and in range; an undefined presence byte is out of range (log 10). -/
def optOk {α : Type} (f : α → Bool) : OptArg α → Bool
  | .absent => true
  | .present x => f x
  | .undef _ => false

def OptArg.toOption {α : Type} : OptArg α → Option α
  | .present x => some x
  | _ => none

/-- COURSE_DEFINE (R26). -/
def courseDefineBody (c : Nat) (a : CourseArgs) (s : State) : Result :=
  checked
    [(decide (c < 32) && within 1 7 a.fn && decide (a.cls < 8) && within 1 3000 a.covers && optOk s.batchOk a.batch &&
        within 1 32 a.station && optOk (fun t => decide (s.now < t)) a.fireTime, .range),
      ((s.fn a.fn).used, .notFound), (inDay s [.service] && decide ((s.course c).state = .empty), .badState)]
    (fun s =>
      okWith []
        (raise .courseState c CourseState.planned.code CourseState.empty.code
          (s.setCourse c { Course.initial with
            state := .planned, fn := a.fn, cls := a.cls, covers := a.covers, batch := OptArg.toOption a.batch,
            station := a.station, fireTime := OptArg.toOption a.fireTime }))) s

def courseDefine (p : Port) (c : Nat) (a : CourseArgs) : State → State :=
  portRequest p (.changes 2) (courseDefineBody c a)

def execCourseDefine (p : Port) (c : Nat) (a : CourseArgs) (s : State) : Host.Outcome State Fault Refusal :=
  live (courseDefine p c a) s

/-- The oven is in FAULT or OFFLINE. -/
def Cab.outOfUse (c : Cab) : Bool := decide (c.state = .fault) || decide (c.state = .offline)

/-- The batch tests of COURSE_ARM and COURSE_REBATCH at an oven: state, places, shelves, setpoint (R27, R47). -/
def Cab.bookable (c : Cab) (shelves : Nat) (setpoint : Int) : List (Bool × Status) :=
  [(!c.outOfUse, .badState), (decide (c.batches.length < Config.batchCap), .full),
    (decide (shelves ≤ c.freeShelves) && c.batches.all (fun b => decide (b.setpoint = setpoint)), .conflict)]

/-- A batch joins the tail of an oven's list, whose setpoint becomes the batch's if the list was empty (R27, R47). -/
def bookBatch (k : Nat) (b : Batch) (s : State) : State :=
  let c := s.cab k
  let s := s.setCab k { c with batches := c.batches ++ [b] }
  let s := if c.batches.isEmpty && decide (c.setpoint ≠ b.setpoint) then applySetpoint k b.setpoint c.band s else s
  s.setCab k (s.cab k).refreshBatches

/-- COURSE_ARM (R27). -/
def courseArmBody (c : Nat) (s : State) : Result :=
  let x := s.course c
  checked
    ([(decide (c < 32), .range), (decide (x.state ≠ .empty), .notFound),
        (inDay s [.service] && decide (x.state = .planned), .badState)] ++
      (match x.batch with
       | none => []
       | some b => (s.cab b.oven).bookable b.shelves b.setpoint))
    (fun s =>
      let s :=
        match x.batch with
        | none => s
        | some b => bookBatch b.oven ⟨c, b.shelves, b.setpoint, b.cook, .booked, none⟩ s
      okWith [] (finish (enterCourse c .armed s))) s

def courseArm (p : Port) (c : Nat) : State → State := portRequest p (.changes 2) (courseArmBody c)

def execCourseArm (p : Port) (c : Nat) (s : State) : Host.Outcome State Fault Refusal := live (courseArm p c) s

/-- COURSE_FIRE (R29). -/
def courseFireBody (c : Nat) (s : State) : Result :=
  checked
    [(decide (c < 32), .range), (decide ((s.course c).state ≠ .empty), .notFound),
      (inDay s [.service] && decide ((s.course c).state = .armed), .badState), (!s.fire.exhausted, .full)]
    (fun s =>
      let s := finish (fireCourse c s)
      okWith (beOpt16 (s.course c).fireSeq ++ be16 (s.earmarkedFor c) ++ be16 (s.course c).owed) s) s

def courseFire (p : Port) (c : Nat) : State → State := portRequest p (.changes 2) (courseFireBody c)

def execCourseFire (p : Port) (c : Nat) (s : State) : Host.Outcome State Fault Refusal := live (courseFire p c) s

/-- A batch that may move to another oven (R47). -/
def Batch.movable (b : Batch) : Bool :=
  decide (b.state = .booked) || decide (b.state = .waiting) || decide (b.state = .paused)

/-- The move of a batch to oven `k` (R47). -/
def rebatch (c k : Nat) (b : Batch) (s : State) : State :=
  let s := removeBatch c s
  let x := s.course c
  let s := s.setCourse c { x with ovenFault := false, batch := x.batch.map fun y => { y with oven := k } }
  bookBatch k { b with state := if x.state = .armed then .booked else .waiting } s

/-- COURSE_REBATCH (R47). The oven that the course names is its batch's present oven also where the batch is REMOVED or not
yet booked, so that RANGE comes before BAD_STATE for it (DESIGN CHOICE, log 21). -/
def courseRebatchBody (c k : Nat) (s : State) : Result :=
  let x := s.course c
  let moved := s.batchOf c
  checked
    ([(decide (c < 32) && decide (k < 24) && (s.cab k).isOven &&
          (match x.batch with
           | none => true
           | some b => decide (b.oven ≠ k) && decide (b.shelves ≤ (s.cab k).shelves)), .range),
        (decide (x.state ≠ .empty), .notFound),
        (inDay s [.service] &&
          (match moved with
           | none => false
           | some b => b.movable), .badState)] ++
      (match moved with
       | none => []
       | some b => (s.cab k).bookable b.shelves b.setpoint))
    (fun s =>
      match moved with
      | none => refuse .badState s
      | some b => okWith (be16 b.remaining) (finish (rebatch c k b s))) s

def courseRebatch (p : Port) (c k : Nat) : State → State := portRequest p (.changes 2) (courseRebatchBody c k)

def execCourseRebatch (p : Port) (c k : Nat) (s : State) : Host.Outcome State Fault Refusal := live (courseRebatch p c k) s

/-- COURSE_CANCEL (R48). -/
def courseCancelBody (c : Nat) (s : State) : Result :=
  let st := (s.course c).state
  checked
    [(decide (c < 32), .range), (decide (st ≠ .empty), .notFound),
      (inDay s [.service] && decide (st ≠ .served) && decide (st ≠ .cancelled), .badState)]
    (fun s => okWith (be16 (s.earmarkedFor c)) (finish (cancelCourse c s))) s

def courseCancel (p : Port) (c : Nat) : State → State := portRequest p (.changes 2) (courseCancelBody c)

def execCourseCancel (p : Port) (c : Nat) (s : State) : Host.Outcome State Fault Refusal := live (courseCancel p c) s

/-- COURSE_CLOSE (R49). -/
def courseCloseBody (c : Nat) (s : State) : Result :=
  let x := s.course c
  checked
    [(decide (c < 32), .range), (decide (x.state ≠ .empty), .notFound),
      (inDay s openDays && (decide (x.state = .served) || decide (x.state = .cancelled)), .badState)]
    (fun s => okWith (be16 (x.plated - x.returned)) (emptyCourse c (clearRelated c s))) s

def courseClose (p : Port) (c : Nat) : State → State := portRequest p (.changes 2) (courseCloseBody c)

def execCourseClose (p : Port) (c : Nat) (s : State) : Host.Outcome State Fault Refusal := live (courseClose p c) s

/-- The batch group of a COURSE_READ SUMMARY: a batch in no list is REMOVED, or not yet booked (log 9). -/
def State.batchBytes (s : State) (c : Nat) : List Byte :=
  match (s.course c).batch with
  | none => [0]
  | some b =>
    1 :: (be8 b.oven ++ be8 b.shelves ++ beTemp b.setpoint ++ be16 b.cook ++ be16 b.overHold ++
      (match s.batchOf c with
       | some x => be8 x.state.code ++ be16 x.remaining
       | none => (if (s.course c).state = .planned then be8 0xFF else be8 BatchState.removed.code) ++ be16 0xFFFF))

/-- COURSE_READ, part SUMMARY (R50): every other field of an EMPTY course is 0 or absent. -/
def State.courseSummary (s : State) (c : Nat) : List Byte :=
  let x := s.course c
  be8 x.state.code ++ be8 x.fn ++ be8 x.cls ++ be16 x.covers ++ s.batchBytes c ++ be8 x.station ++
    (match x.fireTime with
     | none => [0]
     | some t => 1 :: be32 t) ++
    beOpt16 x.fireSeq ++ be16 x.owed ++ be16 x.plated ++ be16 x.returned ++ beFlag x.ovenFault ++ beFlag x.shortPaged ++
    beFlag x.overHoldPaged ++ be16 (s.earmarkedFor c) ++
    beFlag (decide (x.state ≠ .empty) && s.warmFor c)

/-- COURSE_READ, part EARMARKS (R50): up to 12 entries from a cabinet on, and how many follow. -/
def State.earmarkPart (s : State) (c start : Nat) : List Byte :=
  let es := s.earmarks.filter fun e => decide (e.course = c) && decide (start ≤ e.cab)
  ((es.take 12).map fun e => be8 e.cab ++ be16 e.count).flatten ++ be8 (es.length - 12)

/-- COURSE_READ (R50): SUMMARY 0, EARMARKS 1. -/
def courseReadBody (c part start : Nat) (s : State) : Result :=
  checked [(decide (c < 32) && isFlag part && (decide (part = 0) || decide (start < 24)), .range)]
    (fun s => okWith (if part = 0 then s.courseSummary c else s.earmarkPart c start) s) s

def courseRead (p : Port) (c part start : Nat) : State → State := portRequest p .read (courseReadBody c part start)

def execCourseRead (p : Port) (c part start : Nat) (s : State) : Host.Outcome State Fault Refusal :=
  live (courseRead p c part start) s

/-- FUNCTION_READ (R50): UNUSED 0, DEFINED 1. -/
def functionReadBody (f : Nat) (s : State) : Result :=
  checked [(decide (f < 8), .range)]
    (fun s =>
      let x := s.fn f
      okWith (be8 x.used.toNat ++ be24 x.members ++ be8 x.team ++ be8 x.mode.code ++ be8 x.round) s) s

def functionRead (p : Port) (f : Nat) : State → State := portRequest p .read (functionReadBody f)

def execFunctionRead (p : Port) (f : Nat) (s : State) : Host.Outcome State Fault Refusal := live (functionRead p f) s

end Sys2Proof.Machine
end

