-- ==== Sys2Proof/Machine/CabinetCommands.lean ====
section
/-! DEFINITION. The cabinet commands (R53, R61, R62, R65, R75). -/

namespace Sys2Proof.Machine

/-- The ranges of CABINET_SET by kind (R52, R53). -/
def cabinetArgsOk (kind : CabKind) (a : CabinetArgs) : Bool :=
  match kind with
  | .empty => true
  | .oven =>
    within 1 31 a.addr && withinTemp 60 250 a.setpoint && within 2 20 a.band && within 1 400 a.heat &&
      within 1 a.heat a.hold && decide (a.standby = 0) && within 1 20 a.shelves
  | .warmer =>
    within 1 31 a.addr && withinTemp 60 95 a.setpoint && within 2 20 a.band && within 1 400 a.heat &&
      within 1 a.heat a.hold && decide (a.standby ≤ a.hold) && (decide (a.cls < 8) || decide (a.cls = 0xFF)) &&
      within 1 600 a.capacity && (decide (a.idle = 0) || within 60 3600 a.idle)

/-- The slot's new record: the given fields, wanted OFF, an empty latch and empty lists (R53). -/
def newCab (kind : CabKind) (a : CabinetArgs) : Cab :=
  match kind with
  | .empty => Cab.initial
  | .oven =>
    { Cab.initial with
      kind := .oven, addr := some a.addr, setpoint := a.setpoint, band := a.band, heat := a.heat, hold := a.hold,
      standby := 0, shelves := a.shelves }
  | .warmer =>
    { Cab.initial with
      kind := .warmer, addr := some a.addr, setpoint := a.setpoint, band := a.band, heat := a.heat, hold := a.hold,
      standby := a.standby, cls := if a.cls = 0xFF then none else some a.cls, capacity := a.capacity, idle := a.idle }

/-- The baselines of the node at an address are unset (R53, R68). -/
def unsetBaselines (a : Option Nat) (s : State) : State :=
  match a with
  | none => s
  | some x => s.setNode x { s.node x with loadBase := none, drawBase := none }

/-- A naming moves from one address to another; both nodes are bound again (R148), the old address's before the new one's
(DESIGN CHOICE, log 20). -/
def renameFrom (old new : Option Nat) (s : State) : State :=
  if old = new then renamed new s else renamed new (renamed old s)

/-- The type that a cabinet's node must have (R148). -/
def CabKind.nodeType : CabKind → Option NodeType
  | .empty => none
  | .oven => some .oven
  | .warmer => some .warmer

/-- The node at the cabinet's address is answering and of the matching type (R53). -/
def State.cabSuits (s : State) (k : Nat) : Bool :=
  let c := s.cab k
  match c.addr with
  | none => false
  | some a => (s.node a).answering && decide (c.kind ≠ .empty) && decide ((s.node a).type = c.kind.nodeType)

/-- The state of the configured slot (R53): OFF when its node answers and matches, and OFFLINE otherwise. A change of state
is noticed and calls for routing passes (R54, R89), and a SET to OFF is claimed. A slot that keeps an answering node of its
kind keeps its consumer's last report time, also where that node is another than before (DESIGN CHOICE, log 24). -/
def placeCab (k : Nat) (old : CabState) (s : State) : State :=
  let c := s.cab k
  let silent :=
    match c.addr with
    | none => false
    | some a => decide ((s.node a).presence = .silent)
  let s :=
    if s.cabSuits k then s.setCab k { c with state := .off, stale := silent }
    else clearMeasured k s
  let st := (s.cab k).state
  claimCab k false (if st = old then s else callRoutes (raise .cabinetState k st.code old.code s))

/-- CABINET_SET's effect: the node's binding is made again when the slot's address or its kind has changed (R148). Only
the node at the new address has its baselines unset (DESIGN CHOICE, log 21). A slot has no lots in OPENING (R70); were
there any, they would be unloaded before the record is written over (R3). -/
def configureCab (k : Nat) (kind : CabKind) (a : CabinetArgs) (s : State) : State :=
  let old := s.cab k
  let new := newCab kind a
  let s := (unload k s).setCab k new
  let s := if old.addr = new.addr ∧ old.kind = new.kind then s else renameFrom old.addr new.addr s
  placeCab k old.state (unsetBaselines new.addr s)

/-- A course that is not EMPTY has its batch at the slot (R53). -/
def State.slotBooked (s : State) (k : Nat) : Bool :=
  s.courses.any fun c =>
    decide (c.state ≠ .empty) &&
      (match c.batch with
       | none => false
       | some b => decide (b.oven = k))

/-- Another slot names the address (R53). -/
def State.addrTaken (s : State) (k a : Nat) : Bool :=
  (List.range 24).any fun j =>
    decide (j ≠ k) && decide ((s.cab j).kind ≠ .empty) && decide ((s.cab j).addr = some a)

/-- CABINET_SET (R53). -/
def cabinetSetBody (k kind : Nat) (a : CabinetArgs) (s : State) : Result :=
  match CabKind.ofCode kind with
  | none => refuse .range s
  | some q =>
    checked
      [(decide (k < 24) && cabinetArgsOk q a, .range), (decide (q = .empty) || !s.addrTaken k a.addr, .conflict),
        (inDay s [.opening] && decide ((s.cab k).state ≠ .fault) && !s.slotBooked k, .badState)]
      (fun s => okWith [] (finish (configureCab k q a s))) s

def cabinetSet (p : Port) (k kind : Nat) (a : CabinetArgs) : State → State :=
  portRequest p (.changes 0) (cabinetSetBody k kind a)

def execCabinetSet (p : Port) (k kind : Nat) (a : CabinetArgs) (s : State) : Host.Outcome State Fault Refusal :=
  live (cabinetSet p k kind a) s

/-- CABINET_MODE's refusals by BAD_STATE (R61): ON 0, OFF 1. -/
def State.modeAllowed (s : State) (k mode force : Nat) : Bool :=
  let c := s.cab k
  if mode = 0 then decide (s.day.state ≠ .closing) && decide (c.state ≠ .fault)
  else if force = 1 then true
  else !(c.isWarmer && decide (0 < s.earmarkedAt k)) && !(c.isOven && !c.batches.isEmpty)

/-- CABINET_MODE (R61). -/
def cabinetModeBody (k mode force : Nat) (s : State) : Result :=
  checked
    [(decide (k < 24) && isFlag mode && isFlag force, .range), (decide ((s.cab k).kind ≠ .empty), .notFound),
      (inDay s openDays && s.modeAllowed k mode force, .badState)]
    (fun s =>
      let s :=
        if mode = 0 then switchOn k (s.setCab k { s.cab k with wantedOn := true }) else switchOff k false s
      let s := finish s
      okWith (be8 (s.cab k).state.code) s) s

def cabinetMode (p : Port) (k mode force : Nat) : State → State := portRequest p (.changes 2) (cabinetModeBody k mode force)

def execCabinetMode (p : Port) (k mode force : Nat) (s : State) : Host.Outcome State Fault Refusal :=
  live (cabinetMode p k mode force) s

/-- The setpoint range of a kind (R52). -/
def CabKind.setpointOk (q : CabKind) (t : Int) : Bool :=
  match q with
  | .empty => true
  | .oven => withinTemp 60 250 t
  | .warmer => withinTemp 60 95 t

/-- CABINET_SETPOINT (R62). -/
def cabinetSetpointBody (k : Nat) (t : Int) (band : Nat) (s : State) : Result :=
  let c := s.cab k
  checked
    [(decide (k < 24) && c.kind.setpointOk t && within 2 20 band, .range), (decide (c.kind ≠ .empty), .notFound),
      (inDay s openDays, .badState), (!(c.isOven && !c.batches.isEmpty), .conflict)]
    (fun s => okWith [] (finish (applySetpoint k t band s))) s

def cabinetSetpoint (p : Port) (k : Nat) (t : Int) (band : Nat) : State → State :=
  portRequest p (.changes 2) (cabinetSetpointBody k t band)

def execCabinetSetpoint (p : Port) (k : Nat) (t : Int) (band : Nat) (s : State) : Host.Outcome State Fault Refusal :=
  live (cabinetSetpoint p k t band) s

/-- The latch of a rearm (R65, steps 1 and 2). -/
def relatch (k : Nat) (s : State) : State :=
  let c := s.cab k
  if c.live = c.latchedSet then s.setCab k { c with latched := false }
  else
    raise .cabinetCondition k c.live.mask c.state.code
      (s.setCab k { c with latched := true, latchedSet := c.live })

/-- The node of the cabinet's slot is answering and bound to it. -/
def State.cabAnswering (s : State) (k : Nat) : Bool :=
  match (s.cab k).addr with
  | none => false
  | some a => (s.node a).answering && s.cabBound k

/-- CABINET_REARM's effect (R65). -/
def rearm (k : Nat) (s : State) : State :=
  let s := relatch k s
  let c := s.cab k
  if decide (c.state = .fault) && !hasFault c.live then
    if s.cabAnswering k then enterOff k false s else enterOffline k s
  else s

/-- CABINET_REARM (R65). -/
def cabinetRearmBody (k : Nat) (s : State) : Result :=
  checked
    [(decide (k < 24), .range), (decide ((s.cab k).kind ≠ .empty), .notFound), (inDay s openDays, .badState)]
    (fun s =>
      let s := finish (rearm k s)
      let c := s.cab k
      okWith (be8 c.state.code ++ be8 c.live.mask ++ be8 c.latchedSet.mask) s) s

def cabinetRearm (p : Port) (k : Nat) : State → State := portRequest p (.changes 2) (cabinetRearmBody k)

def execCabinetRearm (p : Port) (k : Nat) (s : State) : Host.Outcome State Fault Refusal := live (cabinetRearm p k) s

/-- CABINET_READ, part SUMMARY (R75): wanted ON 0, OFF 1; door OPEN 0, CLOSED 1. -/
def State.cabSummary (s : State) (k : Nat) : List Byte :=
  let c := s.cab k
  be8 c.kind.code ++ beOpt8 c.addr ++ be8 c.state.code ++ be8 (onCode c.wantedOn) ++ beTemp c.setpoint ++ be8 c.band ++
    be16 c.heat ++ be16 c.hold ++ be16 c.standby ++ be16 (s.consumer k).grant ++ beTemp c.temp ++ be8 c.level.code ++
    be16 c.draw ++ be8 (if c.live.doorOpen then 0 else 1) ++ be8 c.live.mask ++ be8 c.latchedSet.mask ++
    beFlag c.latched ++ beFlag c.stale ++
    (if c.isWarmer then
      beOpt8 c.cls ++ be16 c.capacity ++ be16 c.lotTotal ++ be16 (s.earmarkedAt k) ++ be16 (s.readyPlates k) ++
        be16 c.pending
     else [])

/-- CABINET_READ's list parts (R75). -/
def State.cabListPart (s : State) (k part start : Nat) : List Byte :=
  let c := s.cab k
  match part with
  | 1 =>
    listPart (c.lots.map fun l => be16 l.count ++ beOpt32 l.warmFrom ++ beFlag (l.warm (s.dwellOf c) s.now)) start 6
  | 2 =>
    listPart
      (c.batches.map fun b =>
        be8 b.course ++ be8 b.shelves ++ be8 b.state.code ++ be16 b.remaining ++ beOpt32 b.doneAt) start 4
  | _ => listPart (c.routes.map fun r => be8 r.line ++ be16 r.tag ++ be8 r.count ++ be8 r.loaded) start 8

/-- CABINET_READ (R75): SUMMARY 0, LOTS 1, BATCHES 2, ROUTES 3. -/
def cabinetReadBody (k part start : Nat) (s : State) : Result :=
  checked [(decide (k < 24) && decide (part < 4) && (decide (part = 0) || decide (start < 24)), .range)]
    (fun s => okWith (if part = 0 then s.cabSummary k else s.cabListPart k part start) s) s

def cabinetRead (p : Port) (k part start : Nat) : State → State := portRequest p .read (cabinetReadBody k part start)

def execCabinetRead (p : Port) (k part start : Nat) (s : State) : Host.Outcome State Fault Refusal :=
  live (cabinetRead p k part start) s

end Sys2Proof.Machine
end

