-- ==== Sys2Proof/Machine/LineCommands.lean ====
section
/-! DEFINITION. The line and rack commands (R78, R79, R81, R87, R88, R97, R99). -/

namespace Sys2Proof.Machine

/-- The ranges of LINE_SET (R77): STRICT 0, PASS 1. -/
def lineArgsOk (a : LineArgs) : Bool :=
  within 1 31 a.addr && decide (a.defFn < 8) && isFlag a.holdMode && withinTemp 70 90 a.sanMin && within 2 8 a.high &&
    decide (a.low < a.high) && within 60 1800 a.transit && within 60 1800 a.route && decide (a.booster ≤ 300)

/-- LINE_SET's effect (R79): settings, the node's events and conveyor when the address changes, watermarks at once; a
new address with no washer bound hands a booster draw of 0 to the power budget unit (R94, R103). LINE_STOPPED comes
before the NODE_TYPE_MISMATCH of a naming left unmatched (DESIGN CHOICE, log 20). With a washer bound there, the booster's
last report time is kept, although it is the former washer's (DESIGN CHOICE, log 24). -/
def configureLine (l : Nat) (a : LineArgs) (s : State) : State :=
  let old := s.line l
  let s := s.setLine l { old with
    addr := some a.addr, defFn := a.defFn, strict := decide (a.holdMode = 0), sanMin := a.sanMin, high := a.high,
    low := a.low, transitLimit := a.transit, routeTimeout := a.route, booster := a.booster }
  let s :=
    if old.addr = some a.addr then s
    else
      let s := setRunning l false (s.setLine l { s.line l with lastEvent := none })
      let s := renameFrom old.addr (some a.addr) s
      claimSet (some a.addr) (.line l) (.line (s.line l).wantedRun) false s
  let s := backpressure l s
  if decide (old.addr ≠ some a.addr) && !s.lineBound l then clearMeasured (24 + l) s else s

/-- LINE_SET (R79). -/
def lineSetBody (l : Nat) (a : LineArgs) (s : State) : Result :=
  checked
    [(decide (l < 2) && lineArgsOk a, .range), (decide ((s.line (1 - l)).addr ≠ some a.addr), .conflict),
      ((s.fn a.defFn).used, .notFound), (inDay s [.opening], .badState)]
    (fun s => okWith [] (finish (configureLine l a s))) s

def lineSet (p : Port) (l : Nat) (a : LineArgs) : State → State := portRequest p (.changes 0) (lineSetBody l a)

def execLineSet (p : Port) (l : Nat) (a : LineArgs) (s : State) : Host.Outcome State Fault Refusal := live (lineSet p l a) s

/-- LINE_MODE (R97): RUN 0, STOP 1. -/
def lineModeBody (l mode : Nat) (s : State) : Result :=
  checked [(decide (l < 2) && isFlag mode, .range), (inDay s openDays, .badState)]
    (fun s =>
      let x := s.line l
      let run := decide (mode = 0)
      let s :=
        if x.opRun = run then s
        else finish (boosterSync l (s.setLine l { x with opRun := run, stops := { x.stops with operator := !run } }))
      okWith (be8 (s.line l).stops.mask ++ be8 (runCode (s.line l).wantedRun)) s) s

def lineMode (p : Port) (l mode : Nat) : State → State := portRequest p (.changes 3) (lineModeBody l mode)

def execLineMode (p : Port) (l mode : Nat) (s : State) : Host.Outcome State Fault Refusal := live (lineMode p l mode) s

/-- The function of an announced rack: given, or the line's default (R81). -/
def State.announcedFn (s : State) (l : Nat) (f : OptArg Nat) : Nat := ((OptArg.toOption f).getD (s.line l).defFn)

/-- RACK_ANNOUNCE (R81). -/
def rackAnnounceBody (l tag cls n : Nat) (f : OptArg Nat) (s : State) : Result :=
  checked
    [(decide (l < 2) && decide (cls < 8) && within 1 60 n && optOk (fun g => decide (g < 8)) f && !(s.line l).hasTag tag,
        .range),
      ((s.fn (s.announcedFn l f)).used, .notFound), (inDay s [.opening, .service], .badState),
      (decide ((s.line l).racks.length < Config.rackCap), .full), (decide (n ≤ (s.ware cls).soiled), .short)]
    (fun s =>
      let r : Rack := ⟨tag, cls, n, s.announcedFn l f, none, none, 0, none, none, 0, false⟩
      let s := withStaged l ((s.line l).staged ++ [r]) (transfer cls .soiled .washing n s)
      okWith (be8 (s.line l).racks.length) s) s

def rackAnnounce (p : Port) (l tag cls n : Nat) (f : OptArg Nat) : State → State :=
  portRequest p (.changes 3) (rackAnnounceBody l tag cls n f)

def execRackAnnounce (p : Port) (l tag cls n : Nat) (f : OptArg Nat) (s : State) : Host.Outcome State Fault Refusal :=
  live (rackAnnounce p l tag cls n f) s

/-- The rack of the exit section with a tag. -/
def Line.exitRack (l : Line) (tag : Nat) : Option Rack := l.exits.find? (·.tag = tag)

/-- A HELD rack goes back to the staged section (R87). -/
def restage (l : Nat) (r : Rack) (s : State) : State :=
  let s := transfer r.cls .held .washing r.count s
  let s := withExits l ((s.line l).exits.filter (·.tag ≠ r.tag)) s
  withStaged l ((s.line l).staged ++
    [{ r with reason := none, entry := none, transit := 0, dest := none, routeTime := none, loaded := 0,
              noticed := false }]) s

/-- RACK_RELEASE (R87): REWASH 0, SOIL 1. -/
def rackReleaseBody (l tag action : Nat) (s : State) : Result :=
  let found := (s.line l).exitRack tag
  checked
    [(decide (l < 2) && isFlag action, .range), ((s.line l).hasTag tag, .notFound),
      (inDay s (if action = 0 then [.opening, .service] else openDays) &&
        (match found with
         | none => false
         | some r => r.reason.isSome), .badState)]
    (fun s =>
      match found with
      | none => refuse .badState s
      | some r =>
        let s :=
          if action = 0 then backpressure l (restage l r s)
          else leaveExit l tag leftSoiled (transfer r.cls .held .soiled r.count s)
        let s := finish (callRoute l s)
        okWith (be8 (s.line l).occupancy) s) s

def rackRelease (p : Port) (l tag action : Nat) : State → State :=
  portRequest p (.changes 3) (rackReleaseBody l tag action)

def execRackRelease (p : Port) (l tag action : Nat) (s : State) : Host.Outcome State Fault Refusal :=
  live (rackRelease p l tag action) s

/-- RACK_CLEAR (R88). -/
def rackClearBody (l tag : Nat) (s : State) : Result :=
  let found := (s.line l).exitRack tag
  checked
    [(decide (l < 2), .range), ((s.line l).hasTag tag, .notFound),
      (inDay s openDays &&
        (match found with
         | none => false
         | some r => r.reason.isNone), .badState)]
    (fun s =>
      match found with
      | none => refuse .badState s
      | some r =>
        let s :=
          match r.dest with
          | none => s
          | some k => dropRoute k l tag s
        okWith (be8 (r.count - r.loaded)) (finish (callRoute l (leaveExit l tag leftCleared s)))) s

def rackClear (p : Port) (l tag : Nat) : State → State := portRequest p (.changes 3) (rackClearBody l tag)

def execRackClear (p : Port) (l tag : Nat) (s : State) : Host.Outcome State Fault Refusal := live (rackClear p l tag) s

/-- A rack record (R99). -/
def Line.rackBytes (l : Line) (r : Rack) : List Byte :=
  be16 r.tag ++ be8 r.cls ++ be8 r.count ++ be8 r.fn ++ be8 (l.stateOf r.tag) ++ beOpt8 (r.reason.map HoldReason.code) ++
    beOpt32 r.entry ++ be16 r.transit ++ beOpt8 r.dest ++ beOpt32 r.routeTime ++ be8 r.loaded ++ beFlag r.noticed

/-- RACK_READ (R99): TAG 0, whose reply carries the rack's position too, and POSITION 1; both carry the queue length. -/
def rackReadBody (l selector value : Nat) (s : State) : Result :=
  let x := s.line l
  let i := if selector = 0 then (x.racks.findIdx? (·.tag = value)).getD x.racks.length else value
  checked
    [(decide (l < 2) && isFlag selector && (decide (selector = 0) || decide (value < 12)), .range),
      (decide (i < x.racks.length), .notFound)]
    (fun s =>
      match x.racks[i]? with
      | none => refuse .notFound s
      | some r => okWith (x.rackBytes r ++ (if selector = 0 then be8 i else []) ++ be8 x.racks.length) s) s

def rackRead (p : Port) (l selector value : Nat) : State → State := portRequest p .read (rackReadBody l selector value)

def execRackRead (p : Port) (l selector value : Nat) (s : State) : Host.Outcome State Fault Refusal :=
  live (rackRead p l selector value) s

/-- LINE_READ (R99). -/
def lineReadBody (l : Nat) (s : State) : Result :=
  checked [(decide (l < 2), .range)]
    (fun s =>
      let x := s.line l
      okWith (beOpt8 x.addr ++ be8 x.defFn ++ be8 (if x.strict then 0 else 1) ++ beTemp x.sanMin ++ be8 x.high ++
        be8 x.low ++ be16 x.transitLimit ++ be16 x.routeTimeout ++ be16 x.booster ++ be8 (runCode x.opRun) ++
        be8 x.stops.mask ++ be8 (runCode x.wantedRun) ++ be8 (runCode x.running) ++ beTemp x.rinse ++
        beFlag x.rinseLow ++ beOpt8 x.lastEvent ++ be8 x.staged.length ++ be8 x.inside.length ++
        be8 (x.exits.filter (·.reason.isNone)).length ++ be8 (x.exits.filter (·.reason.isSome)).length ++
        be8 x.occupancy) s) s

def lineRead (p : Port) (l : Nat) : State → State := portRequest p .read (lineReadBody l)

def execLineRead (p : Port) (l : Nat) (s : State) : Host.Outcome State Fault Refusal := live (lineRead p l) s

end Sys2Proof.Machine
end

