-- ==== Sys2Proof/Machine/PowerCommands.lean ====
section
/-! DEFINITION. The power commands (R109–R111, R116–R118). -/

namespace Sys2Proof.Machine

/-- The sum of the protected parts of all grants (R102, R110). -/
def State.protectedSum (s : State) : Nat := total ((List.range 26).map s.protectedPart)

/-- BUDGET_SET's effect: the budget, revocations, admission and restore, the notice; and how many were revoked. -/
def changeBudget (n : Nat) (s : State) : State × Nat :=
  let old := s.power.budget
  let (s, revoked) := revoke 26 0 (s.withPower { s.power with budget := n })
  (raise .budgetChanged 0 n old (powerTry (callRestore s)), revoked)

/-- BUDGET_SET (R110). -/
def budgetSetBody (n : Nat) (s : State) : Result :=
  checked
    [(decide (n ≤ 2500) && decide (s.power.shedHigh ≤ n), .range), (inDay s openDays, .badState),
      (decide (s.protectedSum ≤ n), .conflict)]
    (fun s =>
      let (s, revoked) := changeBudget n s
      let s := finish s
      okWith (be16 s.power.budget ++ be16 s.grantSum ++ be8 revoked) s) s

def budgetSet (p : Port) (n : Nat) : State → State := portRequest p (.changes 5) (budgetSetBody n)

def execBudgetSet (p : Port) (n : Nat) (s : State) : Host.Outcome State Fault Refusal := live (budgetSet p n) s

/-- POWER_SET (R111): ON 0, OFF 1; TRUNCATE 0, NEAREST_EVEN 1; PROTECTED 0, SHEDDABLE 1. -/
def powerSetBody (a : PowerArgs) (s : State) : Result :=
  checked
    [(decide (a.low < a.high) && decide (a.high ≤ s.power.budget) && isFlag a.saturation && isFlag a.rounding &&
        isFlag a.prot0 && isFlag a.prot1, .range), (inDay s openDays, .badState)]
    (fun s =>
      let s := s.withPower { s.power with
        shedHigh := a.high, shedLow := a.low, saturate := decide (a.saturation = 0),
        nearestEven := decide (a.rounding = 1), protected0 := decide (a.prot0 = 0),
        protected1 := decide (a.prot1 = 0) }
      okWith [] (finish (powerTry (callRestore (shedCheck s))))) s

def powerSet (p : Port) (a : PowerArgs) : State → State := portRequest p (.changes 5) (powerSetBody a)

def execPowerSet (p : Port) (a : PowerArgs) (s : State) : Host.Outcome State Fault Refusal := live (powerSet p a) s

/-- A meter as a reply carries it. -/
def Meter.bytes (m : Meter) : List Byte := be32 m.raw ++ beFlag m.overflow

/-- ENERGY_LOAD (R117). -/
def energyLoadBody (m raw : Nat) (s : State) : Result :=
  checked [(decide (m < 34), .range), (inDay s openDays, .badState)]
    (fun s => okWith (s.meter m).bytes (s.setMeter m ⟨raw, false⟩)) s

def energyLoad (p : Port) (m raw : Nat) : State → State := portRequest p (.changes 5) (energyLoadBody m raw)

def execEnergyLoad (p : Port) (m raw : Nat) (s : State) : Host.Outcome State Fault Refusal := live (energyLoad p m raw) s

/-- POWER_READ, part SUMMARY (R118). -/
def State.powerSummary (s : State) : List Byte :=
  let w := s.power
  be16 w.budget ++ be16 w.shedHigh ++ be16 w.shedLow ++ be8 (onCode w.saturate) ++ be8 w.nearestEven.toNat ++
    be8 (if w.protected0 then 0 else 1) ++ be8 (if w.protected1 then 0 else 1) ++ be16 s.grantSum ++
    be16 s.measuredTotal ++ beFlag w.settle.isSome ++ beFlag w.unresolved ++ be8 s.waitList.length

/-- POWER_READ, part CONSUMER (R118). -/
def State.consumerPart (s : State) (c : Nat) : List Byte :=
  let x := s.consumer c
  be16 x.grant ++ be16 x.request ++ be8 (s.tier c) ++ be8 (s.restoreClass c) ++ beFlag x.mark ++
    be16 (s.protectedPart c) ++ be16 x.measured ++ beOpt32 x.lastReport ++ beOpt8 (s.waitList.findIdx? (· = c))

/-- A WAITLIST entry (R185). -/
def State.waitEntry (s : State) (c : Nat) : List Byte :=
  let x := s.consumer c
  be8 (x.mark.toNat * 128 + c) ++ be16 x.request ++ be16 (min (s.now - x.reqTime.getD s.now) 65535)

/-- POWER_READ (R118): SUMMARY 0, CONSUMER 1, WAITLIST 2. -/
def powerReadBody (part x : Nat) (s : State) : Result :=
  checked [(decide (part < 3) && (decide (part = 0) || decide (x < 26)), .range)]
    (fun s =>
      okWith
        (match part with
         | 0 => s.powerSummary
         | 1 => s.consumerPart x
         | _ => listPart (s.waitList.map s.waitEntry) x 8) s) s

def powerRead (p : Port) (part x : Nat) : State → State := portRequest p .read (powerReadBody part x)

def execPowerRead (p : Port) (part x : Nat) (s : State) : Host.Outcome State Fault Refusal := live (powerRead p part x) s

/-- ENERGY_READ (R116). -/
def energyReadBody (m : Nat) (s : State) : Result :=
  checked [(decide (m < 34), .range)]
    (fun s => okWith (be32 ((s.meter m).rounded s.power.nearestEven) ++ beFlag (s.meter m).overflow) s) s

def energyRead (p : Port) (m : Nat) : State → State := portRequest p .read (energyReadBody m)

def execEnergyRead (p : Port) (m : Nat) (s : State) : Host.Outcome State Fault Refusal := live (energyRead p m) s

/-- ENERGY_READ_RAW (R116). -/
def energyReadRawBody (m : Nat) (s : State) : Result :=
  checked [(decide (m < 34), .range)] (fun s => okWith (s.meter m).bytes s) s

def energyReadRaw (p : Port) (m : Nat) : State → State := portRequest p .read (energyReadRawBody m)

def execEnergyReadRaw (p : Port) (m : Nat) (s : State) : Host.Outcome State Fault Refusal := live (energyReadRaw p m) s

end Sys2Proof.Machine
end

