-- ==== Sys2Proof/Machine/PagingCommands.lean ====
section
/-! DEFINITION. The paging commands (R125, R138, R140, R141). -/

namespace Sys2Proof.Machine

def Gate.page : Gate := ⟨some 4, true, true, false, false⟩

/-- PAGE_SEND (R125, R126). -/
def pageSendBody (p : Port) (kind value code arg prio : Nat) (s : State) : Result :=
  match Target.ofCode kind value, Prio.ofCode prio with
  | some t, some r =>
    if code < 0x80 then refuse .range s
    else
      match makeRoom r s with
      | none => refuse .full s
      | some u =>
        okWith (be8 u.freeId) (finish (selectPass (addPage t code arg r (.port p) none u)))
  | _, _ => refuse .range s

def pageSend (p : Port) (kind value code arg prio : Nat) : State → State :=
  portRequest p .page (pageSendBody p kind value code arg prio)

def execPageSend (p : Port) (kind value code arg prio : Nat) (s : State) : Host.Outcome State Fault Refusal :=
  live (pageSend p kind value code arg prio) s

/-- PAGE_CANCEL (R138): the reply carries CANCELLED, or the state in which the mark was set. -/
def pageCancelBody (id : Nat) (s : State) : Result :=
  match s.page id with
  | none => refuse .notFound s
  | some g =>
    okWith (be8 (if g.atBase then g.state.code else PageState.cancelled.code))
      (finish (selectPass (cancelPage id true s)))

def pageCancel (p : Port) (id : Nat) : State → State := portRequest p .page (pageCancelBody id)

def execPageCancel (p : Port) (id : Nat) (s : State) : Host.Outcome State Fault Refusal := live (pageCancel p id) s

/-- PAGING_SET's effect (R140): a changed base address loses the old base and binds the new one. -/
def configurePaging (a : PagingArgs) (age : Option Nat) (s : State) : State :=
  let old := s.paging.settings.base
  let s := withSettings ⟨some a.base, a.kitchen, a.dish, age, a.rate, a.anti, a.rushLen⟩ s
  let s :=
    if old = some a.base then s
    else renameFrom old (some a.base) (if old.isSome then baseLost s else s)
  selectPass s

/-- PAGING_SET (R140). -/
def pagingSetBody (a : PagingArgs) (s : State) : Result :=
  match ageOfCode a.age with
  | none => refuse .range s
  | some age =>
    checked
      [(within 1 31 a.base && isTeam a.kitchen && isTeam a.dish && decide (a.rate ∈ [2, 4, 8, 16]) &&
          decide (a.anti ∈ [8, 16]) && within 60 900 a.rushLen, .range), (inDay s [.opening], .badState)]
      (fun s => okWith [] (finish (configurePaging a age s))) s

def pagingSet (p : Port) (a : PagingArgs) : State → State := portRequest p (.changes 0) (pagingSetBody a)

def execPagingSet (p : Port) (a : PagingArgs) (s : State) : Host.Outcome State Fault Refusal := live (pagingSet p a) s

/-- Ports A, B, C are 0, 1, 2; an internal block is 3 (R123's list). -/
def Origin.code : Origin → Nat
  | .port p => p.code
  | .block => 3

/-- A page record as PAGE_READ shows it (R141). -/
def State.pageBytes (s : State) (i : Nat) (g : Page) : List Byte :=
  be8 g.id ++ be8 g.target.kindCode ++ be8 g.target.value ++ be8 g.code ++ be16 g.arg ++ be8 g.prio.code ++
    be8 g.origin.code ++ be32 g.created ++ be8 g.state.code ++ beFlag g.inDelivery ++ beOpt8 (g.level.map Prio.code) ++
    be8 g.resends ++ beFlag g.cancelMark ++ beOpt8 g.course ++ be8 (s.effective g).code ++ be8 i ++
    beOpt8 (g.resendEnd.map fun e => e - s.now) ++ be8 s.paging.pages.length ++ be8 s.pagesAtBase

/-- PAGE_READ (R141): ID 0, POSITION 1. -/
def pageReadBody (selector value : Nat) (s : State) : Result :=
  let i := if selector = 0 then (s.paging.pages.findIdx? (·.id = value)).getD s.paging.pages.length else value
  checked
    [(isFlag selector && (decide (selector = 0) || decide (value < 32)), .range),
      (decide (i < s.paging.pages.length), .notFound)]
    (fun s =>
      match s.paging.pages[i]? with
      | none => refuse .notFound s
      | some g => okWith (s.pageBytes i g) s) s

def pageRead (p : Port) (selector value : Nat) : State → State := portRequest p .read (pageReadBody selector value)

def execPageRead (p : Port) (selector value : Nat) (s : State) : Host.Outcome State Fault Refusal :=
  live (pageRead p selector value) s

/-- A directory entry: 0 unused, or 1 and its fields (PRESENT 0, ABSENT 1). -/
def pagerBytes (e : Option Pager) : List Byte :=
  match e with
  | none => [0]
  | some g => 1 :: (be8 g.addr ++ be8 (if g.present then 0 else 1) ++ be32 g.lastSeen)

/-- The levels held at a TEAM target, as a mask with URGENT at bit 0 (R141). -/
def State.teamLevels (s : State) (t : Nat) : Nat :=
  let has := fun (l : Prio) => s.paging.pages.any fun g => decide (g.target = .team t) && decide (g.level = some l)
  maskOf [has .urgent, has .rush, has .normal, has .info]

/-- PAGER_READ of a team (R141). -/
def State.teamBytes (s : State) (t : Nat) : List Byte :=
  beFlag (s.teamPresent t) ++ be8 (s.rate t).count ++ beOpt8 ((s.rate t).ends.map fun e => e - s.now) ++
    beOpt16 ((s.rushEnd t).map fun e => e - s.now) ++
    be8 (s.paging.pages.filter fun g => decide (g.target = .team t)).length ++ be8 (s.teamLevels t)

/-- PAGER_READ (R141): POSITION 0, ADDRESS 1, TEAM 2. -/
def pagerReadBody (selector value : Nat) (s : State) : Result :=
  match selector with
  | 0 => checked [(decide (value < 64), .range)] (fun s => okWith (pagerBytes (s.paging.dir.getD value none)) s) s
  | 1 =>
    checked [(isPager value, .range), ((s.dirFind value).isSome, .notFound)]
      (fun s =>
        let i := (s.dirFind value).getD 0
        okWith (pagerBytes (s.paging.dir.getD i none) ++ be8 i) s) s
  | 2 => checked [(isTeam value, .range)] (fun s => okWith (s.teamBytes value) s) s
  | _ => refuse .range s

def pagerRead (p : Port) (selector value : Nat) : State → State := portRequest p .read (pagerReadBody selector value)

def execPagerRead (p : Port) (selector value : Nat) (s : State) : Host.Outcome State Fault Refusal :=
  live (pagerRead p selector value) s

end Sys2Proof.Machine
end

