-- ==== Sys2Proof/Machine/PortCommands.lean ====
section
/-! DEFINITION. The port, hold, claim and permission commands (R165–R169, R172–R175) and NODE_READ (R159). -/

namespace Sys2Proof.Machine

/-- A notice's 11 bytes (R186). -/
def Notice.bytes (n : Notice) : List Byte :=
  be8 n.kind.code ++ be8 n.kind.category.code ++ be8 n.subject ++ be16 n.detail1 ++ be16 n.detail2 ++ be32 n.time

/-- NOTICE_FETCH (R172). -/
def noticeFetchBody (p : Port) (n : Nat) (s : State) : Result :=
  checked [(within 1 3 n, .range)]
    (fun s =>
      let r := s.port p
      let out := r.queue.take n
      let rest := r.queue.drop n
      okWith (beFlag r.overflow ++ be8 out.length ++ be8 rest.length ++ (out.map Notice.bytes).flatten)
        (s.setPort p { r with queue := rest, overflow := false })) s

def noticeFetch (p : Port) (n : Nat) : State → State := portRequest p .read (noticeFetchBody p n)

def execNoticeFetch (p : Port) (n : Nat) (s : State) : Host.Outcome State Fault Refusal := live (noticeFetch p n) s

/-- NOTICE_SUBSCRIBE (R173): ON 0, OFF 1. -/
def noticeSubscribeBody (p : Port) (set enable : Nat) (s : State) : Result :=
  checked [(decide (set < 128) && isFlag enable, .range)]
    (fun s => okWith [] (s.setPort p { s.port p with subs := set, lineOn := decide (enable = 0) })) s

def noticeSubscribe (p : Port) (set enable : Nat) : State → State :=
  portRequest p .read (noticeSubscribeBody p set enable)

def execNoticeSubscribe (p : Port) (set enable : Nat) (s : State) : Host.Outcome State Fault Refusal :=
  live (noticeSubscribe p set enable) s

/-- PORT_RESET (R174). -/
def portResetBody (p : Port) (s : State) : Result :=
  let s := if s.hold.owner = some p then endHold none 0 s else s
  okWith [] (s.setPort p { s.port p with queue := [], overflow := false, subs := 127, lineOn := true })

def portReset (p : Port) : State → State := portRequest p ⟨none, true, true, false, false⟩ (portResetBody p)

def execPortReset (p : Port) (s : State) : Host.Outcome State Fault Refusal := live (portReset p) s

/-- PORT_READ (R175). -/
def portReadBody (p : Port) (s : State) : Result :=
  let r := s.port p
  okWith (be8 r.perms ++ be8 r.subs ++ be8 (onCode r.lineOn) ++ be8 r.queue.length ++ beFlag r.overflow ++
    beOpt8 (s.day.claim.map Port.code) ++ beOpt8 (s.hold.owner.map Port.code) ++ be8 s.hold.count ++
    beOpt8 s.holdLeft) s

def portRead (p : Port) : State → State := portRequest p .read (portReadBody p)

def execPortRead (p : Port) (s : State) : Host.Outcome State Fault Refusal := live (portRead p) s

/-- HOLD_BEGIN (R167). -/
def holdBeginBody (p : Port) (s : State) : Result :=
  match s.hold.owner with
  | none => okWith (be8 Config.holdLimit ++ be8 Config.holdMs) (s.withHold ⟨some p, 0, some s.day.ms⟩)
  | some q => if q = p then refuse .badState s else refuse .held s

def holdBegin (p : Port) : State → State := portRequest p ⟨none, true, false, true, false⟩ (holdBeginBody p)

def execHoldBegin (p : Port) (s : State) : Host.Outcome State Fault Refusal := live (holdBegin p) s

/-- HOLD_END (R169); its reason is END, 0. -/
def holdEndBody (p : Port) (s : State) : Result :=
  match s.hold.owner with
  | none => refuse .badState s
  | some q => if q = p then okWith (be8 s.hold.count) (endHold (some .holdEnded) 0 s) else refuse .held s

def holdEnd (p : Port) : State → State := portRequest p ⟨none, true, true, true, false⟩ (holdEndBody p)

def execHoldEnd (p : Port) (s : State) : Host.Outcome State Fault Refusal := live (holdEnd p) s

def withClaim (c : Option Port) (s : State) : State := s.withDay { s.day with claim := c }

/-- CONFIG_CLAIM and CONFIG_RELEASE need the class and no claim. -/
def Gate.claim : Gate := ⟨some 0, true, false, false, true⟩

/-- The claim is not another port's (R166). -/
def State.claimMine (s : State) (p : Port) : Bool := s.day.claim.isNone || decide (s.day.claim = some p)

/-- CONFIG_CLAIM (R166). -/
def configClaimBody (p : Port) (s : State) : Result :=
  checked [(inDay s [.opening], .badState), (s.claimMine p, .claimed)] (fun s => okWith [] (withClaim (some p) s)) s

def configClaim (p : Port) : State → State := portRequest p .claim (configClaimBody p)

def execConfigClaim (p : Port) (s : State) : Host.Outcome State Fault Refusal := live (configClaim p) s

/-- CONFIG_RELEASE (R166). -/
def configReleaseBody (p : Port) (s : State) : Result :=
  checked [(inDay s [.opening], .badState), (s.claimMine p, .claimed)] (fun s => okWith [] (withClaim none s)) s

def configRelease (p : Port) : State → State := portRequest p .claim (configReleaseBody p)

def execConfigRelease (p : Port) (s : State) : Host.Outcome State Fault Refusal := live (configRelease p) s

/-- Some port holds CONFIG once `q` holds the set (R165). -/
def State.configKept (s : State) (q : Port) (set : Nat) : Bool :=
  [Port.a, Port.b, Port.c].any fun r => if r = q then set.testBit 0 else (s.port r).perms.testBit 0

/-- CLAIM_RELEASED to the port that lost the claim; its details are free values (log 1). -/
def claimLost (q : Port) (s : State) : State :=
  let (n, s) := s.freshFree
  let (m, s) := s.freshFree
  raiseTo q .claimReleased q.code (Config.claimReleasedDetail n).val (Config.claimReleasedDetail m).val
    (withClaim none s)

/-- PERMIT_SET (R165). -/
def permitSetBody (port set : Nat) (s : State) : Result :=
  match Port.ofCode port with
  | none => refuse .range s
  | some q =>
    checked [(decide (set < 64) && s.configKept q set, .range), (inDay s [.opening], .badState)]
      (fun s =>
        let s := s.setPort q { s.port q with perms := set }
        okWith (be8 set) (if decide (s.day.claim = some q) && !set.testBit 0 then claimLost q s else s)) s

def permitSet (p : Port) (port set : Nat) : State → State := portRequest p (.changes 0) (permitSetBody port set)

def execPermitSet (p : Port) (port set : Nat) (s : State) : Host.Outcome State Fault Refusal :=
  live (permitSet p port set) s

/-! ### NODE_READ -/

/-- The index of a binding, all ones where it has none. -/
def Binding.index : Binding → Nat
  | .cabinet k => k
  | .line l => l
  | _ => 0xFF

/-- The wanted state of a node, a group behind its presence byte (R185): a cabinet's mode and setpoint, or a line's
conveyor. -/
def Wanted.bytes : Wanted → List Byte
  | .nothing => be8 0
  | .cabinet m t => be8 1 ++ be8 m.code ++ beTemp t
  | .line run => be8 1 ++ be8 (runCode run)

/-- Positions in R149's list (R185, log 8). -/
def Tx.position : Tx → Nat
  | .identify _ => 0
  | .poll _ => 1
  | .set _ => 2
  | .deliver _ _ _ _ _ => 3

/-- NODE_READ, part NODE (R159). A running silence timer is shown as its seconds left in one byte, a running poll timer as
its milliseconds left in two, and a stopped one as all ones (DESIGN CHOICE, log 9). -/
def State.nodeBytes (s : State) (a : Nat) : List Byte :=
  let n := s.node a
  be8 (typeCode n.type) ++ be32 n.serial ++ be8 n.presence.code ++ be8 n.misses ++ beOpt8 n.silence ++
    beOpt32 n.lastResp ++ beOpt8 n.loadBase ++ beOpt8 n.drawBase ++ be8 n.binding.kindCode ++ be8 n.binding.index ++
    be8 n.pollClass.code ++ beOpt16 (n.pollEnd.map fun e => e - s.day.ms) ++ beFlag n.fetchAhead ++ n.wanted.bytes ++
    beFlag n.wantedUrgent ++ beOpt8 n.lastEvent ++ beOpt32 (n.lastResp.map fun t => s.now - t)

/-- NODE_READ, part BUS (R159). -/
def State.busBytes (s : State) : List Byte :=
  let b := s.bus
  let count := fun (x : Presence) => be8 (b.nodes.filter fun n => decide (n.presence = x)).length
  be8 b.discPtr ++ count .unknown ++ count .present ++ count .silent ++ count .lost ++
    beOpt8 (b.inflight.map fun f => f.tx.position) ++ beOpt8 (b.inflight.map fun f => f.tx.addr) ++
    beFlag (decide (b.guard = .abandon)) ++ be8 b.urgent.length ++ be8 b.fetch.length ++ be8 b.ordinary.length

/-- NODE_READ (R159): NODE 0, BUS 1. -/
def nodeReadBody (part a : Nat) (s : State) : Result :=
  checked [(isFlag part && (decide (part = 1) || within 1 31 a), .range)]
    (fun s => okWith (if part = 0 then s.nodeBytes a else s.busBytes) s) s

def nodeRead (p : Port) (part a : Nat) : State → State := portRequest p .read (nodeReadBody part a)

def execNodeRead (p : Port) (part a : Nat) (s : State) : Host.Outcome State Fault Refusal := live (nodeRead p part a) s

end Sys2Proof.Machine
end

