-- ==== Sys2Proof/Machine/DayCommands.lean ====
section
/-! DEFINITION. The commands of the service day and the resets (R177, R178, R182–R184). -/

namespace Sys2Proof.Machine

/-! ### Resets (R183) -/

/-- POWER_ON: every record at its power-on value; the level of RESET_N is the input's own. -/
def execPowerOn (s : State) : Host.Outcome State Fault Refusal := .next (powerOnState s.day.resetLow s)

/-- RESET_N driven low: the effect of power-on, and the part stays in reset. -/
def execResetN (s : State) : Host.Outcome State Fault Refusal := .next (powerOnState true s)

/-- RESET_N released: the part runs from its power-on values. -/
def execResetNRelease (s : State) : Host.Outcome State Fault Refusal :=
  .next (if s.day.resetLow then powerOnState false s else s)

/-- DEVICE_RESET. -/
def deviceResetBody (s : State) : Result :=
  checked [(inDay s openDays, .badState)] (fun s => okWith [] (powerOnState s.day.resetLow s)) s

def deviceReset (p : Port) : State → State := portRequest p (.changes 0) deviceResetBody

def execDeviceReset (p : Port) (s : State) : Host.Outcome State Fault Refusal := live (deviceReset p) s

/-! ### DAY_OPEN (R177) -/

/-- The conditions of DAY_OPEN. -/
def State.mayOpen (s : State) : Bool :=
  decide (0 < s.power.budget) && decide (s.power.shedLow < s.power.shedHigh) &&
    decide (s.power.shedHigh ≤ s.power.budget) && s.cabs.all fun c => !c.isWarmer || c.cls.isSome

/-- Step 1: the service clock becomes 0. -/
def zeroClock (s : State) : State := s.withDay { s.day with clock := 0, secMs := s.day.ms }

/-- Step 2: the courses. -/
def openCourses (s : State) : State :=
  let s := forEach (List.range 32) (fun c t => if (t.course c).state = .empty then t else emptyCourse c t) s
  let s := (s.withEarmarks []).withFire ⟨0, false⟩
  s.withFns (s.fns.map fun f => { f with round := 23 })

/-- Step 4 at one cabinet: door and out-of-band timers that run restart. -/
def Cab.openDay (c : Cab) : Cab :=
  { c with doorT := c.doorT.map fun _ => Config.doorSec, oobT := c.oobT.map fun _ => Config.oobSec }

/-- Step 4 at one line: IN_MACHINE racks take entry time 0, and DAY leaves the stop reasons (R98). -/
def Line.openDay (l : Line) : Line :=
  { l with stops := { l.stops with day := false }, inside := l.inside.map fun r => { r with entry := some 0 } }

/-- Step 4: the other blocks' records. -/
def openRecords (s : State) : State :=
  let s := powerOpen s
  let s := s.withBus { s.bus with nodes := s.bus.nodes.map fun n => { n with lastResp := n.lastResp.map fun _ => 0 } }
  (s.withCabs (s.cabs.map Cab.openDay)).withLines (s.lines.map Line.openDay)

/-- Steps 5 and 6: the claim is released and the day state becomes SERVICE. -/
def dayToService (s : State) : State :=
  matchDiscovery (s.withDay { s.day with claim := none, state := .service, ret := none, cause := none })

/-- Step 7: cabinets wanted ON and boosters whose operator mode is RUN claim their requests;
slots ascending, then booster 0 and booster 1 (DESIGN CHOICE, log 27). -/
def openRequests (s : State) : State := boosterSync 1 (boosterSync 0 (forEach (List.range 24) switchOn s))

/-- The consumers that hold a request. -/
def State.requesting (s : State) : Nat := (s.power.consumers.filter fun c => decide (0 < c.request)).length

/-- DAY_OPEN's effect. -/
def openDay (s : State) : State :=
  let s := openRecords (pagingOpen (openCourses (zeroClock s)))
  let s := powerTry (openRequests (dayToService s))
  raise .dayOpened 0 s.requesting 0 s

def dayOpenBody (s : State) : Result :=
  checked [(inDay s [.opening] && s.mayOpen, .badState)] (fun s => okWith [] (finish (openDay s))) s

def dayOpen (p : Port) : State → State := portRequest p (.changes 0) dayOpenBody

def execDayOpen (p : Port) (s : State) : Host.Outcome State Fault Refusal := live (dayOpen p) s

/-! ### DAY_CLOSE (R178) -/

/-- The PLANNED and ARMED courses. -/
def State.unfired (s : State) : List Nat :=
  positions (fun c => decide (c.state = .planned) || decide (c.state = .armed)) s.courses

/-- Step 4: the day state becomes CLOSING. -/
def dayToClosing (s : State) : State := s.withDay { s.day with state := .closing }

/-- DAY_CLOSE's effect: courses and cabinets in ascending slots, line 0 before line 1 (DESIGN CHOICE, log 27). -/
def closeDay (s : State) : State :=
  let courses := s.unfired.length
  let racks := total (s.lines.map fun l => l.staged.length)
  let s := forEach s.unfired cancelCourse s
  let s := forEach (List.range 24) (fun k t => switchOff k false t) s
  let s := powerTry (removeStaged 1 (removeStaged 0 s))
  callClose (raise .dayClosing 0 courses racks (dayToClosing s))

def dayCloseBody (s : State) : Result :=
  checked [(inDay s [.service] && s.courses.all fun c => !c.state.active, .badState)]
    (fun s =>
      okWith (be8 s.unfired.length ++ be8 (total (s.lines.map fun l => l.staged.length))) (finish (closeDay s))) s

def dayClose (p : Port) : State → State := portRequest p (.changes 0) dayCloseBody

def execDayClose (p : Port) (s : State) : Host.Outcome State Fault Refusal := live (dayClose p) s

/-- CLOSE_COMPLETION: the completion test of R179. -/
def execCloseCompletion (s : State) : Host.Outcome State Fault Refusal := live (fun s => finish (closeTest (callClose s))) s

/-! ### LOCKOUT_CLEAR (R182) -/

/-- Steps 1 and 2: the return state, and FEEDCUT deasserted. -/
def clearLockoutDay (s : State) : State :=
  s.withDay { s.day with state := s.day.ret.getD .opening, ret := none, cause := none, feedcut := false }

/-- Step 3 on one line. -/
def clearLockoutLine (l : Nat) (s : State) : State :=
  boosterSync l (withStops l { (s.line l).stops with lockout := false } s)

/-- LOCKOUT_CLEAR's effect. -/
def clearLockout (s : State) : State :=
  let s := clearLockoutLine 1 (clearLockoutLine 0 (clearLockoutDay s))
  let s := matchDiscovery s
  callClose (raise .lockoutCleared 0 s.day.state.code 0 s)

def lockoutClearBody (s : State) : Result :=
  checked [(inDay s [.lockout] && s.overtempCabs.isEmpty && s.unconfirmed.isEmpty, .badState)]
    (fun s => okWith (be8 (s.day.ret.getD .opening).code) (finish (clearLockout s))) s

def lockoutClear (p : Port) : State → State := portRequest p ⟨some 0, true, true, false, false⟩ lockoutClearBody

def execLockoutClear (p : Port) (s : State) : Host.Outcome State Fault Refusal := live (lockoutClear p) s

/-! ### DAY_READ (R184) -/

/-- Milliseconds left on the soonest confirm timer. -/
def State.confirmLeft (s : State) : Option Nat :=
  (sortBy (fun a b => decide (a ≤ b)) (s.day.confirm.filterMap fun t => t.map fun x => x + Config.confirmMs - s.day.ms)).head?

/-- How many, and the lowest. -/
def countLowest (l : List Nat) : List Byte := be8 l.length ++ beOpt8 l.head?

def dayReadBody (s : State) : Result :=
  let d := s.day
  okWith (be8 d.state.code ++ beOpt8 (d.ret.map DayState.code) ++ beOpt8 d.cause ++ be32 d.clock ++ beFlag d.feedcut ++
    be24 (maskOf (d.confirm.map Option.isSome)) ++ beOpt16 s.confirmLeft ++
    countLowest (positions (fun c => decide (c.state ≠ .off) && decide (c.state ≠ .offline)) s.cabs) ++
    be8 (s.line 0).inside.length ++ be8 (s.line 1).inside.length ++ countLowest s.overtempCabs ++
    countLowest s.unconfirmed) s

def dayRead (p : Port) : State → State := portRequest p .read dayReadBody

def execDayRead (p : Port) (s : State) : Host.Outcome State Fault Refusal := live (dayRead p) s

end Sys2Proof.Machine
end

