-- ==== Sys2Proof/Machine/BusEvents.lean ====
section
/-! DEFINITION. The events of the service bus: answers, silence, guards, sending, polls and discovery
(R145–R157). -/

namespace Sys2Proof.Machine

/-- IDENT_REPLY (R147). -/
def execIdentReply (a : Nat) (type : NodeType) (serial : Nat) (urgent : Bool) (s : State) :
    Host.Outcome State Fault Refusal :=
  live (receive a (.ident type serial) urgent) s

/-- CABINET_REPORT (R67). -/
def execCabinetReport (a : Nat) (r : CabinetRep) (urgent : Bool) (s : State) : Host.Outcome State Fault Refusal :=
  live (receive a (.cabinet r) urgent) s

/-- WASHER_REPORT (R82). -/
def execWasherReport (a : Nat) (r : WasherRep) (urgent : Bool) (s : State) : Host.Outcome State Fault Refusal :=
  live (receive a (.washer r) urgent) s

/-- BASE_REPORT (R132). -/
def execBaseReport (a : Nat) (r : BaseRep) (urgent : Bool) (s : State) : Host.Outcome State Fault Refusal :=
  live (receive a (.base r) urgent) s

/-- SET_ACK (R151). -/
def execSetAck (a : Nat) (urgent : Bool) (s : State) : Host.Outcome State Fault Refusal :=
  live (receive a .setAck urgent) s

/-- DELIVER_ACK (R131). -/
def execDeliverAck (a : Nat) (accepted urgent : Bool) (s : State) : Host.Outcome State Fault Refusal :=
  live (receive a (.deliverAck accepted) urgent) s

/-- Received bytes judged by the validity test of R149 and R187. -/
def receiveBytes (bytes : List Byte) (s : State) : State :=
  match s.awaiting with
  | none => s
  | some f =>
    match parseResponse (s.node f.tx.addr).type bytes with
    | none => finish (failAttempt f s)
    | some r => receive r.addr r.body r.urgent s

/-- INVALID_RESPONSE (R150). -/
def execInvalidResponse (bytes : List Byte) (s : State) : Host.Outcome State Fault Refusal := live (receiveBytes bytes) s

/-- RESPONSE_TIMEOUT (R150). -/
def responseTimeout (s : State) : State :=
  match s.awaiting with
  | none => s
  | some f => finish (failAttempt f s)

def execResponseTimeout (s : State) : Host.Outcome State Fault Refusal := live responseTimeout s

/-- TRANSACTION_SEND: the bus is free, so the head of the list is sent (R156). -/
def transactionSend (s : State) : State := if s.bus.inflight.isNone && decide (s.bus.guard = .free) then sendNext s else s

def execTransactionSend (s : State) : Host.Outcome State Fault Refusal := live transactionSend s

/-- BUS_GUARD_END: the 1 ms guard ends, and a transaction between attempts goes out again (R149, R150). -/
def busGuardEnd (s : State) : State :=
  if s.bus.guard = .bus then
    let s := s.withBus { s.bus with guard := .free }
    match s.bus.inflight with
    | none => s
    | some f => transmit f.tx s
  else s

def execBusGuardEnd (s : State) : Host.Outcome State Fault Refusal := live busGuardEnd s

/-- ABANDON_GUARD_END: the 2 ms guard ends, and the head of the urgent part is sent (R157, step 2). With that part empty,
as after a reset (R158), the bus is free for TRANSACTION_SEND. -/
def abandonGuardEnd (s : State) : State :=
  if s.bus.guard = .abandon then
    let s := s.withBus { s.bus with guard := .free }
    if s.bus.urgent.isEmpty then s else sendNext s
  else s

def execAbandonGuardEnd (s : State) : Host.Outcome State Fault Refusal := live abandonGuardEnd s

/-- The millisecond count has reached the end of a short timer (log 5). -/
def reachMs (t : Nat) (s : State) : State := s.withDay { s.day with ms := max s.day.ms t }

/-- POLL_TIMER_EXPIRY (R155). -/
def pollTimerExpiry (a : Nat) (s : State) : State :=
  match (s.node a).pollEnd with
  | none => s
  | some e =>
    let s := reachMs e (s.setNode a { s.node a with pollEnd := none })
    if s.bus.isInFlight (.poll a) then s else queuePoll a s

def execPollTimerExpiry (a : Nat) (s : State) : Host.Outcome State Fault Refusal := live (pollTimerExpiry a) s

/-- DISCOVERY_TIMER_EXPIRY (R146). -/
def discoveryTimerExpiry (s : State) : State :=
  if s.bus.discTimer = some 0 then
    let s := s.withBus { s.bus with discTimer := some Config.discoverySec }
    if s.bus.identifyFree then discoveryStep s else s
  else s

def execDiscoveryTimerExpiry (s : State) : Host.Outcome State Fault Refusal := live discoveryTimerExpiry s

/-- DISCOVERY_STEP, in OPENING (R146). -/
def openingDiscovery (s : State) : State :=
  if decide (s.day.state = .opening) && s.bus.identifyFree then discoveryStep s else s

def execDiscoveryStep (s : State) : Host.Outcome State Fault Refusal := live openingDiscovery s

/-- SILENCE_TIMER_EXPIRY (R145). -/
def silenceTimerExpiry (a : Nat) (s : State) : State :=
  if (s.node a).silence = some 0 then finish (goLost a s) else s

def execSilenceTimerExpiry (a : Nat) (s : State) : Host.Outcome State Fault Refusal := live (silenceTimerExpiry a) s

end Sys2Proof.Machine
end

