-- ==== Sys2Proof/Machine/TimerEvents.lean ====
section
/-! DEFINITION. Time and the steps that a timer, a limit or a waiting list brings about. A row acts when its timer has
run out and changes nothing otherwise (log 13). -/

namespace Sys2Proof.Machine

/-! ### Power and the hold -/

/-- ADMISSION (R105). -/
def execAdmission (s : State) : Host.Outcome State Fault Refusal := live (fun s => finish (admission s)) s

/-- SETTLE_TIMER_EXPIRY (R107, R108): shed check, admission, restore check. -/
def settleTimerExpiry (s : State) : State :=
  if s.power.settle = some 0 then finish (powerTry (callRestore (shedCheck (withSettle none s)))) else s

def execSettleTimerExpiry (s : State) : Host.Outcome State Fault Refusal := live settleTimerExpiry s

/-- HOLD_TIMER_EXPIRY (R169). -/
def holdTimerExpiry (s : State) : State :=
  match s.hold.start with
  | none => s
  | some t => endHold (some .holdExpired) s.hold.count (reachMs (t + Config.holdMs) s)

def execHoldTimerExpiry (s : State) : Host.Outcome State Fault Refusal := live holdTimerExpiry s

/-- CONFIRM_TIMER_EXPIRY (R180). -/
def confirmTimerExpiry (k : Nat) (s : State) : State :=
  match s.day.confirm.getD k none with
  | none => s
  | some t => if s.day.state = .lockout then s else finish (enterLockout k (reachMs (t + Config.confirmMs) s))

def execConfirmTimerExpiry (k : Nat) (s : State) : Host.Outcome State Fault Refusal := live (confirmTimerExpiry k) s

/-! ### The service second (R176, R73, R85) -/

/-- A running countdown loses a second. -/
def tick (t : Option Nat) : Option Nat := t.map (· - 1)

def Batch.second (b : Batch) : Batch := if b.state = .cooking then { b with remaining := b.remaining - 1 } else b

def Cab.second (c : Cab) : Cab :=
  { c with sleepT := tick c.sleepT, oobT := tick c.oobT, doorT := tick c.doorT, batches := c.batches.map Batch.second }

/-- Transit seconds rise while the conveyor runs (R85), to 1800 at most (R80). -/
def Line.second (l : Line) : Line :=
  { l with
    inside := if l.running then l.inside.map fun r => { r with transit := min (r.transit + 1) 1800 } else l.inside,
    transitJudged := l.transitLimit }

/-- The service clock rises by 1, and the second begins. -/
def clockSecond (s : State) : State :=
  let m := s.day.secMs + 1000
  s.withDay { s.day with clock := (s.day.clock + 1) % Config.clockMod, secMs := m, ms := max s.day.ms m }

/-- SERVICE_SECOND. -/
def serviceSecond (s : State) : State :=
  let s := (clockSecond s).withCabs (s.cabs.map Cab.second)
  let s := s.withLines (s.lines.map Line.second)
  let s := withSettle (tick s.power.settle) s
  let s := s.withBus { s.bus with
    discTimer := tick s.bus.discTimer, nodes := s.bus.nodes.map fun n => { n with silence := tick n.silence } }
  s.withPaging { s.paging with ageJudged := s.paging.settings.age }

def execServiceSecond (s : State) : Host.Outcome State Fault Refusal := live serviceSecond s

/-! ### Courses and batches -/

/-- A planned fire time that does not fire its course (R30). -/
def missFire (c t : Nat) (s : State) : State :=
  let x := s.course c
  raise .courseFireMissed c x.state.code (t % 65536) (s.setCourse c { x with fireTime := none })

/-- PLANNED_FIRE_TIME_REACHED (R30). -/
def plannedFire (c : Nat) (s : State) : State :=
  let x := s.course c
  match x.fireTime with
  | none => s
  | some t =>
    if s.now < t then s
    else if decide (x.state = .armed) && decide (s.day.state = .service) && !s.fire.exhausted then
      finish (fireCourse c s)
    else missFire c t s

def execPlannedFireTimeReached (c : Nat) (s : State) : Host.Outcome State Fault Refusal := live (plannedFire c) s

/-- The batch's last second has passed (R73). -/
def State.cooked (s : State) (c : Nat) : Option Batch :=
  match s.batchOf c with
  | none => none
  | some b => if b.state = .cooking ∧ b.remaining = 0 then some b else none

/-- The oven of a course's batch. -/
def State.ovenOf (s : State) (c : Nat) : Nat :=
  match (s.course c).batch with
  | none => 24
  | some b => b.oven

/-- The batch is DONE. -/
def finishBatch (c : Nat) (b : Batch) (s : State) : State :=
  let k := s.ovenOf c
  let x := s.cab k
  let s := s.setCab k { x with batches := x.batches.map fun y =>
    if y.course = c then { y with state := .done, doneAt := some s.now } else y }
  evaluateAll (raise .batchDone k c b.shelves s)

/-- COOK_TIME_COMPLETE (R73). -/
def cookTimeComplete (c : Nat) (s : State) : State :=
  match s.cooked c with
  | none => s
  | some b => finish (finishBatch c b s)

def execCookTimeComplete (c : Nat) (s : State) : Host.Outcome State Fault Refusal := live (cookTimeComplete c) s

/-- The over-hold period of a DONE batch has run out and is not paged yet (R45). -/
def State.overHeld (s : State) (c : Nat) : Bool :=
  match (s.course c).batch, s.batchOf c with
  | some a, some b =>
    (match b.doneAt with
     | none => false
     | some t => decide (b.state = .done) && decide (t + a.overHold ≤ s.now)) && !(s.course c).overHoldPaged
  | _, _ => false

/-- OVER_HOLD_LIMIT (R45). -/
def overHoldLimit (c : Nat) (s : State) : State :=
  if s.overHeld c then
    finish (pageKitchen codeOverHold (s.ovenOf c) .urgent (some c)
      (s.setCourse c { s.course c with overHoldPaged := true }))
  else s

def execOverHoldLimit (c : Nat) (s : State) : Host.Outcome State Fault Refusal := live (overHoldLimit c) s

/-! ### Cabinets -/

/-- LOT_WARM (R69): warmth is derived, so the readiness evaluation is the step. -/
def lotWarm (k : Nat) (s : State) : State := if 0 < s.readyPlates k then finish (evaluateAll s) else s

def execLotWarm (k : Nat) (s : State) : Host.Outcome State Fault Refusal := live (lotWarm k) s

/-- OUT_OF_BAND_EXPIRY (R67). -/
def outOfBandExpiry (k : Nat) (s : State) : State :=
  let c := s.cab k
  if c.oobT = some 0 then
    finish (evaluateAll
      (s.setCab k { c with oobT := none, lots := c.lots.map fun l => { l with warmFrom := none } }))
  else s

def execOutOfBandExpiry (k : Nat) (s : State) : Host.Outcome State Fault Refusal := live (outOfBandExpiry k) s

/-- SLEEP_TIMER_EXPIRY (R58). -/
def sleepTimerExpiry (k : Nat) (s : State) : State :=
  let c := s.cab k
  if c.sleepT = some 0 ∧ c.state = .holding then finish (enterSleep k s) else s

def execSleepTimerExpiry (k : Nat) (s : State) : Host.Outcome State Fault Refusal := live (sleepTimerExpiry k) s

/-- DOOR_TIMER_EXPIRY (R66). -/
def doorTimerExpiry (k : Nat) (s : State) : State :=
  let c := s.cab k
  if c.doorT = some 0 then
    finish (pageKitchen codeDoorOpenLong k .normal none (s.setCab k { c with doorT := none }))
  else s

def execDoorTimerExpiry (k : Nat) (s : State) : Host.Outcome State Fault Refusal := live (doorTimerExpiry k) s

/-! ### Lines -/

/-- TRANSIT_LIMIT (R85). -/
def transitExpiry (l tag : Nat) (s : State) : State :=
  match (s.line l).inside.find? (·.tag = tag) with
  | none => s
  | some r => if (s.line l).transitJudged ≤ r.transit then finish (transitHold l r s) else s

def execTransitLimit (l tag : Nat) (s : State) : Host.Outcome State Fault Refusal := live (transitExpiry l tag) s

/-- The route of a rack has run out: its cabinet, while it is still routed (R91). -/
def State.expiredRoute (s : State) (l tag : Nat) : Option Nat :=
  match (s.line l).exitRack tag with
  | none => none
  | some r =>
    match r.dest, r.routeTime with
    | some k, some t => if t + (s.line l).routeTimeout ≤ s.now then some k else none
    | _, _ => none

/-- ROUTE_TIMEOUT (R91). -/
def routeTimeout (l tag : Nat) (s : State) : State :=
  match s.expiredRoute l tag with
  | none => s
  | some k => finish (unrouteRack l tag (raise .routeExpired l tag k (dropRoute k l tag s)))

def execRouteTimeout (l tag : Nat) (s : State) : Host.Outcome State Fault Refusal := live (routeTimeout l tag) s

/-! ### Paging -/

/-- PRESENCE_AGE_EXPIRY (R122). -/
def presenceAgeExpiry (s : State) : State := agePagers s.paging.ageJudged s

def execPresenceAgeExpiry (s : State) : Host.Outcome State Fault Refusal := live presenceAgeExpiry s

/-- An end time that the clock has reached. -/
def State.reached (s : State) (t : Option Nat) : Bool :=
  match t with
  | none => false
  | some e => decide (e ≤ s.now)

/-- RUSH_TIMER_END (R127). -/
def rushTimerEnd (t : Nat) (s : State) : State :=
  if s.reached (s.rushEnd t) then finish (selectPass (setRush t none s)) else s

def execRushTimerEnd (t : Nat) (s : State) : Host.Outcome State Fault Refusal := live (rushTimerEnd t) s

/-- RATE_WINDOW_CLOSE (R128). -/
def rateWindowClose (t : Nat) (s : State) : State :=
  if s.reached (s.rate t).ends then finish (selectPass (setRate t Rate.initial s)) else s

def execRateWindowClose (t : Nat) (s : State) : Host.Outcome State Fault Refusal := live (rateWindowClose t) s

/-- A resend comes due, or the page is UNANSWERED (R135). A page past its lifetime takes part in the selection pass first
(DESIGN CHOICE, log 23). -/
def resendDue (g : Page) (s : State) : State :=
  selectPass
    (if g.resends < 3 then
      updPage g.id (fun q => { q with state := .queued, resends := q.resends + 1, resendEnd := none }) s
     else endPage g.id .unanswered s)

/-- RESEND_TIMER_EXPIRY (R135). -/
def resendTimerExpiry (id : Nat) (s : State) : State :=
  match s.page id with
  | none => s
  | some g => if decide (g.state = .sent) && s.reached g.resendEnd then finish (resendDue g s) else s

def execResendTimerExpiry (id : Nat) (s : State) : Host.Outcome State Fault Refusal := live (resendTimerExpiry id) s

/-- PAGE_LIFETIME_EXPIRY (R136): also of a page whose lifetime ran out while it was SENT or HANDED (log 23). -/
def pageLifetimeExpiry (id : Nat) (s : State) : State :=
  match s.page id with
  | none => s
  | some g =>
    if decide (g.state = .queued) && !g.inDelivery && decide (g.created + g.prio.lifetime ≤ s.now) then
      finish (selectPass (endPage id .expired s))
    else s

def execPageLifetimeExpiry (id : Nat) (s : State) : Host.Outcome State Fault Refusal := live (pageLifetimeExpiry id) s

/-- HAND_OFF: one choice of a selection pass and its hand-off (R130, R131). -/
def execHandOff (s : State) : Host.Outcome State Fault Refusal := live (fun s => finish (selectUpTo 1 s)) s

end Sys2Proof.Machine
end

