-- ==== Sys2Proof/Machine/Frames.lean ====
section
/-! DEFINITION. The port transactions given by their bytes: FETCH (R163), and a raw transaction (R162), which is a
status transaction, a fetch, a refusal with FRAME or UNKNOWN, or a command. -/

namespace Sys2Proof.Machine

/-- FETCH (R163). -/
def execFetch (p : Port) (n : Nat) (s : State) : Host.Outcome State Fault Refusal := live (fetchReply p n) s

/-- The port command that a request frame carries, taken at its port. -/
def runCommand (i : Instr) : State → State :=
  match i with
  | .noticeFetch p n => noticeFetch p n
  | .noticeSubscribe p x e => noticeSubscribe p x e
  | .portReset p => portReset p
  | .portRead p => portRead p
  | .holdBegin p => holdBegin p
  | .holdEnd p => holdEnd p
  | .configClaim p => configClaim p
  | .configRelease p => configRelease p
  | .permitSet p q x => permitSet p q x
  | .dayOpen p => dayOpen p
  | .dayClose p => dayClose p
  | .lockoutClear p => lockoutClear p
  | .deviceReset p => deviceReset p
  | .dayRead p => dayRead p
  | .classSet p c d => classSet p c d
  | .wareStock p c n => wareStock p c n
  | .wareAdd p c n => wareAdd p c n
  | .wareMove p c d n => wareMove p c d n
  | .wareWriteOff p c q n => wareWriteOff p c q n
  | .wareReturn p t x n => wareReturn p t x n
  | .wareRead p c => wareRead p c
  | .functionSet p f a m t r => functionSet p f a m t r
  | .courseDefine p c a => courseDefine p c a
  | .courseArm p c => courseArm p c
  | .courseFire p c => courseFire p c
  | .courseRebatch p c k => courseRebatch p c k
  | .courseCancel p c => courseCancel p c
  | .courseClose p c => courseClose p c
  | .courseRead p c q k => courseRead p c q k
  | .functionRead p f => functionRead p f
  | .cabinetSet p k q a => cabinetSet p k q a
  | .cabinetMode p k m f => cabinetMode p k m f
  | .cabinetSetpoint p k t b => cabinetSetpoint p k t b
  | .cabinetRearm p k => cabinetRearm p k
  | .cabinetRead p k q i => cabinetRead p k q i
  | .lineSet p l a => lineSet p l a
  | .lineMode p l m => lineMode p l m
  | .rackAnnounce p l t c n f => rackAnnounce p l t c n f
  | .rackRelease p l t a => rackRelease p l t a
  | .rackClear p l t => rackClear p l t
  | .rackRead p l q v => rackRead p l q v
  | .lineRead p l => lineRead p l
  | .budgetSet p n => budgetSet p n
  | .powerSet p a => powerSet p a
  | .energyLoad p m r => energyLoad p m r
  | .powerRead p q x => powerRead p q x
  | .energyRead p m => energyRead p m
  | .energyReadRaw p m => energyReadRaw p m
  | .pageSend p k v c a r => pageSend p k v c a r
  | .pageCancel p i => pageCancel p i
  | .pagingSet p a => pagingSet p a
  | .pageRead p q v => pageRead p q v
  | .pagerRead p q v => pagerRead p q v
  | .nodeRead p q a => nodeRead p q a
  | .powerOn | .resetN | .fetch _ _ | .undefinedCommandCode _ _ | .closeCompletion | .identReply _ _ _ _
  | .cabinetReport _ _ _ | .washerReport _ _ _ | .baseReport _ _ _ | .setAck _ _ | .deliverAck _ _ _
  | .invalidResponse _ | .responseTimeout | .transactionSend | .busGuardEnd | .abandonGuardEnd | .pollTimerExpiry _
  | .discoveryTimerExpiry | .discoveryStep | .silenceTimerExpiry _ | .admission | .settleTimerExpiry
  | .holdTimerExpiry | .confirmTimerExpiry _ | .serviceSecond | .plannedFireTimeReached _ | .cookTimeComplete _
  | .overHoldLimit _ | .lotWarm _ | .outOfBandExpiry _ | .sleepTimerExpiry _ | .doorTimerExpiry _
  | .transitLimit _ _ | .routeTimeout _ _ | .presenceAgeExpiry | .rushTimerEnd _ | .rateWindowClose _
  | .resendTimerExpiry _ | .pageLifetimeExpiry _ | .handOff | .resetNRelease => id

/-- What the port controller takes at the rise of CS_N, by the bytes the master sent (R162). -/
def takeBytes (p : Port) (l : List Byte) (s : State) : State :=
  if l.length ≤ 1 then withMiso p (s.statusBytes p) s
  else if l.head? = some 0x01#8 then fetchReply p (l.length - 2) s
  else if (s.port p).slot.isSome then refuseUnread p (s.statusBytes p) s
  else
    match parseRequest p l with
    | .frame => placeReply p ⟨.frame, []⟩ (s.statusBytes p) s
    | .unknown => placeReply p ⟨.unknown, []⟩ (s.statusBytes p) s
    | .command i => runCommand i s

/-- UNDEFINED_COMMAND_CODE: a transaction by its bytes (R162, R164). -/
def execUndefinedCommandCode (p : Port) (l : List Byte) (s : State) : Host.Outcome State Fault Refusal :=
  live (takeBytes p l) s

end Sys2Proof.Machine
end

