-- ==== Sys2Proof/Machine/Dispatch.lean ====
section
/-! DEFINITION. One arm per command: the meaning it has. -/

namespace Sys2Proof.Machine

def exec (i : Instr) (s : State) : Host.Outcome State Fault Refusal :=
  match i with
  | .powerOn => Sys2Proof.Machine.execPowerOn s
  | .resetN => Sys2Proof.Machine.execResetN s
  | .fetch p clocked => Sys2Proof.Machine.execFetch p clocked s
  | .undefinedCommandCode p bytes => Sys2Proof.Machine.execUndefinedCommandCode p bytes s
  | .noticeFetch p count => Sys2Proof.Machine.execNoticeFetch p count s
  | .noticeSubscribe p x enable => Sys2Proof.Machine.execNoticeSubscribe p x enable s
  | .portReset p => Sys2Proof.Machine.execPortReset p s
  | .portRead p => Sys2Proof.Machine.execPortRead p s
  | .holdBegin p => Sys2Proof.Machine.execHoldBegin p s
  | .holdEnd p => Sys2Proof.Machine.execHoldEnd p s
  | .configClaim p => Sys2Proof.Machine.execConfigClaim p s
  | .configRelease p => Sys2Proof.Machine.execConfigRelease p s
  | .permitSet p port x => Sys2Proof.Machine.execPermitSet p port x s
  | .dayOpen p => Sys2Proof.Machine.execDayOpen p s
  | .dayClose p => Sys2Proof.Machine.execDayClose p s
  | .closeCompletion => Sys2Proof.Machine.execCloseCompletion s
  | .lockoutClear p => Sys2Proof.Machine.execLockoutClear p s
  | .deviceReset p => Sys2Proof.Machine.execDeviceReset p s
  | .dayRead p => Sys2Proof.Machine.execDayRead p s
  | .classSet p cls dwell => Sys2Proof.Machine.execClassSet p cls dwell s
  | .wareStock p cls n => Sys2Proof.Machine.execWareStock p cls n s
  | .wareAdd p cls n => Sys2Proof.Machine.execWareAdd p cls n s
  | .wareMove p cls dir n => Sys2Proof.Machine.execWareMove p cls dir n s
  | .wareWriteOff p cls source n => Sys2Proof.Machine.execWareWriteOff p cls source n s
  | .wareReturn p target x n => Sys2Proof.Machine.execWareReturn p target x n s
  | .wareRead p cls => Sys2Proof.Machine.execWareRead p cls s
  | .functionSet p f action members team mode => Sys2Proof.Machine.execFunctionSet p f action members team mode s
  | .courseDefine p slot a => Sys2Proof.Machine.execCourseDefine p slot a s
  | .courseArm p slot => Sys2Proof.Machine.execCourseArm p slot s
  | .courseFire p slot => Sys2Proof.Machine.execCourseFire p slot s
  | .courseRebatch p slot oven => Sys2Proof.Machine.execCourseRebatch p slot oven s
  | .courseCancel p slot => Sys2Proof.Machine.execCourseCancel p slot s
  | .courseClose p slot => Sys2Proof.Machine.execCourseClose p slot s
  | .courseRead p slot part ix => Sys2Proof.Machine.execCourseRead p slot part ix s
  | .functionRead p f => Sys2Proof.Machine.execFunctionRead p f s
  | .cabinetSet p slot kind a => Sys2Proof.Machine.execCabinetSet p slot kind a s
  | .cabinetMode p slot mode force => Sys2Proof.Machine.execCabinetMode p slot mode force s
  | .cabinetSetpoint p slot setpoint band => Sys2Proof.Machine.execCabinetSetpoint p slot setpoint band s
  | .cabinetRearm p slot => Sys2Proof.Machine.execCabinetRearm p slot s
  | .cabinetRead p slot part ix => Sys2Proof.Machine.execCabinetRead p slot part ix s
  | .lineSet p line a => Sys2Proof.Machine.execLineSet p line a s
  | .lineMode p line mode => Sys2Proof.Machine.execLineMode p line mode s
  | .rackAnnounce p line tag cls count f => Sys2Proof.Machine.execRackAnnounce p line tag cls count f s
  | .rackRelease p line tag action => Sys2Proof.Machine.execRackRelease p line tag action s
  | .rackClear p line tag => Sys2Proof.Machine.execRackClear p line tag s
  | .rackRead p line selector value => Sys2Proof.Machine.execRackRead p line selector value s
  | .lineRead p line => Sys2Proof.Machine.execLineRead p line s
  | .budgetSet p budget => Sys2Proof.Machine.execBudgetSet p budget s
  | .powerSet p a => Sys2Proof.Machine.execPowerSet p a s
  | .energyLoad p meter raw => Sys2Proof.Machine.execEnergyLoad p meter raw s
  | .powerRead p part x => Sys2Proof.Machine.execPowerRead p part x s
  | .energyRead p meter => Sys2Proof.Machine.execEnergyRead p meter s
  | .energyReadRaw p meter => Sys2Proof.Machine.execEnergyReadRaw p meter s
  | .pageSend p kind value code arg prio => Sys2Proof.Machine.execPageSend p kind value code arg prio s
  | .pageCancel p id => Sys2Proof.Machine.execPageCancel p id s
  | .pagingSet p a => Sys2Proof.Machine.execPagingSet p a s
  | .pageRead p selector value => Sys2Proof.Machine.execPageRead p selector value s
  | .pagerRead p selector value => Sys2Proof.Machine.execPagerRead p selector value s
  | .nodeRead p part addr => Sys2Proof.Machine.execNodeRead p part addr s
  | .identReply addr t serial urgent => Sys2Proof.Machine.execIdentReply addr t serial urgent s
  | .cabinetReport addr rep urgent => Sys2Proof.Machine.execCabinetReport addr rep urgent s
  | .washerReport addr rep urgent => Sys2Proof.Machine.execWasherReport addr rep urgent s
  | .baseReport addr rep urgent => Sys2Proof.Machine.execBaseReport addr rep urgent s
  | .setAck addr urgent => Sys2Proof.Machine.execSetAck addr urgent s
  | .deliverAck addr accepted urgent => Sys2Proof.Machine.execDeliverAck addr accepted urgent s
  | .invalidResponse bytes => Sys2Proof.Machine.execInvalidResponse bytes s
  | .responseTimeout => Sys2Proof.Machine.execResponseTimeout s
  | .transactionSend => Sys2Proof.Machine.execTransactionSend s
  | .busGuardEnd => Sys2Proof.Machine.execBusGuardEnd s
  | .abandonGuardEnd => Sys2Proof.Machine.execAbandonGuardEnd s
  | .pollTimerExpiry addr => Sys2Proof.Machine.execPollTimerExpiry addr s
  | .discoveryTimerExpiry => Sys2Proof.Machine.execDiscoveryTimerExpiry s
  | .discoveryStep => Sys2Proof.Machine.execDiscoveryStep s
  | .silenceTimerExpiry addr => Sys2Proof.Machine.execSilenceTimerExpiry addr s
  | .admission => Sys2Proof.Machine.execAdmission s
  | .settleTimerExpiry => Sys2Proof.Machine.execSettleTimerExpiry s
  | .holdTimerExpiry => Sys2Proof.Machine.execHoldTimerExpiry s
  | .confirmTimerExpiry slot => Sys2Proof.Machine.execConfirmTimerExpiry slot s
  | .serviceSecond => Sys2Proof.Machine.execServiceSecond s
  | .plannedFireTimeReached course => Sys2Proof.Machine.execPlannedFireTimeReached course s
  | .cookTimeComplete course => Sys2Proof.Machine.execCookTimeComplete course s
  | .overHoldLimit course => Sys2Proof.Machine.execOverHoldLimit course s
  | .lotWarm slot => Sys2Proof.Machine.execLotWarm slot s
  | .outOfBandExpiry slot => Sys2Proof.Machine.execOutOfBandExpiry slot s
  | .sleepTimerExpiry slot => Sys2Proof.Machine.execSleepTimerExpiry slot s
  | .doorTimerExpiry slot => Sys2Proof.Machine.execDoorTimerExpiry slot s
  | .transitLimit line tag => Sys2Proof.Machine.execTransitLimit line tag s
  | .routeTimeout line tag => Sys2Proof.Machine.execRouteTimeout line tag s
  | .presenceAgeExpiry => Sys2Proof.Machine.execPresenceAgeExpiry s
  | .rushTimerEnd team => Sys2Proof.Machine.execRushTimerEnd team s
  | .rateWindowClose team => Sys2Proof.Machine.execRateWindowClose team s
  | .resendTimerExpiry id => Sys2Proof.Machine.execResendTimerExpiry id s
  | .pageLifetimeExpiry id => Sys2Proof.Machine.execPageLifetimeExpiry id s
  | .handOff => Sys2Proof.Machine.execHandOff s
  | .resetNRelease => Sys2Proof.Machine.execResetNRelease s

end Sys2Proof.Machine
end

