-- ==== Sys2Proof/Machine/Step.lean ====
section
/-! DEFINITION. One step of the part: the command at the front of the queue, on the rest of the queue; with no command
waiting the part idles and a millisecond passes (log 5). -/

namespace Sys2Proof.Machine

/-- A millisecond passes with no command waiting; while RESET_N is held low no time counts (R183, log 5). -/
def idle (s : State) : State := if s.day.resetLow then s else s.withDay { s.day with ms := s.day.ms + 1 }

/-- The command at the front of the queue is taken. -/
def step (s : State) : Host.Outcome State Fault Refusal :=
  match s.pending with
  | [] => .next (idle s)
  | c :: rest => exec c (s.withPending rest)

/-- The command a word spells, put at the front of the queue: no row of the table gives bits, so no word spells one. -/
def State.withFetchWord (s : State) (nbits w : Nat) : State :=
  match decodeTableWord nbits w with
  | some c => s.withPending (c :: s.pending)
  | none => s

end Sys2Proof.Machine
end

