-- ==== Sys2Proof/Safety.lean ====
section
/-! DEFINITION. The laws of the part as predicates on a state, and the words in which statements speak of a port
request: when the port takes it, when the common checks let it through, what is counted, and what its answer leaves. -/

namespace Sys2Proof.Machine

/-! ### Laws that every step keeps -/

/-- The tables have the sizes their rules give (R1, R22, R24, R52, R77, R101, R113, R120, R127, R128, R144, R176). -/
structure Sized (s : State) : Prop where
  wares : s.wares.length = 8
  fns : s.fns.length = 8
  courses : s.courses.length = 32
  cabs : s.cabs.length = 24
  lines : s.lines.length = 2
  consumers : s.power.consumers.length = 26
  meters : s.power.meters.length = 34
  dir : s.paging.dir.length = 64
  rush : s.paging.rush.length = 14
  rates : s.paging.rates.length = 14
  nodes : s.bus.nodes.length = 31
  confirm : s.day.confirm.length = 24

/-- R2: the six places of every class hold STOCK. -/
def Conserves (s : State) : Prop := ∀ w ∈ s.wares, w.sum = w.stock

/-- R3, for PLATED: it is house plated and what every course that is not EMPTY has out; no course has more returned than
plated, and one that has not fired has plated nothing. -/
structure PlatedLaw (s : State) : Prop where
  sums : ∀ cls, cls < 8 → (s.ware cls).plated = (s.ware cls).house +
    total ((s.courses.filter fun c => c.state ≠ .empty ∧ c.cls = cls).map fun c => c.plated - c.returned)
  returned : ∀ c ∈ s.courses, c.returned ≤ c.plated
  unfired : ∀ c ∈ s.courses, c.state = .planned ∨ c.state = .armed → c.plated = 0

/-- R3, for WASHING and HELD: they are the plates of the racks that stand there. With it, what of the rack records it
rests on: the tags on a line are distinct (R80), a rack is HELD in the exit section only (R80), and a route names a rack
AT_EXIT that has the route's cabinet as its destination (R70). -/
structure RackLaw (s : State) : Prop where
  washing : ∀ cls, cls < 8 → (s.ware cls).washing =
    total (s.lines.map fun l => total (((l.staged ++ l.inside).filter fun r => r.cls = cls).map (·.count)))
  held : ∀ cls, cls < 8 → (s.ware cls).held =
    total (s.lines.map fun l => total ((l.exits.filter fun r => r.cls = cls ∧ r.reason ≠ none).map (·.count)))
  tags : ∀ l ∈ s.lines, ((l.staged ++ l.inside ++ l.exits).map (·.tag)).Nodup
  working : ∀ l ∈ s.lines, ∀ r ∈ l.staged ++ l.inside, r.reason = none
  routes : ∀ k, ∀ y ∈ (s.cab k).routes,
    ∃ r ∈ (s.line y.line).exits, r.tag = y.tag ∧ r.reason = none ∧ r.dest = some k

/-- R3, for IN_WARMER: it is the lots of the warmers of the class. A slot with a class is a warmer's, and one with none
has no lots (R52, R69). -/
structure LotLaw (s : State) : Prop where
  inWarmer : ∀ cls, cls < 8 → (s.ware cls).inWarmer =
    total ((s.cabs.filter fun c => c.kind = .warmer ∧ c.cls = some cls).map fun c => total (c.lots.map (·.count)))
  classed : ∀ c ∈ s.cabs, (c.cls ≠ none → c.kind = .warmer) ∧ (c.cls = none → c.lots = [])

/-- R96: POWER is among a line's stop reasons exactly while its booster's request is above its grant. -/
def PowerStops (s : State) : Prop :=
  ∀ l, l < 2 → ((s.line l).stops.power = true ↔ (s.consumer (24 + l)).grant < (s.consumer (24 + l)).request)

/-- The grant law (R105, R110): the sum of the grants is within the budget. -/
def GrantLaw (s : State) : Prop := s.grantSum ≤ s.power.budget

/-- R171: a port's queue holds at most 24 notices. -/
def QueuesBounded (s : State) : Prop := ∀ p, (s.port p).queue.length ≤ 24

/-- R167, R169: with no owner the count is 0 and the timer stopped; a hold under way has fewer than 4 counted commands
between steps, and its timer runs. -/
def HoldLaw (s : State) : Prop :=
  (s.hold.owner = none → s.hold.count = 0 ∧ s.hold.start = none) ∧
    (s.hold.owner ≠ none → s.hold.count < 4 ∧ s.hold.start ≠ none)

/-- R176, R181, R182: FEEDCUT is asserted, and a return state and a cause stand recorded, in LOCKOUT and only there;
the return state is never LOCKOUT. -/
def LockoutLaw (s : State) : Prop :=
  (s.day.feedcut = true ↔ s.day.state = .lockout) ∧ (s.day.ret ≠ none ↔ s.day.state = .lockout) ∧
    (s.day.cause ≠ none ↔ s.day.state = .lockout) ∧ s.day.ret ≠ some .lockout

/-! ### What a command leaves as it was

A command has its own effect, and then come the checks and passes that the step has called for (admission, the restore
check, routing passes, readiness, the completion test, the wanted conveyors, the sleep timers, the poll classes). The
structures below say, record by record, what these leave as it was. -/

structure CourseKeeps (old new : Course) : Prop where
  fn : new.fn = old.fn
  cls : new.cls = old.cls
  covers : new.covers = old.covers
  batch : new.batch = old.batch
  station : new.station = old.station
  fireTime : new.fireTime = old.fireTime
  fireSeq : new.fireSeq = old.fireSeq
  plated : new.plated = old.plated
  returned : new.returned = old.returned
  ovenFault : new.ovenFault = old.ovenFault
  overHoldPaged : new.overHoldPaged = old.overHoldPaged
  state : new.state = old.state ∨ (old.state = .fired ∧ new.state = .ready) ∨ (old.state = .ready ∧ new.state = .fired)

/-- What a batch keeps while it stands in one list. -/
def Batch.booking (b : Batch) : Nat × Nat × Int × Nat := (b.course, b.shelves, b.setpoint, b.remaining)

structure CabKeeps (old new : Cab) : Prop where
  kind : new.kind = old.kind
  addr : new.addr = old.addr
  wantedOn : new.wantedOn = old.wantedOn
  setpoint : new.setpoint = old.setpoint
  band : new.band = old.band
  heat : new.heat = old.heat
  hold : new.hold = old.hold
  standby : new.standby = old.standby
  idle : new.idle = old.idle
  temp : new.temp = old.temp
  level : new.level = old.level
  draw : new.draw = old.draw
  live : new.live = old.live
  latchedSet : new.latchedSet = old.latchedSet
  latched : new.latched = old.latched
  reported : new.reported = old.reported
  cls : new.cls = old.cls
  capacity : new.capacity = old.capacity
  shelves : new.shelves = old.shelves
  batches : new.batches.map Batch.booking = old.batches.map Batch.booking
  lots : new.lots.length ≤ old.lots.length
  state : new.state = old.state ∨ new.state = .waitPower ∨ new.state = .heating

structure LineKeeps (old new : Line) : Prop where
  addr : new.addr = old.addr
  defFn : new.defFn = old.defFn
  strict : new.strict = old.strict
  sanMin : new.sanMin = old.sanMin
  high : new.high = old.high
  low : new.low = old.low
  transitLimit : new.transitLimit = old.transitLimit
  routeTimeout : new.routeTimeout = old.routeTimeout
  booster : new.booster = old.booster
  opRun : new.opRun = old.opRun
  running : new.running = old.running
  rinse : new.rinse = old.rinse
  rinseLow : new.rinseLow = old.rinseLow
  lastEvent : new.lastEvent = old.lastEvent
  transitJudged : new.transitJudged = old.transitJudged
  staged : new.staged = old.staged
  inside : new.inside = old.inside
  operator : new.stops.operator = old.stops.operator
  lockout : new.stops.lockout = old.stops.lockout
  day : old.stops.day = true → new.stops.day = true
  exits : (new.exits.map (·.tag)).Sublist (old.exits.map (·.tag))

structure PowerKeeps (old new : Power) : Prop where
  budget : new.budget = old.budget
  shedHigh : new.shedHigh = old.shedHigh
  shedLow : new.shedLow = old.shedLow
  unresolved : new.unresolved = old.unresolved
  saturate : new.saturate = old.saturate
  nearestEven : new.nearestEven = old.nearestEven
  protected0 : new.protected0 = old.protected0
  protected1 : new.protected1 = old.protected1
  meters : new.meters = old.meters
  length : new.consumers.length = old.consumers.length

structure PagingKeeps (old new : Paging) : Prop where
  settings : new.settings = old.settings
  ageJudged : new.ageJudged = old.ageJudged
  dir : new.dir = old.dir
  dirFull : new.dirFull = old.dirFull
  rates : new.rates = old.rates
  baseFull : new.baseFull = old.baseFull
  length : new.rush.length = old.rush.length

structure NodeKeeps (old new : Node) : Prop where
  type : new.type = old.type
  serial : new.serial = old.serial
  presence : new.presence = old.presence
  misses : new.misses = old.misses
  silence : new.silence = old.silence
  lastResp : new.lastResp = old.lastResp
  loadBase : new.loadBase = old.loadBase
  drawBase : new.drawBase = old.drawBase
  binding : new.binding = old.binding
  fetchAhead : new.fetchAhead = old.fetchAhead
  lastEvent : new.lastEvent = old.lastEvent

/-- A transaction that has ended does not come back, and the guard that runs runs on. -/
structure BusKeeps (old new : Bus) : Prop where
  nodes : ∀ i, NodeKeeps (old.nodes.getD i Node.initial) (new.nodes.getD i Node.initial)
  length : new.nodes.length = old.nodes.length
  discPtr : new.discPtr = old.discPtr
  btx : new.btx = old.btx
  idle : old.inflight = none → new.inflight = none ∧ new.guard = old.guard

/-- A port's record after notices have been offered: the queue has grown at its tail, to 24 at most if it was so. -/
structure PortKeeps (old new : PortRec) : Prop where
  slot : new.slot = old.slot
  unread : new.unread = old.unread
  subs : new.subs = old.subs
  lineOn : new.lineOn = old.lineOn
  perms : new.perms = old.perms
  miso : new.miso = old.miso
  queue : old.queue <+: new.queue
  overflow : old.overflow = true → new.overflow = true
  bound : old.queue.length ≤ 24 → new.queue.length ≤ 24

/-- What stands in `t` as it stood in `s` when the checks and passes that end a step have come between: each field says
what of its record is kept, and `R` what of a cabinet's. A close that completes in them returns the day to OPENING. -/
structure FloorBy (R : Cab → Cab → Prop) (s t : State) : Prop where
  pending : t.pending = s.pending
  hold : t.hold = s.hold
  fire : t.fire = s.fire
  port : ∀ p, PortKeeps (s.port p) (t.port p)
  day : t.day = s.day ∨ s.day.state = .closing ∧ t.day = { s.day with state := .opening, ret := none }
  wares : s.day.state ≠ .closing → t.wares = s.wares
  conserves : Conserves s → Conserves t
  fn : ∀ f, t.fn f = { s.fn f with round := (t.fn f).round }
  course : ∀ c, CourseKeeps (s.course c) (t.course c)
  cab : ∀ k, R (s.cab k) (t.cab k)
  line : ∀ l, LineKeeps (s.line l) (t.line l)
  power : PowerKeeps s.power t.power
  paging : PagingKeeps s.paging t.paging
  bus : BusKeeps s.bus t.bus
  sizes : Sized s → Sized t

/-- Nothing but the checks and passes that end a step has come between. -/
abbrev Floor (s t : State) : Prop := FloorBy CabKeeps s t

/-- A cabinet may have changed its state besides, and is as `CabKeeps` says in everything else. -/
def CabStays (old new : Cab) : Prop := CabKeeps old { new with state := old.state }

/-- As `Floor`, but that cabinets may have changed their states. -/
abbrev Still (s t : State) : Prop := FloorBy CabStays s t

/-- The configured fields of a cabinet slot (R53). -/
structure CabSettings (old new : Cab) : Prop where
  kind : new.kind = old.kind
  addr : new.addr = old.addr
  heat : new.heat = old.heat
  hold : new.hold = old.hold
  standby : new.standby = old.standby
  idle : new.idle = old.idle
  cls : new.cls = old.cls
  capacity : new.capacity = old.capacity
  shelves : new.shelves = old.shelves

/-- And what its node has reported of temperature, element and draw (R67). -/
structure CabConfig (old new : Cab) : Prop where
  kind : new.kind = old.kind
  addr : new.addr = old.addr
  heat : new.heat = old.heat
  hold : new.hold = old.hold
  standby : new.standby = old.standby
  idle : new.idle = old.idle
  cls : new.cls = old.cls
  capacity : new.capacity = old.capacity
  shelves : new.shelves = old.shelves
  temp : new.temp = old.temp
  level : new.level = old.level
  draw : new.draw = old.draw

/-- The configured fields of a line (R79). -/
structure LineConfig (old new : Line) : Prop where
  addr : new.addr = old.addr
  defFn : new.defFn = old.defFn
  strict : new.strict = old.strict
  sanMin : new.sanMin = old.sanMin
  high : new.high = old.high
  low : new.low = old.low
  transitLimit : new.transitLimit = old.transitLimit
  routeTimeout : new.routeTimeout = old.routeTimeout
  booster : new.booster = old.booster

/-- The settings of the power budget unit (R110, R111). -/
structure PowerConfig (old new : Power) : Prop where
  budget : new.budget = old.budget
  shedHigh : new.shedHigh = old.shedHigh
  shedLow : new.shedLow = old.shedLow
  saturate : new.saturate = old.saturate
  nearestEven : new.nearestEven = old.nearestEven
  protected0 : new.protected0 = old.protected0
  protected1 : new.protected1 = old.protected1
  consumers : new.consumers.length = old.consumers.length
  meters : new.meters.length = old.meters.length

/-- The settings of the paging unit (R140). -/
structure PagingConfig (old new : Paging) : Prop where
  settings : new.settings = old.settings
  dir : new.dir.length = old.dir.length
  rush : new.rush.length = old.rush.length
  rates : new.rates.length = old.rates.length

/-- What stands in `t` as it stood in `s` when the blocks behind the service bus, and the course controller, have acted as
one event or one command asks of them, a lockout entry and changes of settings aside: the queue of commands, what the
ports show, the day state unless a close completes, STOCK and dwell, the functions but their round pointers, and every
setting of a cabinet, a line, the power budget unit and the paging unit. -/
structure Ground (s t : State) : Prop where
  pending : t.pending = s.pending
  port : ∀ p, PortKeeps (s.port p) (t.port p)
  day : t.day.state = s.day.state ∨ s.day.state = .closing ∧ t.day.state = .opening
  dayFields : t.day.cause = s.day.cause ∧ t.day.feedcut = s.day.feedcut ∧ t.day.claim = s.day.claim ∧
    t.day.resetLow = s.day.resetLow
  ware : ∀ c, (t.ware c).dwell = (s.ware c).dwell ∧ (t.ware c).stock = (s.ware c).stock
  conserves : Conserves s → Conserves t
  fn : ∀ f, t.fn f = { s.fn f with round := (t.fn f).round }
  cab : ∀ k, CabSettings (s.cab k) (t.cab k)
  line : ∀ l, LineConfig (s.line l) (t.line l)
  power : PowerConfig s.power t.power
  paging : PagingConfig s.paging t.paging
  sizes : Sized s → Sized t

/-- And, where no answer of a node has come in, what the nodes have reported. -/
structure Bedrock (s t : State) : Prop extends Ground s t where
  measured : ∀ k, CabConfig (s.cab k) (t.cab k)
  bus : BusKeeps s.bus t.bus

/-- Every record at its power-on value (R183), with the level of RESET_N; the queue of commands and the count of the free
values taken are the model's own (log 1, log 4). -/
def powered (low : Bool) (s : State) : State :=
  { State.reset with
    pending := s.pending, freeCount := s.freeCount, day := { State.reset.day with resetLow := low } }

/-! ### Effects that several rows share -/

/-- Steps 1 and 2 of a fire (R28, R29): the course has its fire sequence, no planned fire time, and owes all its covers;
the counter has risen, or is exhausted. -/
def fired (c : Nat) (s : State) : State :=
  (s.withFire (if s.fire.next = 65535 then ⟨65535, true⟩ else ⟨s.fire.next + 1, s.fire.exhausted⟩)).setCourse c
    { s.course c with fireSeq := some s.fire.next, fireTime := none, state := .fired, owed := (s.course c).covers, plated := 0 }

/-- A batch joins the tail of an oven's list, whose setpoint becomes the batch's if the list was empty (R27, R47). -/
def booked (k : Nat) (b : Batch) (s : State) : State :=
  let c := s.cab k
  s.setCab k { c with batches := c.batches ++ [b], setpoint := if c.batches = [] then b.setpoint else c.setpoint }

/-- And what follows in the same step: a setpoint that has changed is claimed as a SET and judged at once (R54, R56), and
the batch states follow the oven's run condition (R73). -/
def bookedAndRun (k : Nat) (b : Batch) (s : State) : State :=
  let c := s.cab k
  let v := booked k b s
  let w := if c.batches = [] ∧ c.setpoint ≠ b.setpoint then judgeNow k (claimCab k false v) else v
  w.setCab k (w.cab k).refreshBatches

/-- An oven's record after a fire of the course (R29, R73): its BOOKED batch is WAITING, and cooks where the oven runs. -/
def Cab.started (k : Cab) (c : Nat) : Cab :=
  Cab.refreshBatches { k with
    batches := k.batches.map fun y => if y.course = c ∧ y.state = .booked then { y with state := .waiting } else y }

/-- The shelf and setpoint tests of an oven's list refuse a batch (R27, R47). -/
def clashes (c : Cab) (shelves : Nat) (setpoint : Int) : Prop :=
  c.shelves - total (c.batches.map (·.shelves)) < shelves ∨ ∃ y ∈ c.batches, y.setpoint ≠ setpoint

/-- A course's batch has left its oven's list (R73). -/
def unbooked (c : Nat) (s : State) : State :=
  match (s.course c).batch with
  | none => s
  | some b => s.setCab b.oven { s.cab b.oven with batches := (s.cab b.oven).batches.filter (·.course ≠ c) }

/-- A batch after entry to OFF, FAULT or OFFLINE: WAITING and COOKING are PAUSED (R57, R60, R64); a batch whose last second
has passed is no longer COOKING (log 13). -/
def Batch.paused (b : Batch) : Batch :=
  if b.state = .waiting ∨ b.state = .cooking ∧ b.remaining ≠ 0 then { b with state := .paused } else b

/-- A cabinet's record after entry to OFF (R57). -/
def Cab.asOff (c : Cab) : Cab :=
  { c with
    state := .off, wantMode := .off, sleepT := none, oobT := none, doorT := none, routes := [],
    lots := if c.cls = none then c.lots else [], batches := c.batches.map Batch.paused }

/-- A cabinet's record after entry to OFFLINE (R60, R66, R67). -/
def Cab.asOffline (c : Cab) : Cab :=
  { c with
    state := .offline, wantMode := .off, sleepT := none, oobT := none, doorT := none, routes := [], stale := false,
    lots := c.lots.map fun l => { l with warmFrom := none }, batches := c.batches.map Batch.paused }

/-- A cabinet's record after entry to FAULT (R64): its lots and its door timer stand. -/
def Cab.asFault (c : Cab) : Cab :=
  { c with
    state := .fault, wantedOn := false, wantMode := .off, sleepT := none, routes := [],
    batches := c.batches.map Batch.paused }

/-- A consumer's record after a release (R103). -/
def Consumer.released (x : Consumer) : Consumer := { x with grant := 0, request := 0, mark := false, reqTime := none }

/-- A route of a rack has left its cabinet's list (R70). -/
def unrouted (l tag : Nat) (dest : Option Nat) (s : State) : State :=
  match dest with
  | none => s
  | some k =>
    s.setCab k { s.cab k with routes := (s.cab k).routes.filter fun r => !(decide (r.line = l) && decide (r.tag = tag)) }

/-- A rack's plates have gone from one place to another (R7): no more than the first holds, which in every state with R3's
law is the whole count. -/
def carried (r : Rack) (src dst : Place) (s : State) : State := s.setWare r.cls ((s.ware r.cls).move src dst r.count)

/-- A page has reached an outcome (R137): PAGE_OUTCOME goes to its originating port and to PAGING subscribers, with the
outcome (ACKED 0, UNANSWERED 1, EXPIRED 2, DROPPED 3, CANCELLED 4) and its code, and it leaves the queue. -/
def ended (g : Page) (outcome : Nat) (s : State) : State :=
  let t :=
    match g.origin with
    | .port q => raiseTo q .pageOutcome g.id outcome g.code s
    | .block => raise .pageOutcome g.id outcome g.code s
  t.withPaging { t.paging with pages := t.paging.pages.filter fun q => q.id ≠ g.id }

/-- A QUEUED page has joined the queue's tail under the id that was free, and the pointer stands after it (R125). -/
def created (id : Nat) (tg : Target) (code arg : Nat) (pr : Prio) (o : Origin) (c : Option Nat) (s : State) : State :=
  s.withPaging { s.paging with
    nextId := (id + 1) % 256,
    pages := s.paging.pages ++ [⟨id, tg, code, arg, pr, o, s.day.clock, .queued, false, none, 0, false, c, none⟩] }

/-- The page with an id has become `f` of itself. -/
def paged (id : Nat) (f : Page → Page) (s : State) : State :=
  s.withPaging { s.paging with pages := s.paging.pages.map fun q => if q.id = id then f q else q }

/-- The transaction in flight has its answer: the 1 ms guard runs (R149), and the node is PRESENT with no miss, its block
told if it was SILENT (R145, R151 step 1). -/
def heard (a : Nat) (s : State) : State := answered a (s.withBus { s.bus with inflight := none, guard := .bus })

/-- Steps 4 and 5 of R151 for a POLL: fetch-ahead follows the urgent flag, and the poll timer restarts for the class. -/
def polled (a : Nat) (urgent : Bool) (s : State) : State :=
  restartPoll a (refreshPoll a
    (if urgent then setFetchAhead a s else s.setNode a { s.node a with fetchAhead := false }))

/-! ### Port requests -/

/-- The port on which a command that a request frame carries arrives (R185's table). -/
def requestPort : Instr → Option Port
  | .noticeFetch p _ | .noticeSubscribe p _ _ | .portReset p | .portRead p | .holdBegin p | .holdEnd p
  | .configClaim p | .configRelease p | .permitSet p _ _ | .dayOpen p | .dayClose p | .lockoutClear p
  | .deviceReset p | .dayRead p | .classSet p _ _ | .wareStock p _ _ | .wareAdd p _ _ | .wareMove p _ _ _
  | .wareWriteOff p _ _ _ | .wareReturn p _ _ _ | .wareRead p _ | .functionSet p _ _ _ _ _ | .courseDefine p _ _
  | .courseArm p _ | .courseFire p _ | .courseRebatch p _ _ | .courseCancel p _ | .courseClose p _
  | .courseRead p _ _ _ | .functionRead p _ | .cabinetSet p _ _ _ | .cabinetMode p _ _ _ | .cabinetSetpoint p _ _ _
  | .cabinetRearm p _ | .cabinetRead p _ _ _ | .lineSet p _ _ | .lineMode p _ _ | .rackAnnounce p _ _ _ _ _
  | .rackRelease p _ _ _ | .rackClear p _ _ | .rackRead p _ _ _ | .lineRead p _ | .budgetSet p _ | .powerSet p _
  | .energyLoad p _ _ | .powerRead p _ _ | .energyRead p _ | .energyReadRaw p _ | .pageSend p _ _ _ _ _
  | .pageCancel p _ | .pagingSet p _ | .pageRead p _ _ | .pagerRead p _ _ | .nodeRead p _ _ => some p
  | .powerOn | .resetN | .fetch _ _ | .undefinedCommandCode _ _ | .closeCompletion | .identReply _ _ _ _
  | .cabinetReport _ _ _ | .washerReport _ _ _ | .baseReport _ _ _ | .setAck _ _ | .deliverAck _ _ _
  | .invalidResponse _ | .responseTimeout | .transactionSend | .busGuardEnd | .abandonGuardEnd | .pollTimerExpiry _
  | .discoveryTimerExpiry | .discoveryStep | .silenceTimerExpiry _ | .admission | .settleTimerExpiry
  | .holdTimerExpiry | .confirmTimerExpiry _ | .serviceSecond | .plannedFireTimeReached _ | .cookTimeComplete _
  | .overHoldLimit _ | .lotWarm _ | .outOfBandExpiry _ | .sleepTimerExpiry _ | .doorTimerExpiry _
  | .transitLimit _ _ | .routeTimeout _ _ | .presenceAgeExpiry | .rushTimerEnd _ | .rateWindowClose _
  | .resendTimerExpiry _ | .pageLifetimeExpiry _ | .handOff | .resetNRelease => none

/-- The permission class of a command, as the bit of the permission set; none is READ (R164, R165 and the command
tables of the chapters). -/
def permission : Instr → Option Nat
  | .configClaim _ | .configRelease _ | .permitSet _ _ _ | .dayOpen _ | .dayClose _ | .lockoutClear _
  | .deviceReset _ | .classSet _ _ _ | .functionSet _ _ _ _ _ _ | .cabinetSet _ _ _ _ | .lineSet _ _ _
  | .pagingSet _ _ => some 0
  | .wareStock _ _ _ | .wareAdd _ _ _ | .wareMove _ _ _ _ | .wareWriteOff _ _ _ _ => some 1
  | .courseDefine _ _ _ | .courseArm _ _ | .courseFire _ _ | .courseRebatch _ _ _ | .courseCancel _ _
  | .courseClose _ _ | .cabinetMode _ _ _ _ | .cabinetSetpoint _ _ _ _ | .cabinetRearm _ _ => some 2
  | .wareReturn _ _ _ _ | .lineMode _ _ _ | .rackAnnounce _ _ _ _ _ _ | .rackRelease _ _ _ _ | .rackClear _ _ _ => some 3
  | .pageSend _ _ _ _ _ _ | .pageCancel _ _ => some 4
  | .budgetSet _ _ | .powerSet _ _ | .energyLoad _ _ _ => some 5
  | _ => none

/-- The reads of R164: every command named *_READ, NOTICE_FETCH and NOTICE_SUBSCRIBE. -/
def isRead : Instr → Bool
  | .noticeFetch _ _ | .noticeSubscribe _ _ _ | .portRead _ | .dayRead _ | .wareRead _ _ | .courseRead _ _ _ _
  | .functionRead _ _ | .cabinetRead _ _ _ _ | .rackRead _ _ _ _ | .lineRead _ _ | .powerRead _ _ _
  | .energyRead _ _ | .energyReadRaw _ _ | .pageRead _ _ _ | .pagerRead _ _ _ | .nodeRead _ _ _ => true
  | _ => false

/-- The changing commands that LOCKOUT lets through (R164, check 4). -/
def passesLockout : Instr → Bool
  | .lockoutClear _ | .portReset _ | .pageSend _ _ _ _ _ _ | .pageCancel _ _ | .holdEnd _ => true
  | _ => false

/-- HOLD_BEGIN and HOLD_END: check 5 does not apply to them, and they are not counted (R164, R168). -/
def isHoldCommand : Instr → Bool
  | .holdBegin _ | .holdEnd _ => true
  | _ => false

/-- CONFIG_CLAIM and CONFIG_RELEASE need no claim (R164, check 6). -/
def isClaimCommand : Instr → Bool
  | .configClaim _ | .configRelease _ => true
  | _ => false

/-- Checks 3 to 6 of R164: the status of the first that refuses. -/
def commonRefusal (i : Instr) (p : Port) (s : State) : Option Status :=
  if (permission i).all (s.port p).perms.testBit = false then some .denied
  else if s.day.state = .lockout ∧ isRead i = false ∧ passesLockout i = false then some .lockedOut
  else if isRead i = false ∧ isHoldCommand i = false ∧ s.hold.owner ≠ none ∧ s.hold.owner ≠ some p then some .held
  else if s.day.state = .opening ∧ permission i = some 0 ∧ isClaimCommand i = false ∧ s.day.claim ≠ some p then
    some .claimed
  else none

/-- The part is out of reset and the port's reply slot is empty: the port takes a request (R162, R183). -/
def Ready (p : Port) (s : State) : Prop := s.day.resetLow = false ∧ (s.port p).slot = none

/-- The command is taken at its port and passes the common checks: its own rule decides what follows. -/
def Admitted (i : Instr) (p : Port) (s : State) : Prop := Ready p s ∧ commonRefusal i p s = none

/-- The state a command finds: the hold count has risen by 1 if the command is counted (R168). -/
def before (i : Instr) (p : Port) (s : State) : State :=
  if isRead i = false ∧ isHoldCommand i = false ∧ s.hold.owner = some p then
    s.withHold { s.hold with count := s.hold.count + 1 }
  else s

/-- The state after the answer: the hold ends after its fourth counted command, with HOLD_ENDED COUNT to its port
(R168, R169), the reply stands in the slot (R162), and MISO carried the status bytes (R161; of these bytes log 3). `t` is
the state that the command's own effect has left. That the subject of HOLD_ENDED is the port's code is log 26. -/
def after (i : Instr) (p : Port) (s : State) (r : Reply) (t : State) : State :=
  let u :=
    if isRead i = false ∧ isHoldCommand i = false ∧ s.hold.owner = some p ∧ t.hold.owner = some p ∧ 4 ≤ t.hold.count then
      (raiseTo p .holdEnded p.code 1 t.hold.count t).withHold { owner := none, count := 0, start := none }
    else t
  u.setPort p { u.port p with slot := some r, miso := [s.statusByte p, s.dayByte p] }

/-- The command answers OK with `data`, leaving `effect` of the state it found. -/
def Executes (i : Instr) (p : Port) (s : State) (data : List Byte) (effect : State) : Prop :=
  exec i s = .next (after i p s ⟨.ok, data⟩ effect)

/-- The command is refused with `st`: no record changes but the hold count (R164), and the reply carries no data. -/
def RefusedWith (i : Instr) (p : Port) (s : State) (st : Status) : Prop :=
  exec i s = .next (after i p s ⟨st, []⟩ (before i p s))

end Sys2Proof.Machine
end

