-- ==== Sys2Proof/Certificates/Slice0/Obligations.lean ====
section
/-! DEFINITION. What the part does, rule by rule, stated for the provers. A port command is spoken of through `Executes`
and `RefusedWith` (Safety.lean): `Executes i p s data u` says that the step answers a next state, the one that the
command's effect `u` leaves once the reply OK with `data` stands in the port's slot, and so says what every other record
is. Where the checks and passes that end a step follow the command's own effect, `Floor` and `Ground` say what they leave
as it was. -/

open Sys2Proof Sys2Proof.Machine

/-! ### The step -/

/-- The command at the front of the queue is taken, and its meaning runs on the rest of the queue (00: each row of the
table is one whole step). The model's choice (log 5): with no command waiting, a step only lets a millisecond pass, and
none while RESET_N is held low. -/
def Obligations.StepRunsFrontCommand : Prop :=
  (∀ (c : Instr) (rest : List Instr) (s : State), s.pending = c :: rest → step s = exec c (s.withPending rest)) ∧
    ∀ s : State, s.pending = [] →
      step s = .next (if s.day.resetLow = true then s else s.withDay { s.day with ms := s.day.ms + 1 })

/-! ### Reset (R183 and the reset values of the records' rules) -/

/-- The records at power-on: only the values that the rules state; and the laws of Safety.lean hold there (R2, R3,
R70, R80, R96, R110, R167, R171, R176). -/
def Obligations.PowerOnValues : Prop :=
  let s := State.reset
  s.pending = [] ∧
    (∀ p, (s.port p).slot = none ∧ (s.port p).unread = false ∧ (s.port p).queue = [] ∧ (s.port p).overflow = false ∧
      (s.port p).subs = 0b1111111 ∧ (s.port p).lineOn = true ∧ (s.port p).perms = 0b111111) ∧
    s.hold = ⟨none, 0, none⟩ ∧
    s.day.state = .opening ∧ s.day.ret = none ∧ s.day.cause = none ∧ s.day.clock = 0 ∧ s.day.feedcut = false ∧
    s.day.claim = none ∧ s.day.confirm = List.replicate 24 none ∧
    s.wares = List.replicate 8 ⟨0, 0, 0, 0, 0, 0, 0, 0, 0⟩ ∧
    s.fns = ⟨true, 0xFFFFFF, 0, .fill, 23⟩ :: List.replicate 7 ⟨false, 0, 0, .fill, 23⟩ ∧
    (s.courses.length = 32 ∧ ∀ c ∈ s.courses, c.state = .empty ∧ c.covers = 0 ∧ c.owed = 0 ∧ c.plated = 0 ∧
      c.returned = 0 ∧ c.batch = none ∧ c.fireTime = none ∧ c.ovenFault = false ∧ c.shortPaged = false ∧
      c.overHoldPaged = false) ∧
    s.fire = ⟨0, false⟩ ∧ s.earmarks = [] ∧
    (s.cabs.length = 24 ∧ ∀ k ∈ s.cabs, k.kind = .empty ∧ k.state = .offline ∧ k.wantedOn = false ∧ k.addr = none ∧
      k.setpoint = 0 ∧ k.band = 0 ∧ k.heat = 0 ∧ k.hold = 0 ∧ k.standby = 0 ∧ k.idle = 900 ∧ k.temp = 0 ∧ k.draw = 0 ∧
      k.latched = false ∧ k.lots = [] ∧ k.routes = [] ∧ k.batches = [] ∧ k.sleepT = none ∧ k.oobT = none ∧
      k.doorT = none) ∧
    (s.lines.length = 2 ∧ ∀ l ∈ s.lines, l.addr = none ∧ l.defFn = 0 ∧ l.strict = false ∧ l.sanMin = 82 ∧ l.high = 5 ∧
      l.low = 2 ∧ l.transitLimit = 600 ∧ l.routeTimeout = 300 ∧ l.booster = 0 ∧ l.opRun = false ∧
      l.stops = ⟨true, false, false, false, true⟩ ∧ l.wantedRun = false ∧ l.running = false ∧ l.rinse = 0 ∧
      l.rinseLow = false ∧ l.lastEvent = none ∧ l.staged = [] ∧ l.inside = [] ∧ l.exits = []) ∧
    s.power.consumers = List.replicate 26 ⟨0, 0, false, none, 0, none⟩ ∧ s.power.budget = 0 ∧ s.power.shedHigh = 0 ∧
    s.power.shedLow = 0 ∧ s.power.settle = none ∧ s.power.unresolved = false ∧ s.power.saturate = true ∧
    s.power.nearestEven = false ∧ s.power.protected0 = true ∧ s.power.protected1 = true ∧
    s.power.meters = List.replicate 34 ⟨0, false⟩ ∧
    s.paging.dir = List.replicate 64 none ∧ s.paging.dirFull = false ∧ s.paging.pages = [] ∧ s.paging.nextId = 0 ∧
    s.paging.rush = List.replicate 14 none ∧ s.paging.rates = List.replicate 14 ⟨0, none⟩ ∧ s.paging.anti = 0 ∧
    s.paging.baseFull = false ∧ s.paging.settings = ⟨none, 0, 0, some 120, 8, 8, 180⟩ ∧
    (s.bus.nodes.length = 31 ∧ ∀ n ∈ s.bus.nodes, n.type = none ∧ n.presence = .unknown ∧ n.misses = 0 ∧
      n.silence = none ∧ n.lastResp = none ∧ n.loadBase = none ∧ n.drawBase = none ∧ n.binding = .unbound ∧
      n.pollEnd = none ∧ n.fetchAhead = false ∧ n.wanted = .nothing ∧ n.wantedUrgent = false ∧ n.lastEvent = none) ∧
    s.bus.urgent = [] ∧ s.bus.fetch = [] ∧ s.bus.ordinary = [] ∧ s.bus.inflight = none ∧ s.bus.guard = .abandon ∧
    s.bus.discPtr = 1 ∧ s.bus.discTimer = none ∧
    Conserves s ∧ PlatedLaw s ∧ RackLaw s ∧ LotLaw s ∧ PowerStops s ∧ GrantLaw s ∧ HoldLaw s ∧ LockoutLaw s ∧
    QueuesBounded s ∧ Sized s

/-- POWER_ON, RESET_N and its release, and DEVICE_RESET return every record to its power-on value (R183); the queue of
commands, the free-value counter and the level of RESET_N are the model's own and the input's (log 1, log 4). While
RESET_N is held low the part stays in reset: nothing but POWER_ON, RESET_N and RESET_N_RELEASE acts (R183; the rows that
arrive are discarded, log 4). -/
def Obligations.ResetsReturnEveryRecord : Prop :=
  ((∀ s : State,
     exec .powerOn s = .next (powered s.day.resetLow s) ∧ exec .resetN s = .next (powered true s) ∧
       (s.day.resetLow = true → exec .resetNRelease s = .next (powered false s)) ∧
       (s.day.resetLow = false → exec .resetNRelease s = .next s)) ∧
     ∀ (p : Port) (s : State), Admitted (.deviceReset p) p s → s.day.state ≠ .lockout →
       Executes (.deviceReset p) p s [] (powered false s)) ∧
    ∀ (i : Instr) (s : State), s.day.resetLow = true → i ≠ .powerOn → i ≠ .resetN → i ≠ .resetNRelease →
      exec i s = .next s

/-! ### Port transactions (R161–R164) -/

/-- FETCH (R163): the reply's bytes and then filler 0xFF follow the two status bytes; the slot empties when the last
byte of the reply has been clocked out, and a shorter fetch leaves it. A transaction by its bytes (R162): one byte or
none is a status transaction, the FETCH code is a fetch, anything else finds the slot full and is dropped, or is a
request frame refused with FRAME (its length byte above 40, its count of bytes wrong, or its sum not 0). MISO carries
the status and day bytes first (R161). That the port's record keeps both of them where only one byte or none was
clocked, and only these two of a request dropped or refused, is the model's choice (log 3). -/
def Obligations.TransactionsByTheirBytes : Prop :=
  (∀ (p : Port) (n : Nat) (s : State), s.day.resetLow = false →
     let r := s.port p
     let st := [s.statusByte p, s.dayByte p]
     (r.slot = none → exec (.fetch p n) s = .next (s.setPort p { r with miso := st ++ List.replicate n 0xFF#8 })) ∧
       ∀ x : Reply, r.slot = some x →
         (x.frame).length = x.data.length + 3 ∧ byteSum x.frame = 0 ∧
           (n < x.frame.length →
             exec (.fetch p n) s = .next (s.setPort p { r with miso := st ++ x.frame.take n })) ∧
           (x.frame.length ≤ n →
             exec (.fetch p n) s = .next (s.setPort p { r with
               slot := none, unread := false,
               miso := st ++ x.frame ++ List.replicate (n - x.frame.length) 0xFF#8 }))) ∧
    ∀ (p : Port) (l : List Byte) (s : State), s.day.resetLow = false →
      let r := s.port p
      let st := [s.statusByte p, s.dayByte p]
      let i := Instr.undefinedCommandCode p l
      (l.length ≤ 1 → exec i s = .next (s.setPort p { r with miso := st })) ∧
        (2 ≤ l.length → l.head? = some 0x01#8 → exec i s = exec (.fetch p (l.length - 2)) s) ∧
        (2 ≤ l.length → l.head? ≠ some 0x01#8 → r.slot ≠ none →
          exec i s = .next (s.setPort p { r with unread := true, miso := st })) ∧
        (2 ≤ l.length → l.head? ≠ some 0x01#8 → r.slot = none →
          40 < byteAt l 1 ∨ l.length ≠ byteAt l 1 + 3 ∨ byteSum l ≠ 0 →
          exec i s = .next (s.setPort p { r with slot := some ⟨.frame, []⟩, miso := st }))

/-- A frame that passes the frame checks and whose code is no defined code is refused with UNKNOWN (R164, check 1). One
whose code is defined and whose arguments have not the length of the form that the leading arguments select is refused
with FRAME, before any check of permission, lockout, hold or claim (R164, check 2; R185's lengths). The bytes of a
well-formed command's request frame run that command (R162). A request sent while the slot holds a reply is not
executed, not checked and not answered: UNREAD_REFUSED is set (R162). -/
def Obligations.RequestBytesAreTaken : Prop :=
  (∀ (p : Port) (code : Nat) (args : List Byte) (s : State), Ready p s → code < 256 → args.length ≤ 40 →
     let refused := fun (st : Status) =>
       exec (.undefinedCommandCode p (requestFrame code args)) s =
         .next (s.setPort p { s.port p with slot := some ⟨st, []⟩, miso := [s.statusByte p, s.dayByte p] })
     let b := byteAt args
     let single : List (Nat × Nat) :=
       [(0x02, 1), (0x03, 2), (0x04, 0), (0x05, 0), (0x06, 0), (0x07, 0), (0x08, 0), (0x09, 0), (0x0A, 2), (0x10, 0),
        (0x11, 0), (0x12, 0), (0x13, 0), (0x14, 0), (0x20, 3), (0x21, 3), (0x22, 3), (0x23, 4), (0x24, 4), (0x25, 4),
        (0x26, 1), (0x30, 7), (0x32, 1), (0x33, 1), (0x34, 2), (0x35, 1), (0x36, 1), (0x38, 1), (0x41, 3), (0x42, 4),
        (0x43, 1), (0x50, 14), (0x51, 2), (0x53, 4), (0x54, 3), (0x55, 4), (0x56, 1), (0x60, 2), (0x61, 8), (0x62, 5),
        (0x64, 1), (0x65, 1), (0x70, 6), (0x71, 1), (0x72, 8), (0x73, 2), (0x74, 2)]
     let several : List (Nat × List Nat) :=
       [(0x31, [8, 12, 16, 20]), (0x37, [2, 3]), (0x40, [2, 13, 17]), (0x44, [2, 3]), (0x52, [6, 7]), (0x63, [1, 2]),
        (0x80, [1, 2])]
     let selected : List (Nat × Bool × Nat) :=
       [(0x31, b 5 == 0 && b 7 == 0, 8), (0x31, b 5 == 0 && b 7 == 1, 12), (0x31, b 5 == 1 && b 15 == 0, 16),
        (0x31, b 5 == 1 && b 15 == 1, 20), (0x37, b 1 == 0, 2), (0x37, b 1 == 1, 3), (0x40, b 1 == 0, 2),
        (0x40, b 1 == 1, 13), (0x40, b 1 == 2, 17), (0x44, b 1 == 0, 2), (0x44, b 1 == 1 || b 1 == 2 || b 1 == 3, 3),
        (0x52, b 5 == 0, 6), (0x52, b 5 == 1, 7), (0x63, b 0 == 0, 1), (0x63, b 0 == 1 || b 0 == 2, 2), (0x80, b 0 == 1, 1),
        (0x80, b 0 == 0, 2)]
     (code ≠ 0x01 → (∀ x ∈ single, code ≠ x.1) → (∀ x ∈ several, code ≠ x.1) → refused .unknown) ∧
       (∀ x ∈ single, code = x.1 → args.length ≠ x.2 → refused .frame) ∧
       (∀ x ∈ several, code = x.1 → args.length ∉ x.2 → refused .frame) ∧
       ∀ x ∈ selected, code = x.1 → x.2.1 = true → args.length ≠ x.2.2 → refused .frame) ∧
  (∀ (i : Instr) (p : Port) (code : Nat) (args : List Byte) (s : State), i.wf = true → requestPort i = some p →
     i.request = some (code, args) → exec (.undefinedCommandCode p (requestFrame code args)) s = exec i s) ∧
    ∀ (i : Instr) (p : Port) (s : State), requestPort i = some p → s.day.resetLow = false → (s.port p).slot ≠ none →
      exec i s = .next (s.setPort p { s.port p with unread := true, miso := [s.statusByte p, s.dayByte p] })

/-- The request frame of a well-formed command reads back as that command at its port, with every operand (R162, R185).
-/
def Obligations.RequestFramesReadBack : Prop :=
  ∀ (i : Instr) (p : Port) (code : Nat) (args : List Byte), i.wf = true → requestPort i = some p →
    i.request = some (code, args) → parseRequest p (requestFrame code args) = .command i

/-- The common checks in their order (R164, checks 3 to 6): DENIED, LOCKED_OUT, HELD, CLAIMED; the command changes no
record but the hold count, and its reply carries no data. Each changing command of the holding port but HOLD_BEGIN and
HOLD_END raises the hold count by 1, whatever status it receives, and the fourth ends the hold with HOLD_ENDED COUNT to
that port (R168, R169); here for the commands that a common check refuses. (That the subject of HOLD_ENDED is the port's
code is log 26.) -/
def Obligations.CommonChecksRefuseInOrder : Prop :=
  (∀ (i : Instr) (p : Port) (s : State), requestPort i = some p → Ready p s →
     let denied := ∃ b, permission i = some b ∧ (s.port p).perms.testBit b = false
     let locked := s.day.state = .lockout ∧ isRead i = false ∧ passesLockout i = false
     let held := isRead i = false ∧ isHoldCommand i = false ∧ s.hold.owner ≠ none ∧ s.hold.owner ≠ some p
     let claimed := s.day.state = .opening ∧ permission i = some 0 ∧ isClaimCommand i = false ∧ s.day.claim ≠ some p
     (denied → RefusedWith i p s .denied) ∧ (¬denied → locked → RefusedWith i p s .lockedOut) ∧
       (¬denied → ¬locked → held → RefusedWith i p s .held) ∧
       (¬denied → ¬locked → ¬held → claimed → RefusedWith i p s .claimed) ∧
       (Admitted i p s ↔ ¬denied ∧ ¬locked ∧ ¬held ∧ ¬claimed)) ∧
    ∀ (i : Instr) (p : Port) (s : State) (st : Status), requestPort i = some p → Ready p s → isRead i = false →
      isHoldCommand i = false → s.hold.owner = some p → commonRefusal i p s = some st →
      ∃ t, exec i s = .next t ∧ (t.port p).slot = some ⟨st, []⟩ ∧
        (s.hold.count + 1 < 4 → t.hold = ⟨some p, s.hold.count + 1, s.hold.start⟩) ∧
        (4 ≤ s.hold.count + 1 → t.hold = ⟨none, 0, none⟩ ∧
          (t.port p).queue =
            ((s.port p).offer ⟨.holdEnded, p.code, 1, s.hold.count + 1, s.day.clock⟩).queue)

/-! ### Holds, claims, permissions (R165–R169) -/

/-- HOLD_BEGIN (R167): taken by the port when no port holds, refused with HELD while another holds and with BAD_STATE
while this port holds. HOLD_END (R169): the owner's ends the hold, with HOLD_ENDED END and the count to the port; with
no hold it is refused with BAD_STATE, and while another port holds with HELD; it is taken in every day state. The hold
timer's expiry (R169): the hold ends and HOLD_EXPIRED with the count goes to the holding port alone. (The subject of
these notices, the port's code, is log 26; the two bytes of HOLD_BEGIN's reply are log 25; the millisecond count is log
5.) -/
def Obligations.HoldsBeginAndEnd : Prop :=
  (∀ (p : Port) (s : State), Ready p s → s.day.state ≠ .lockout →
     (s.hold.owner = none →
       Executes (.holdBegin p) p s (be8 4 ++ be8 50) (s.withHold ⟨some p, 0, some s.day.ms⟩)) ∧
       (∀ q, s.hold.owner = some q → q ≠ p → RefusedWith (.holdBegin p) p s .held) ∧
       (s.hold.owner = some p → RefusedWith (.holdBegin p) p s .badState)) ∧
  (∀ (p : Port) (s : State), Ready p s →
     (s.hold.owner = some p →
       Executes (.holdEnd p) p s (be8 s.hold.count)
         ((raiseTo p .holdEnded p.code 0 s.hold.count s).withHold ⟨none, 0, none⟩)) ∧
       (s.hold.owner = none → RefusedWith (.holdEnd p) p s .badState) ∧
       (∀ q, s.hold.owner = some q → q ≠ p → RefusedWith (.holdEnd p) p s .held)) ∧
    ∀ (p : Port) (b : Nat) (s : State), s.day.resetLow = false → s.hold.owner = some p → s.hold.start = some b →
      ∃ m, exec .holdTimerExpiry s =
        .next (((raiseTo p .holdExpired p.code s.hold.count s.hold.count s).withHold ⟨none, 0, none⟩).withDay
          { s.day with ms := m })

/-- CONFIG_CLAIM and CONFIG_RELEASE (R166): in OPENING the claim is taken or kept, released or left, and refused with
CLAIMED while another port has it; in SERVICE and CLOSING both are refused with BAD_STATE. -/
def Obligations.ConfigClaimTable : Prop :=
  ∀ (p : Port) (s : State),
    (Admitted (.configClaim p) p s →
      (s.day.state = .opening → s.day.claim = none ∨ s.day.claim = some p →
        Executes (.configClaim p) p s [] ((before (.configClaim p) p s).withDay { s.day with claim := some p })) ∧
      (∀ q, s.day.state = .opening → s.day.claim = some q → q ≠ p → RefusedWith (.configClaim p) p s .claimed) ∧
      (s.day.state = .service ∨ s.day.state = .closing → RefusedWith (.configClaim p) p s .badState)) ∧
    (Admitted (.configRelease p) p s →
      (s.day.state = .opening → s.day.claim = none ∨ s.day.claim = some p →
        Executes (.configRelease p) p s [] ((before (.configRelease p) p s).withDay { s.day with claim := none })) ∧
      (∀ q, s.day.state = .opening → s.day.claim = some q → q ≠ p → RefusedWith (.configRelease p) p s .claimed) ∧
      (s.day.state = .service ∨ s.day.state = .closing → RefusedWith (.configRelease p) p s .badState))

/-- PERMIT_SET (R165) in OPENING: the set of the port named is written, and a claim it holds is released, with
CLAIM_RELEASED to it, when it loses CONFIG; a port value that names no port, and a set that would leave no port CONFIG,
are refused with RANGE, and SERVICE and CLOSING with BAD_STATE. The notice's details are free values (log 1): nothing is
said of them; that its subject is the port's code is log 26. -/
def Obligations.PermitSetWritesSet : Prop :=
  ∀ (p q : Port) (set : Nat) (s : State), Admitted (.permitSet p q.code set) p s →
    let i := Instr.permitSet p q.code set
    let u := before i p s
    let v := u.setPort q { u.port q with perms := set }
    let kept := set.testBit 0 = true ∨ ∃ r, r ≠ q ∧ (s.port r).perms.testBit 0 = true
    (s.day.state = .opening → set < 64 → kept →
      (¬(s.day.claim = some q ∧ set.testBit 0 = false) → Executes i p s (be8 set) v) ∧
        (s.day.claim = some q → set.testBit 0 = false →
          ∃ d1 d2 n : Nat, Executes i p s (be8 set)
            (raiseTo q .claimReleased q.code d1 d2 ((v.withDay { s.day with claim := none }).withFreeCount n)))) ∧
      (s.day.state = .service ∨ s.day.state = .closing → set < 64 → kept → RefusedWith i p s .badState) ∧
      (s.day.state = .opening → 64 ≤ set ∨ ¬kept → RefusedWith i p s .range) ∧
      (s.day.state = .opening → ∀ c, 3 ≤ c → RefusedWith (.permitSet p c set) p s .range)

/-! ### Notices and the port records (R171–R175) -/

/-- NOTICE_FETCH (R172): up to the count asked for, oldest first, leave the queue and stand in the reply with the
overflow flag as it was and the number left; the flag is cleared; a count other than 1 to 3 is refused with RANGE; it is
taken in every day state and while another port holds. -/
def Obligations.NoticeFetchTakesOldest : Prop :=
  ∀ (p : Port) (n : Nat) (s : State), Ready p s →
    let r := s.port p
    (1 ≤ n → n ≤ 3 →
      Executes (.noticeFetch p n) p s
        (beFlag r.overflow ++ be8 (r.queue.take n).length ++ be8 (r.queue.length - n) ++
          ((r.queue.take n).map fun x =>
            be8 x.kind.code ++ be8 x.kind.category.code ++ be8 x.subject ++ be16 x.detail1 ++ be16 x.detail2 ++
              be32 x.time).flatten)
        (s.setPort p { r with queue := r.queue.drop n, overflow := false })) ∧
      (n = 0 ∨ 3 < n → RefusedWith (.noticeFetch p n) p s .range)

/-- NOTICE_SUBSCRIBE (R173): the subscription set and the line enable (ON 0, OFF 1) are written, the queue stays, and
NOTE_N follows the enable, the queue and the overflow flag; other values are refused with RANGE. PORT_RESET (R174): the
port's own hold ends without a notice, its queue and overflow flag are cleared, its subscription is full again and its
line enabled; permission set, claim and every other record stay; in every day state, unless another port holds.
PORT_READ (R175) changes nothing and carries the port's own records, the claim's holder, and the arbiter's. -/
def Obligations.PortCommandsActOnOwnRecord : Prop :=
  (∀ (p : Port) (set enable : Nat) (s : State), Ready p s →
     let i := Instr.noticeSubscribe p set enable
     (set < 128 → enable < 2 →
       ∃ t, Executes i p s [] t ∧ t = s.setPort p { s.port p with subs := set, lineOn := decide (enable = 0) } ∧
         (t.noteAsserted p = true ↔ enable = 0 ∧ ((s.port p).queue ≠ [] ∨ (s.port p).overflow = true))) ∧
       (128 ≤ set ∨ 2 ≤ enable → RefusedWith i p s .range)) ∧
  (∀ (p : Port) (s : State), Ready p s →
     (s.hold.owner = some p →
       exec (.portReset p) s = .next ((s.withHold ⟨none, 0, none⟩).setPort p { s.port p with
         queue := [], overflow := false, subs := 127, lineOn := true, slot := some ⟨.ok, []⟩,
         miso := [s.statusByte p, s.dayByte p] })) ∧
       (s.hold.owner = none →
         exec (.portReset p) s = .next (s.setPort p { s.port p with
           queue := [], overflow := false, subs := 127, lineOn := true, slot := some ⟨.ok, []⟩,
           miso := [s.statusByte p, s.dayByte p] })) ∧
       (∀ q, s.hold.owner = some q → q ≠ p → RefusedWith (.portReset p) p s .held)) ∧
    ∀ (p : Port) (s : State), Ready p s →
      let r := s.port p
      Executes (.portRead p) p s
        (be8 r.perms ++ be8 r.subs ++ be8 (if r.lineOn then 0 else 1) ++ be8 r.queue.length ++ beFlag r.overflow ++
          beOpt8 (s.day.claim.map Port.code) ++ beOpt8 (s.hold.owner.map Port.code) ++ be8 s.hold.count ++
          beOpt8 (s.hold.start.map fun t => t + 50 - s.day.ms)) s

/-! ### The ware account (R15–R21) -/

/-- CLASS_SET (R15) writes the class's dwell, and WARE_STOCK (R16) sets STOCK and CLEAN to the count and every other
count to 0, its dwell standing; both in OPENING alone, WARE_STOCK only while no rack, lot or course of the class is in
use. -/
def Obligations.WareSettingsWritten : Prop :=
  ∀ (p : Port) (cls x : Nat) (s : State),
    (Admitted (.classSet p cls x) p s →
      let i := Instr.classSet p cls x
      let u := before i p s
      (cls < 8 → x ≤ 7200 → s.day.state = .opening →
        Executes i p s [] (u.setWare cls { u.ware cls with dwell := x })) ∧
        (8 ≤ cls ∨ 7200 < x → RefusedWith i p s .range) ∧
        (cls < 8 → x ≤ 7200 → s.day.state = .service ∨ s.day.state = .closing → RefusedWith i p s .badState)) ∧
    (Admitted (.wareStock p cls x) p s →
      let i := Instr.wareStock p cls x
      let u := before i p s
      let inUse := (∃ l ∈ s.lines, ∃ r ∈ l.staged ++ l.inside ++ l.exits, r.cls = cls) ∨
        (∃ k ∈ s.cabs, k.kind = .warmer ∧ k.cls = some cls ∧ k.lots ≠ []) ∨
        (∃ c ∈ s.courses, c.state ≠ .empty ∧ c.cls = cls)
      (cls < 8 → x ≤ 30000 → s.day.state = .opening → ¬inUse →
        Executes i p s []
          (u.setWare cls { Ware.initial with dwell := (u.ware cls).dwell, stock := x, clean := x })) ∧
        (8 ≤ cls ∨ 30000 < x → RefusedWith i p s .range) ∧
        (cls < 8 → x ≤ 30000 → s.day.state = .service ∨ s.day.state = .closing ∨ inUse → RefusedWith i p s .badState))

/-- WARE_ADD (R17): STOCK and CLEAN rise by the count and the reply carries the new STOCK; RANGE for a class above 7, a
count outside 1 to 30000, and a STOCK that would pass 30000. WARE_MOVE (R18), TO_CLEAN 0 and TO_SOILED 1: SHORT when
SOILED, or uncommitted clean, is below the count; the reply carries the new SOILED and CLEAN. WARE_WRITE_OFF (R20),
SOILED 0, CLEAN 1, HOUSE_PLATED 2: STOCK falls with its source, and the reply carries the new STOCK; SHORT when the
source holds fewer, uncommitted clean for CLEAN. (Of house plated it is said where PLATED holds what house plated
counts, as R3's law has it: PlacesAreAccounted.) -/
def Obligations.WareCountsChange : Prop :=
  (∀ (p : Port) (cls n : Nat) (s : State), Admitted (.wareAdd p cls n) p s →
     let i := Instr.wareAdd p cls n
     let u := before i p s
     let w := u.ware cls
     let good := cls < 8 ∧ 1 ≤ n ∧ n ≤ 30000 ∧ w.stock + n ≤ 30000
     (cls < s.wares.length → good →
       Executes i p s (be16 (w.stock + n)) (u.setWare cls { w with stock := w.stock + n, clean := w.clean + n })) ∧
       (¬good → RefusedWith i p s .range)) ∧
  (∀ (p : Port) (cls dir n : Nat) (s : State), Admitted (.wareMove p cls dir n) p s →
     let i := Instr.wareMove p cls dir n
     let u := before i p s
     let w := u.ware cls
     let good := cls < 8 ∧ dir < 2 ∧ 1 ≤ n ∧ n ≤ 30000
     (good → cls < s.wares.length → dir = 0 → n ≤ w.soiled →
       Executes i p s (be16 (w.soiled - n) ++ be16 (w.clean + n))
         (u.setWare cls { w with soiled := w.soiled - n, clean := w.clean + n })) ∧
       (good → cls < s.wares.length → dir = 1 → n ≤ w.clean - u.committed cls →
         Executes i p s (be16 (w.soiled + n) ++ be16 (w.clean - n))
           (u.setWare cls { w with soiled := w.soiled + n, clean := w.clean - n })) ∧
       (good → dir = 0 ∧ w.soiled < n ∨ dir = 1 ∧ w.clean - u.committed cls < n → RefusedWith i p s .short) ∧
       (¬good → RefusedWith i p s .range)) ∧
    ∀ (p : Port) (cls source n : Nat) (s : State), Admitted (.wareWriteOff p cls source n) p s →
      let i := Instr.wareWriteOff p cls source n
      let u := before i p s
      let w := u.ware cls
      let good := cls < 8 ∧ source < 3 ∧ 1 ≤ n ∧ n ≤ 30000
      let limit := if source = 0 then w.soiled else if source = 1 then w.clean - u.committed cls else w.house
      (good → cls < s.wares.length → n ≤ limit → (source = 2 → w.house ≤ w.plated) →
        Executes i p s (be16 (w.stock - n))
          (u.setWare cls
            (if source = 0 then { w with stock := w.stock - n, soiled := w.soiled - n }
             else if source = 1 then { w with stock := w.stock - n, clean := w.clean - n }
             else { w with stock := w.stock - n, plated := w.plated - n, house := w.house - n }))) ∧
        (good → limit < n → RefusedWith i p s .short) ∧ (¬good → RefusedWith i p s .range)

/-- WARE_RETURN (R19), COURSE 0 and HOUSE 1: the plates leave PLATED for SOILED, and the course's returned rises or
house plated falls; NOT_FOUND for an EMPTY course, SHORT above what is outstanding; the reply carries what is still
outstanding. (PLATED holds the count in every state with R3's law; in any other no more than it holds is moved.) -/
def Obligations.WareReturnTakesPlatesBack : Prop :=
  ∀ (p : Port) (x n : Nat) (s : State),
    (Admitted (.wareReturn p 0 x n) p s →
      let i := Instr.wareReturn p 0 x n
      let u := before i p s
      let c := u.course x
      let w := u.ware c.cls
      let good := x < 32 ∧ 1 ≤ n ∧ n ≤ 3000
      (good → x < s.courses.length → c.state ≠ .empty → n ≤ c.plated - c.returned →
        Executes i p s (be16 (c.plated - (c.returned + n)))
          ((u.setWare c.cls { w with soiled := w.soiled + min n w.plated, plated := w.plated - n }).setCourse x
            { c with returned := c.returned + n })) ∧
        (good → c.state = .empty → RefusedWith i p s .notFound) ∧
        (good → c.state ≠ .empty → c.plated - c.returned < n → RefusedWith i p s .short) ∧
        (¬good → RefusedWith i p s .range)) ∧
    (Admitted (.wareReturn p 1 x n) p s →
      let i := Instr.wareReturn p 1 x n
      let u := before i p s
      let w := u.ware x
      let good := x < 8 ∧ 1 ≤ n ∧ n ≤ 3000
      (good → x < s.wares.length → n ≤ w.house →
        Executes i p s (be16 (w.house - n))
          (u.setWare x { w with soiled := w.soiled + min n w.plated, plated := w.plated - n, house := w.house - n })) ∧
        (good → w.house < n → RefusedWith i p s .short) ∧ (¬good → RefusedWith i p s .range))

/-- WARE_READ (R21) changes nothing and carries the class's record and its committed clean, in every day state. -/
def Obligations.WareReadReply : Prop :=
  ∀ (p : Port) (cls : Nat) (s : State), Ready p s →
    let w := s.ware cls
    (cls < 8 →
      Executes (.wareRead p cls) p s
        (be16 w.dwell ++ be16 w.stock ++ be16 w.soiled ++ be16 w.washing ++ be16 w.held ++ be16 w.clean ++
          be16 w.inWarmer ++ be16 w.plated ++ be16 w.house ++
          be16 (total (s.lines.map fun l =>
            total ((l.exits.filter fun r => r.reason = none ∧ r.cls = cls).map fun r => r.count - r.loaded)))) s) ∧
      (8 ≤ cls → RefusedWith (.wareRead p cls) p s .range)

/-! ### Functions and courses (R22–R50) -/

/-- FUNCTION_SET (R23), DEFINE 0 and CLEAR 1: the record written, function 0 keeping its members and team; RANGE, and in
SERVICE and CLOSING, or for a CLEAR of a function that a course names, BAD_STATE. -/
def Obligations.FunctionSetWritesRecord : Prop :=
  ∀ (p : Port) (f action members team mode : Nat) (s : State), Admitted (.functionSet p f action members team mode) p s →
    let i := Instr.functionSet p f action members team mode
    let u := before i p s
    let good := f < 8 ∧ (action = 0 ∧ (f = 0 ∨ 1 ≤ team ∧ team ≤ 14) ∨ action = 1 ∧ f ≠ 0) ∧ mode < 3
    let used := ∃ c ∈ s.courses, c.state ≠ .empty ∧ c.fn = f
    (∀ m : RouteMode, m.code = mode → good → s.day.state = .opening →
      (action = 0 → f = 0 → Executes i p s [] (u.setFn 0 { u.fn 0 with mode := m, round := 23 })) ∧
        (action = 0 → f ≠ 0 → Executes i p s [] (u.setFn f ⟨true, members, team, m, 23⟩)) ∧
        (action = 1 → ¬used → Executes i p s [] (u.setFn f ⟨false, 0, 0, .fill, 23⟩)) ∧
        (action = 1 → used → RefusedWith i p s .badState)) ∧
      (good → s.day.state = .service ∨ s.day.state = .closing → RefusedWith i p s .badState) ∧
      (¬good → RefusedWith i p s .range)

/-- COURSE_DEFINE (R26): the EMPTY slot holds a PLANNED course with the fields given, and COURSE_STATE is raised; RANGE,
NOT_FOUND for an UNUSED function, BAD_STATE for a slot in use (and outside SERVICE, R25). -/
def Obligations.CourseDefinePlansCourse : Prop :=
  ∀ (p : Port) (c : Nat) (a : CourseArgs) (s : State), Admitted (.courseDefine p c a) p s →
    let i := Instr.courseDefine p c a
    let u := before i p s
    let batchOk := fun (b : BatchArgs) =>
      b.oven < 24 ∧ (u.cab b.oven).kind = .oven ∧ 1 ≤ b.shelves ∧ b.shelves ≤ 20 ∧ b.shelves ≤ (u.cab b.oven).shelves ∧
        60 ≤ b.setpoint ∧ b.setpoint ≤ 250 ∧ 60 ≤ b.cook ∧ b.cook ≤ 14400 ∧ 60 ≤ b.overHold ∧ b.overHold ≤ 3600
    let fields := c < 32 ∧ 1 ≤ a.fn ∧ a.fn ≤ 7 ∧ a.cls < 8 ∧ 1 ≤ a.covers ∧ a.covers ≤ 3000 ∧ 1 ≤ a.station ∧ a.station ≤ 32
    ∀ (b : Option BatchArgs) (t : Option Nat),
      (a.batch = match b with | none => .absent | some x => .present x) →
      (a.fireTime = match t with | none => .absent | some x => .present x) →
      let good := fields ∧ (∀ x, b = some x → batchOk x) ∧ ∀ x, t = some x → s.day.clock < x
      let slotFree := s.day.state = .service ∧ (u.course c).state = .empty
      (good → c < s.courses.length → (u.fn a.fn).used = true → slotFree →
        Executes i p s []
          (raise .courseState c CourseState.planned.code CourseState.empty.code
            (u.setCourse c
              { Course.initial with
                state := .planned, fn := a.fn, cls := a.cls, covers := a.covers, batch := b, station := a.station,
                fireTime := t }))) ∧
        (good → (u.fn a.fn).used = true → ¬slotFree → RefusedWith i p s .badState) ∧
        (good → (u.fn a.fn).used = false → RefusedWith i p s .notFound) ∧ (¬good → RefusedWith i p s .range)

/-- COURSE_ARM (R27): a PLANNED course becomes ARMED, its batch BOOKED at the tail of its oven's list, whose setpoint
it sets, claims and has judged when the list was empty (R54, R56). COURSE_REBATCH (R47): the batch leaves its oven's
list and joins the tail of the other's with its shelves, setpoint and remaining seconds, BOOKED for an ARMED course,
and for a fired one COOKING where the oven then runs and WAITING otherwise; OVEN_FAULT is cleared. The refusals in the
order of R27 and R47 (SERVICE only, R25). `t` is what the end of a step (`finish`) makes of the state written out; that
a setpoint the oven already has claims no SET is log 21. -/
def Obligations.BatchesAreBooked : Prop :=
  (∀ (p : Port) (c : Nat) (s : State), Admitted (.courseArm p c) p s →
     let i := Instr.courseArm p c
     let u := before i p s
     let x := u.course c
     let armed := fun (v : State) =>
       raise .courseState c CourseState.armed.code CourseState.planned.code
         (v.setCourse c { v.course c with state := .armed })
     let good := c < 32 ∧ x.state = .planned ∧ s.day.state = .service
     (good → x.batch = none → ∃ t, Executes i p s [] t ∧ t = finish (armed u) ∧ Floor (armed u) t) ∧
       (∀ b, good → x.batch = some b →
         let k := u.cab b.oven
         let out := k.state = .fault ∨ k.state = .offline
         let y : Batch := ⟨c, b.shelves, b.setpoint, b.cook, .booked, none⟩
         let w := bookedAndRun b.oven y u
         (¬out → k.batches.length < 4 → ¬clashes k b.shelves b.setpoint →
           ∃ t, Executes i p s [] t ∧ t = finish (armed w) ∧ y ∈ (w.cab b.oven).batches ∧
             Still (booked b.oven y u) w ∧ Floor (armed w) t) ∧
           (out → RefusedWith i p s .badState) ∧ (¬out → 4 ≤ k.batches.length → RefusedWith i p s .full) ∧
           (¬out → k.batches.length < 4 → clashes k b.shelves b.setpoint → RefusedWith i p s .conflict)) ∧
       (c < 32 → x.state = .empty → RefusedWith i p s .notFound) ∧
       (c < 32 → x.state ≠ .empty → x.state ≠ .planned ∨ s.day.state ≠ .service → RefusedWith i p s .badState) ∧
       (32 ≤ c → RefusedWith i p s .range)) ∧
    ∀ (p : Port) (c k : Nat) (s : State), Admitted (.courseRebatch p c k) p s →
      let i := Instr.courseRebatch p c k
      let u := before i p s
      let x := u.course c
      (∀ a b, x.batch = some a → u.batchOf c = some b →
        let good := c < 32 ∧ k < 24 ∧ (u.cab k).kind = .oven ∧ a.oven ≠ k ∧ a.shelves ≤ (u.cab k).shelves
        let able := s.day.state = .service ∧ (b.state = .booked ∨ b.state = .waiting ∨ b.state = .paused)
        let out := (u.cab k).state = .fault ∨ (u.cab k).state = .offline
        let y := { b with state := if x.state = .armed then .booked else .waiting }
        let v := (unbooked c u).setCourse c { x with ovenFault := false, batch := some { a with oven := k } }
        let w := bookedAndRun k y v
        let ran := if x.state ≠ .armed ∧ (w.cab k).state = .holding ∧ (w.cab k).live.doorOpen = false then .cooking else y.state
        (good → able → x.state ≠ .empty → ¬out → (u.cab k).batches.length < 4 → ¬clashes (u.cab k) b.shelves b.setpoint →
          ∃ t, Executes i p s (be16 b.remaining) t ∧ t = finish w ∧ { y with state := ran } ∈ (w.cab k).batches ∧
            Still (booked k y v) t) ∧
          (good → x.state ≠ .empty → ¬able ∨ out → RefusedWith i p s .badState) ∧
          (good → x.state ≠ .empty → able → ¬out → 4 ≤ (u.cab k).batches.length → RefusedWith i p s .full) ∧
          (good → x.state ≠ .empty → able → ¬out → (u.cab k).batches.length < 4 →
            clashes (u.cab k) b.shelves b.setpoint → RefusedWith i p s .conflict) ∧
          (¬good → RefusedWith i p s .range)) ∧
        (c < 32 → k < 24 → (u.cab k).kind = .oven → x.batch = none →
          (x.state = .empty → RefusedWith i p s .notFound) ∧ (x.state ≠ .empty → RefusedWith i p s .badState))

/-- COURSE_FIRE (R28, R29): the ARMED course takes the counter's value and is FIRED, owing its covers; its BOOKED batch
is WAITING, and cooks where its oven runs; it takes earmarks, COURSE_FIRED is raised with what it still owes, and it is
evaluated; the reply carries the sequence, the plates earmarked and the owed. NOT_FOUND, BAD_STATE, and FULL while the
counter is exhausted. A planned fire time that the service clock has reached (R30) fires an ARMED course in SERVICE
while the counter is not exhausted; it raises COURSE_FIRE_MISSED otherwise (the time's low 16 bits, R51; log 26), and
is absent in both cases. A fire's earmarks (R29, step 4): the course visits the warmers of its class and member set in
an eligible state (R33), slots ascending, and takes at each the lesser of the free plates and what it owes, plate for
plate; it stops short only where none has a free plate left. Free plates of a warmer (R34) are given out in the same
way along the owing list of its class, which holds in fire order the courses FIRED, READY and PLATING that owe, each
course whose member set has the warmer. A refill (R35) is such a walk of the list in which each course takes as at its
fire; it follows the release of a warmer's earmarks, by which each course owes again what it held there, and the
courses are judged then (log 12). -/
def Obligations.CoursesFire : Prop :=
  let taken := fun (c : Nat) (u : State) => takeEarmarks c (startBatch c (fired c u))
  let told := fun (c : Nat) (u : State) =>
    evaluate c (raise .courseFired c u.fire.next ((taken c u).course c).owed (taken c u))
  let started := fun (c : Nat) (u : State) =>
    Floor (fired c u) (taken c u) ∧
      ∀ b, (u.course c).batch = some b → (taken c u).cab b.oven = (u.cab b.oven).started c
  (∀ (p : Port) (c : Nat) (s : State), Admitted (.courseFire p c) p s →
     let i := Instr.courseFire p c
     let u := before i p s
     let x := u.course c
     let good := c < 32 ∧ x.state = .armed ∧ s.day.state = .service
     (good → s.fire.exhausted = false →
       ∃ t, Executes i p s (beOpt16 (some s.fire.next) ++ be16 (t.earmarkedFor c) ++ be16 (t.course c).owed) t ∧
         t = finish (told c u) ∧ started c u ∧
         Floor (raise .courseFired c s.fire.next ((taken c u).course c).owed (taken c u)) t) ∧
       (good → s.fire.exhausted = true → RefusedWith i p s .full) ∧
       (c < 32 → x.state = .empty → RefusedWith i p s .notFound) ∧
       (c < 32 → x.state ≠ .empty → x.state ≠ .armed ∨ s.day.state ≠ .service → RefusedWith i p s .badState) ∧
       (32 ≤ c → RefusedWith i p s .range)) ∧
  (∀ (c tm : Nat) (s : State), s.day.resetLow = false → (s.course c).fireTime = some tm → tm ≤ s.day.clock →
     let x := s.course c
     let good := x.state = .armed ∧ s.day.state = .service ∧ s.fire.exhausted = false
     (good →
       ∃ t, exec (.plannedFireTimeReached c) s = .next t ∧ t = finish (told c s) ∧ started c s ∧
         Floor (raise .courseFired c s.fire.next ((taken c s).course c).owed (taken c s)) t) ∧
       (¬good →
         exec (.plannedFireTimeReached c) s =
           .next (raise .courseFireMissed c x.state.code (tm % 65536) (s.setCourse c { x with fireTime := none })))) ∧
  (∀ (c : Nat) (s : State), c < s.courses.length →
      let t := takeEarmarks c s
      t.earmarkedFor c + (t.course c).owed = s.earmarkedFor c + (s.course c).owed ∧
        ((t.course c).owed = 0 ∨
          ∀ k, k < 24 → (s.cab k).eligible = true → (s.cab k).cls = some (s.course c).cls → s.reaches c k = true →
            t.freePlates k = 0)) ∧
  (∀ (c k : Nat) (s : State),
     let x := s.course c
     let n := min (s.freePlates k) x.owed
     let t := takeEarmark c k s
     (n = 0 → t = s) ∧
       (n ≠ 0 →
         t.earmark c k = s.earmark c k + n ∧ (∀ i j, i ≠ c ∨ j ≠ k → t.earmark i j = s.earmark i j) ∧
           t = (s.setCourse c { x with owed := x.owed - n }).withEarmarks t.earmarks)) ∧
  (∀ (c k : Nat) (s : State),
     let serves := fun (c k : Nat) (t : State) =>
       let w := t.cab k
       w.kind = .warmer ∧ (w.state = .heating ∨ w.state = .holding ∨ w.state = .waitPower ∨ w.state = .shed) ∧
         w.cls = some (t.course c).cls ∧ (t.fn (t.course c).fn).members.testBit k = true
     takeEarmarks c s = forEach (List.range 24) (fun j t => if serves c j t then takeEarmark c j t else t) s ∧
       ∀ cls, (s.cab k).cls = some cls →
         walkOwing k s = forEach (s.owing cls) (fun i t => if serves i k t then takeEarmark i k t else t) s ∧
           refill cls s = forEach (s.owing cls) takeEarmarks s ∧
           (let held := s.earmarks.filter fun e => e.cab = k
            let freed := held.foldl (fun t e =>
              setOwed e.course ((t.course e.course).owed + e.count) (setEarmark e.course e.cab 0 t)) s
            (held = [] → releaseWarmer k s = s) ∧
              (held ≠ [] → (freed.cab k).cls = some cls → releaseWarmer k s = evaluateAll (refill cls freed)))) ∧
    ∀ (cls : Nat) (s : State),
      (∀ c, c ∈ s.owing cls ↔ c < s.courses.length ∧
        ((s.course c).state = .fired ∨ (s.course c).state = .ready ∨ (s.course c).state = .plating) ∧
          (s.course c).cls = cls ∧ 0 < (s.course c).owed) ∧
        (s.owing cls).Pairwise fun a b => a ≠ b ∧ (s.course a).fireSeq.getD 0 ≤ (s.course b).fireSeq.getD 0

/-- R3, kept by every step, place by place: WASHING and HELD are the plates of the racks that stand there, with the tags
of a line distinct (R80) and every route at a rack AT_EXIT with the route's cabinet as destination (R70); IN_WARMER is
the lots of the warmers of the class; PLATED is house plated and what the courses have out, course by course. -/
def Obligations.PlacesAreAccounted : Prop :=
  ∀ s t : State, Sized s → step s = .next t →
    (RackLaw s → RackLaw t) ∧ (LotLaw s → LotLaw t) ∧ (PlatedLaw s → PlatedLaw t)

/-- COURSE_CANCEL (R48): the batch leaves its list, every earmark of the course is released and the freed plates are
given out along the owing list, warmer by warmer, with the courses then judged; the course owes nothing and is
CANCELLED, its plated and returned kept, its pages are cancelled, and COURSE_STATE is raised; the reply carries the
plates released (the order among these is log 14). Pages cancelled for a course (R139), all that name it or, at a
revert, its COURSE_READY pages alone, in queue order: one in delivery or HANDED takes the cancel mark, one SENT is
left, any other QUEUED one is CANCELLED; a selection pass follows (log 23). COURSE_CLOSE (R12, R49): what is still out
passes to house plated of the class, no page names the slot any more, and the slot is EMPTY; the reply carries the
plates passed, and no notice is raised. -/
def Obligations.CoursesEnd : Prop :=
  (∀ (p : Port) (c : Nat) (s : State), Admitted (.courseCancel p c) p s →
     let i := Instr.courseCancel p c
     let u := before i p s
     let x := u.course c
     let ended := x.state = .served ∨ x.state = .cancelled
     let own := s.earmarks.filter (·.course = c)
     let v := ((unbooked c u).withEarmarks (s.earmarks.filter (·.course ≠ c))).setCourse c
       { x with state := .cancelled, owed := 0, fireTime := none }
     let given := forEach (own.map (·.cab)) walkOwing v
     let w := cancelCoursePages c false (if own = [] then v else evaluateAll given)
     (c < 32 → x.state ≠ .empty → ¬ended → s.day.state = .service →
       ∃ t, Executes i p s (be16 (s.earmarkedFor c)) t ∧
         t = finish (raise .courseState c CourseState.cancelled.code x.state.code w) ∧
         (w.course c).owed = 0 ∧ (∀ e ∈ w.earmarks, e.course ≠ c) ∧ Floor v w ∧
         Floor (raise .courseState c CourseState.cancelled.code x.state.code w) t) ∧
       (c < 32 → x.state = .empty → RefusedWith i p s .notFound) ∧
       (c < 32 → ended ∨ x.state ≠ .empty ∧ s.day.state ≠ .service → RefusedWith i p s .badState) ∧
       (32 ≤ c → RefusedWith i p s .range)) ∧
  (∀ (p : Port) (c : Nat) (s : State), Admitted (.courseClose p c) p s →
      let i := Instr.courseClose p c
      let u := before i p s
      let x := u.course c
      let w := u.ware x.cls
      let ended := x.state = .served ∨ x.state = .cancelled
      (c < 32 → ended →
        Executes i p s (be16 (x.plated - x.returned))
          (((u.withPaging
              { u.paging with
                pages := u.paging.pages.map fun g => if g.course = some c then { g with course := none } else g }).setWare
            x.cls { w with house := w.house + (x.plated - x.returned) }).setCourse c Course.initial)) ∧
        (c < 32 → x.state = .empty → RefusedWith i p s .notFound) ∧
        (c < 32 → x.state ≠ .empty → ¬ended → RefusedWith i p s .badState) ∧ (32 ≤ c → RefusedWith i p s .range)) ∧
  (∀ (c : Nat) (readyOnly : Bool) (s : State),
    let named := s.paging.pages.filter fun g => g.course = some c ∧ (readyOnly = true → g.code = 0x01)
    cancelCoursePages c readyOnly s = selectPass (forEach (named.map (·.id)) (fun id => cancelPage id false) s)) ∧
    ∀ (g : Page) (s : State), s.page g.id = some g →
      let v := cancelPage g.id false s
      (g.state = .handed ∨ g.inDelivery = true → v = paged g.id (fun q => { q with cancelMark := true }) s) ∧
        (g.state = .sent → g.inDelivery = false → v = s) ∧
        (g.state = .queued → g.inDelivery = false → v = ended g 4 s)

/-- The timers of batches and cabinets: a batch whose last second has passed is DONE at this second, with BATCH_DONE,
and the courses are judged (R73); a batch still DONE at its over-hold limit has its course paged once, to the kitchen
team (R45). A lot that has become warm has the courses judged (R69); the out-of-band timer makes every lot's warm-from
unset (R67); the sleep timer takes a HOLDING warmer to SLEEP with its grant lowered to its standby units (R58), and
runs, once a step has ended, in an idle HOLDING warmer alone; the door timer stops and pages the kitchen team (R66).
How the courses are judged (every FIRED and READY one in fire order, then PLATES_SHORT: log 12): a course is ready
while it has no batch or a DONE one, owes nothing, and at each warmer where it holds an earmark the warm plates cover
the earmarks of the courses fired no later (R36, R37). A FIRED course that is ready becomes READY: its team's rush
window starts anew, COURSE_READY is queued to the team with the station, and COURSE_STATE is raised (R38, R127). A
READY one that is not goes back to FIRED with COURSE_REVERTED, OWED 0 or COLD 1, and its COURSE_READY pages are
cancelled (R39; CoursesEnd says how). PLATES_SHORT goes to the dish team the first time an active course with a DONE
batch owes (R44). -/
def Obligations.BatchAndCabinetTimersAct : Prop :=
  (∀ (c : Nat) (a : BatchArgs) (b : Batch) (s : State), s.day.resetLow = false → (s.course c).batch = some a →
     s.batchOf c = some b →
     (b.state = .cooking → b.remaining = 0 →
       let w := raise .batchDone a.oven c b.shelves
         (s.setCab a.oven { s.cab a.oven with
           batches := (s.cab a.oven).batches.map fun y =>
             if y.course = c then { y with state := .done, doneAt := some s.day.clock } else y })
       ∃ t, exec (.cookTimeComplete c) s = .next t ∧ Floor w t ∧ t = finish (evaluateAll w)) ∧
       (∀ d, b.state = .done → b.doneAt = some d → d + a.overHold ≤ s.day.clock → (s.course c).overHoldPaged = false →
         let u := s.setCourse c { s.course c with overHoldPaged := true }
         ∃ t, exec (.overHoldLimit c) s = .next t ∧ Floor u t ∧
           t = finish (claimPage (.team s.paging.settings.kitchen) 0x03 a.oven .urgent (some c) u))) ∧
  (∀ (k : Nat) (s : State), s.day.resetLow = false → Sized s → k < 24 →
      let c := s.cab k
      (0 < s.readyPlates k → ∃ t, exec (.lotWarm k) s = .next t ∧ Floor s t ∧ t = finish (evaluateAll s)) ∧
        (c.oobT = some 0 →
          let u := s.setCab k { c with oobT := none, lots := c.lots.map fun l => { l with warmFrom := none } }
          ∃ t, exec (.outOfBandExpiry k) s = .next t ∧ Floor u t ∧ t = finish (evaluateAll u)) ∧
        (c.sleepT = some 0 → c.state = .holding →
          let low := min c.standby (s.consumer k).grant
          let w := changeState k .sleep false (callRestore (s.setConsumer k
            { s.consumer k with grant := low, request := low, reqTime := none }))
          ∃ t, exec (.sleepTimerExpiry k) s = .next t ∧ t = finish w ∧ Still s w ∧ Floor w t ∧
            (w.cab k).state = .sleep ∧ (w.cab k).wantMode = .standby ∧ (w.consumer k).grant = low ∧
            (w.consumer k).request = low) ∧
        (c.doorT = some 0 →
          let u := s.setCab k { c with doorT := none }
          ∃ t, exec (.doorTimerExpiry k) s = .next t ∧ Floor u t ∧
            t = finish (claimPage (.team s.paging.settings.kitchen) 0x05 k .normal none u)) ∧
        (let d := (finish s).cab k
         d.sleepT ≠ none ↔ d.kind = .warmer ∧ d.state = .holding ∧ d.lots = [] ∧
           total (d.routes.map fun y => y.count - y.loaded) = 0 ∧ d.idle ≠ 0)) ∧
  (∀ (c : Nat) (s : State),
     let x := s.course c
     let team := (s.fn x.fn).team
     let seq := fun (i : Nat) => (s.course i).fireSeq.getD 0
     let done := ∃ b, s.batchOf c = some b ∧ b.state = .done
     let warm := fun (k : Nat) =>
       total ((s.earmarks.filter fun e => e.cab = k ∧ seq e.course ≤ seq c).map (·.count)) ≤ s.readyPlates k
     let holds := (x.batch = none ∨ done) ∧ x.owed = 0 ∧ ∀ e ∈ s.earmarks, e.course = c → warm e.cab
     let entered := fun (st : CourseState) => s.setCourse c { x with state := st }
     (x.state = .fired → holds → evaluate c s =
       raise .courseState c CourseState.ready.code CourseState.fired.code
         (claimPage (.team team) 0x01 x.station .normal (some c) (startRush team (entered .ready)))) ∧
       (x.state = .ready → ¬holds → evaluate c s =
         cancelCoursePages c true (raise .courseReverted c (if 0 < x.owed then 0 else 1) x.owed (entered .fired))) ∧
       (x.state ≠ .fired ∨ ¬holds → x.state ≠ .ready ∨ holds → evaluate c s = s) ∧
       (let short := (x.state = .fired ∨ x.state = .ready ∨ x.state = .plating) ∧ done ∧ 0 < x.owed ∧ x.shortPaged = false
        (short → pageShort c s = claimPage (.team s.paging.settings.dish) 0x02 x.owed .rush (some c)
          (s.setCourse c { x with shortPaged := true })) ∧
          (¬short → pageShort c s = s))) ∧
  (∀ (tm : Nat) (s : State),
    (1 ≤ tm → tm ≤ 14 → startRush tm s = selectPass (s.withPaging { s.paging with
      rush := s.paging.rush.set (tm - 1) (some (s.day.clock + s.paging.settings.rushLen)) })) ∧
      (tm = 0 ∨ 14 < tm → startRush tm s = s)) ∧
  (∀ (k cls : Nat) (s : State), (s.cab k).cls = some cls → s.readyPlates k =
    total (((s.cab k).lots.filter fun l => l.warmFrom.any fun t => t + (s.ware cls).dwell ≤ s.day.clock).map (·.count))) ∧
    ∀ s : State,
      let v := forEach s.activeCourses evaluate s
      evaluateAll s = forEach v.activeCourses pageShort v ∧
        (∀ c, c ∈ s.activeCourses ↔ c < s.courses.length ∧
          ((s.course c).state = .fired ∨ (s.course c).state = .ready ∨ (s.course c).state = .plating)) ∧
        s.activeCourses.Pairwise fun a b => a ≠ b ∧ (s.course a).fireSeq.getD 0 ≤ (s.course b).fireSeq.getD 0

/-! ### Cabinets (R52–R69) -/

/-- CABINET_SET (R53): the slot holds the given fields, wanted mode OFF, an empty latch and empty lists; it is OFF
where its node answers and is of the kind's type, stale while that node is SILENT, and OFFLINE otherwise; kind NONE
clears it. The baselines of the node at the new address are unset (R68; of that one alone, log 21), a change of state
raises CABINET_STATE, and a slot that is OFFLINE hands a draw of 0 to the power budget unit (R103). Where the slot's
address or kind changes, the node that answers there is bound to the slot if it suits (R148). The refusals in R53's
order. (What the slot's unnamed fields take, that a batch leaves with its list, that lots, of which OPENING has none
(R70), would be unloaded, and the notice and the draw are log 21; that a slot which is OFF keeps its consumer's last
report time, also with another node, is log 24. `Ground` from the slot so written says what the
command leaves of every other record.) -/
def Obligations.CabinetSetConfiguresSlot : Prop :=
  ∀ (p : Port) (k : Nat) (q : CabKind) (a : CabinetArgs) (s : State), Admitted (.cabinetSet p k q.code a) p s → Sized s →
    let i := Instr.cabinetSet p k q.code a
    let u := before i p s
    let old := u.cab k
    let common := 1 ≤ a.addr ∧ a.addr ≤ 31 ∧ 60 ≤ a.setpoint ∧ 2 ≤ a.band ∧ a.band ≤ 20 ∧ 1 ≤ a.heat ∧ a.heat ≤ 400 ∧
      1 ≤ a.hold ∧ a.hold ≤ a.heat
    let good := k < 24 ∧
      match q with
      | .empty => True
      | .oven => common ∧ a.setpoint ≤ 250 ∧ a.standby = 0 ∧ 1 ≤ a.shelves ∧ a.shelves ≤ 20
      | .warmer => common ∧ a.setpoint ≤ 95 ∧ a.standby ≤ a.hold ∧ (a.cls < 8 ∨ a.cls = 0xFF) ∧ 1 ≤ a.capacity ∧
          a.capacity ≤ 600 ∧ (a.idle = 0 ∨ 60 ≤ a.idle ∧ a.idle ≤ 3600)
    let taken := q ≠ .empty ∧ ∃ j, j < 24 ∧ j ≠ k ∧ (s.cab j).kind ≠ .empty ∧ (s.cab j).addr = some a.addr
    let busy := s.day.state ≠ .opening ∨ (s.cab k).state = .fault ∨
      ∃ c ∈ s.courses, c.state ≠ .empty ∧ ∃ b, c.batch = some b ∧ b.oven = k
    let n := s.node a.addr
    let answers := n.presence = .present ∨ n.presence = .silent
    let suits := answers ∧ match q with
      | .empty => False
      | .oven => n.type = some .oven
      | .warmer => n.type = some .warmer
    let given : Cab :=
      match q with
      | .empty => Cab.initial
      | .oven =>
        { Cab.initial with
          kind := .oven, addr := some a.addr, setpoint := a.setpoint, band := a.band, heat := a.heat, hold := a.hold,
          shelves := a.shelves }
      | .warmer =>
        { Cab.initial with
          kind := .warmer, addr := some a.addr, setpoint := a.setpoint, band := a.band, heat := a.heat, hold := a.hold,
          standby := a.standby, cls := if a.cls = 0xFF then none else some a.cls, capacity := a.capacity, idle := a.idle }
    let named := (unload k u).setCab k given
    let bound := if old.addr = given.addr ∧ old.kind = given.kind then named else renameFrom old.addr given.addr named
    let clean := unsetBaselines given.addr bound
    let noticed := fun (v : State) =>
      if (v.cab k).state = old.state then v
      else callRoutes (raise .cabinetState k (v.cab k).state.code old.state.code v)
    let placed := fun (r : Cab) (v : State) =>
      let w := claimCab k false (noticed v)
      ∃ t, Executes i p s [] t ∧ t = finish w ∧ w.cab k = r ∧ Ground (u.setCab k r) w ∧ Floor w t ∧
        (q ≠ .empty → (w.node a.addr).loadBase = none ∧ (w.node a.addr).drawBase = none)
    let off := { given with state := .off, stale := decide (n.presence = .silent) }
    (good → ¬taken → ¬busy →
      (suits → placed off (clean.setCab k off) ∧
        (¬(old.addr = given.addr ∧ old.kind = given.kind) → (clean.node a.addr).binding = .cabinet k)) ∧
        (¬suits → placed given (callCheck (clean.setConsumer k { u.consumer k with measured := 0, lastReport := none })))) ∧
      (¬good → RefusedWith i p s .range) ∧ (good → taken → RefusedWith i p s .conflict) ∧
      (good → ¬taken → busy → RefusedWith i p s .badState)

/-- CABINET_MODE ON (R61, R55): wanted ON; an OFF cabinet in SERVICE claims its heat units and waits for them, or heats
at once; no other cabinet's state is touched by the command itself. CABINET_MODE OFF (R61, R57): wanted OFF; a cabinet
that is on enters OFF, with its grant released, its routes and timers gone, its lots unloaded and its batches paused;
refused without force for a warmer that holds an earmark and an oven with a batch. The reply carries the resulting
state (as the whole step leaves it, log 25). `t` is what the end of a step makes of the claim, or of the entry to OFF.
A change of state (R54), the same for every command and event: the wanted element mode of the new state, the batches by
the run condition or PAUSED (R73), no sleep timer; CABINET_STATE and a SET, none in OFFLINE; a warmer that leaves the
eligible states releases its earmarks (R35) and one that enters them with lots gives its plates out (R34, log 18);
routing passes of both lines and the completion test are called for. WAIT_POWER keeps the mode it came with, and a
cabinet whose grant covers its heat units heats at once (log 15). A claim of units (R103): a request above the grant
waits with its first time, one at or below it is a lowering; a lowering and a release call for admission and the
restore check. -/
def Obligations.CabinetModeSwitchesCabinet : Prop :=
  (∀ (p : Port) (k force : Nat) (s : State), Admitted (.cabinetMode p k 0 force) p s → Sized s →
     let i := Instr.cabinetMode p k 0 force
     let u := before i p s
     let c := u.cab k
     let v := u.setCab k { c with wantedOn := true }
     let good := k < 24 ∧ force < 2
     let barred := s.day.state = .closing ∨ c.state = .fault
     (good → c.kind ≠ .empty → ¬barred →
       (c.state = .off → s.day.state = .service →
         let waiting := request k c.heat (changeState k .waitPower false v)
         let w := if c.heat ≤ (waiting.consumer k).grant then changeState k .heating false waiting else waiting
         ∃ t, Executes i p s (be8 (t.cab k).state.code) t ∧ t = finish w ∧ Floor v w ∧ Floor w t ∧
           (waiting.cab k).state = .waitPower ∧ ((w.cab k).state = .waitPower ∨ (w.cab k).state = .heating) ∧
           (w.consumer k).request = c.heat) ∧
         (¬(c.state = .off ∧ s.day.state = .service) →
           ∃ t, Executes i p s (be8 (t.cab k).state.code) t ∧ Floor v t ∧ t = finish v)) ∧
       (good → c.kind ≠ .empty → barred → RefusedWith i p s .badState) ∧
       (good → c.kind = .empty → RefusedWith i p s .notFound) ∧ (¬good → RefusedWith i p s .range)) ∧
  (∀ (p : Port) (k force : Nat) (s : State), Admitted (.cabinetMode p k 1 force) p s → Sized s →
      let i := Instr.cabinetMode p k 1 force
      let u := before i p s
      let c := u.cab k
      let v := u.setCab k { c with wantedOn := false }
      let good := k < 24 ∧ force < 2
      let kept := force = 0 ∧ (c.kind = .warmer ∧ 0 < s.earmarkedAt k ∨ c.kind = .oven ∧ c.batches ≠ [])
      let w := enterOff k false v
      (good → c.kind ≠ .empty → ¬kept →
        (c.state.on = true →
          ∃ t, Executes i p s (be8 (t.cab k).state.code) t ∧ t = finish w ∧ Bedrock u w ∧ Floor w t ∧
            w.cab k = { c.asOff with wantedOn := false } ∧ w.consumer k = (u.consumer k).released) ∧
          (c.state.on = false → ∃ t, Executes i p s (be8 (t.cab k).state.code) t ∧ Floor v t ∧ t = finish v)) ∧
        (good → c.kind ≠ .empty → kept → RefusedWith i p s .badState) ∧
        (good → c.kind = .empty → RefusedWith i p s .notFound) ∧ (¬good → RefusedWith i p s .range)) ∧
  (∀ (k : Nat) (st : CabState) (urgent : Bool) (s : State),
     let c := s.cab k
     let eligible := fun (x : CabState) => x = .heating ∨ x = .holding ∨ x = .waitPower ∨ x = .shed
     let runs := st = .holding ∧ c.live.doorOpen = false
     let entered := { c with
       state := st, sleepT := none,
       wantMode :=
         match st with
         | .heating => .heat
         | .holding => .hold
         | .sleep | .shed => .standby
         | .waitPower => c.wantMode
         | .off | .fault | .offline => .off,
       batches := c.batches.map fun b =>
         if st = .off ∨ st = .fault ∨ st = .offline then b.paused
         else if runs then (if b.state = .waiting ∨ b.state = .paused then { b with state := .cooking } else b)
         else if b.state = .cooking ∧ b.remaining ≠ 0 then { b with state := .paused }
         else b }
     let v := claimCab k urgent (raise .cabinetState k st.code c.state.code (s.setCab k entered))
     let leaves := c.kind = .warmer ∧ eligible c.state ∧ ¬eligible st
     let enters := c.kind = .warmer ∧ ¬eligible c.state ∧ eligible st ∧ c.lots ≠ []
     (c.state = st → changeState k st urgent s = s) ∧
       (c.state ≠ st →
         (leaves → changeState k st urgent s = callClose (callRoutes (releaseWarmer k v))) ∧
           (enters → changeState k st urgent s = callClose (callRoutes (evaluateAll (walkOwing k v)))) ∧
           (¬leaves → ¬enters → changeState k st urgent s = callClose (callRoutes v))) ∧
       claimCab k urgent s =
         (if c.state = .offline then s
          else claimSet c.addr (.cabinet k) (.cabinet c.wantMode c.setpoint) urgent s) ∧
       (let w := request k ((changeState k .waitPower false s).cab k).heat (changeState k .waitPower false s)
        requestHeat k s = if (w.cab k).heat ≤ (w.consumer k).grant then changeState k .heating false w else w)) ∧
    ∀ (c n : Nat) (s : State),
      let x := s.consumer c
      let m := min n x.grant
      (x.grant < n → request c n s = callAdmission (s.setConsumer c
        { x with request := n, reqTime := if x.grant < x.request then x.reqTime else some s.day.clock })) ∧
        (n ≤ x.grant → request c n s = lowerTo c n s) ∧
        lowerTo c n s = callRestore (s.setConsumer c { x with grant := m, request := m, reqTime := none }) ∧
        release c s = callRestore (s.setConsumer c x.released)

/-- CABINET_SETPOINT (R62, R56): setpoint and band are written, the SET claimed, and the last temperature judged at
once: a HEATING cabinet then in band holds, its grant lowered to its hold units, and a HOLDING cabinet then far below
band claims its raise. CABINET_REARM (R65): the latch is cleared, or captures the live set again with
CABINET_CONDITION; a FAULT cabinet with no fault condition live enters OFF where its bound node answers, and OFFLINE
otherwise (as R60 has it, log 21). Its reply carries the resulting state and both sets. (That a band outside 2 to 20 is
refused with RANGE before a slot of kind NONE with NOT_FOUND, whose setpoint has no range, is log 11.) -/
def Obligations.CabinetSetpointAndRearm : Prop :=
  (∀ (p : Port) (k band : Nat) (tp : Int) (s : State), Admitted (.cabinetSetpoint p k tp band) p s → Sized s →
     let i := Instr.cabinetSetpoint p k tp band
     let u := before i p s
     let c := u.cab k
     let good := k < 24 ∧ (c.kind = .oven → 60 ≤ tp ∧ tp ≤ 250) ∧ (c.kind = .warmer → 60 ≤ tp ∧ tp ≤ 95) ∧ 2 ≤ band ∧ band ≤ 20
     let shared := c.kind = .oven ∧ c.batches ≠ []
     let v := claimCab k false (u.setCab k { c with setpoint := tp, band := band })
     let low := min c.hold (u.consumer k).grant
     let holds := c.state = .heating ∧ tp - band ≤ c.temp
     let raises := c.state = .holding ∧ c.temp < tp - 2 * band
     let executes := fun (w : State) =>
       ∃ t, Executes i p s [] t ∧ t = finish w ∧ Floor w t ∧ Still (u.setCab k { c with setpoint := tp, band := band }) w
     (good → c.kind ≠ .empty → ¬shared →
       (holds →
         let w := changeState k .holding false (lowerTo k c.hold v)
         executes w ∧ (w.cab k).state = .holding ∧ (w.consumer k).grant = low ∧ (w.consumer k).request = low) ∧
         (raises →
           let w := requestHeat k v
           executes w ∧ ((w.cab k).state = .waitPower ∨ (w.cab k).state = .heating) ∧ (w.consumer k).request = c.heat) ∧
         (¬holds → ¬raises → executes v)) ∧
       (good → c.kind ≠ .empty → shared → RefusedWith i p s .conflict) ∧
       (good → c.kind = .empty → RefusedWith i p s .notFound) ∧ (¬good → RefusedWith i p s .range)) ∧
    ∀ (p : Port) (k : Nat) (s : State), Admitted (.cabinetRearm p k) p s → Sized s →
      let i := Instr.cabinetRearm p k
      let u := before i p s
      let c := u.cab k
      let v :=
        if c.live = c.latchedSet then u.setCab k { c with latched := false }
        else
          raise .cabinetCondition k c.live.mask c.state.code (u.setCab k { c with latched := true, latchedSet := c.live })
      let reply := fun (t : State) =>
        be8 (t.cab k).state.code ++ be8 (t.cab k).live.mask ++ be8 (t.cab k).latchedSet.mask
      let leaves := c.state = .fault ∧ c.live.overtemp = false ∧ c.live.probeFault = false ∧ c.live.elementFault = false
      let n := s.node (c.addr.getD 0)
      let answered := c.addr ≠ none ∧ (n.presence = .present ∨ n.presence = .silent) ∧ n.binding = .cabinet k
      let executes := fun (w : State) => ∃ t, Executes i p s (reply t) t ∧ t = finish w ∧ Bedrock v w ∧ Floor w t
      (k < 24 → c.kind ≠ .empty →
        (¬leaves → ∃ t, Executes i p s (reply t) t ∧ Floor v t ∧ t = finish v) ∧
          (leaves → answered →
            let w := enterOff k false v
            executes w ∧ w.cab k = (v.cab k).asOff ∧ w.consumer k = (u.consumer k).released) ∧
          (leaves → ¬answered →
            let w := enterOffline k v
            executes w ∧ w.cab k = (v.cab k).asOffline ∧
              w.consumer k = { (u.consumer k).released with measured := 0, lastReport := none })) ∧
        (k < 24 → c.kind = .empty → RefusedWith i p s .notFound) ∧ (24 ≤ k → RefusedWith i p s .range)

/-- A load delta (R71): at an OFF or FAULT cabinet none of it is taken, with WARE_MISMATCH. Otherwise it fills the
routes in their order; what is over is taken as far as the capacity goes, and CLEAN gives what it holds, with a
WARE_MISMATCH for each clip (what these carry, and that a filled route is passed over, are log 16). The plates taken
leave CLEAN for IN_WARMER (R8), stand in a new lot (or join the newest of 8), stop the sleep timer, wake a SLEEP
warmer, are given out to the courses that owe (R34), reach the racks they fill, and call for routing passes (R89). A
draw delta (R72), clipped to the lots: the plates leave IN_WARMER for PLATED (R9; IN_WARMER holds every lot by R3) and
are credited one by one: to the course served, by the four cases of R41, which is SERVED when its covers are plated and
is then chosen afresh (R40), or to the house (R42). (The order within a single draw is log 12.) The serving course is
the READY or PLATING holder at the warmer with the lowest fire sequence; the course robbed the holder with the highest;
the other earmark that of the lowest cabinet. Plates leave the lots oldest first, and fill the routes in their order;
each filled route's rack has the plates loaded, and a rack wholly loaded leaves with RACK_LEFT LOADED (R91). -/
def Obligations.LoadsAndDrawsMovePlates : Prop :=
  (∀ (k cls n : Nat) (s : State), 1 ≤ n →
     let c := s.cab k
     let w := s.ware cls
     let rest := n - min n c.pending
     let put := fun (m : Nat) (v : State) =>
       let t := { c.lots.getLastD ⟨0, none⟩ with warmFrom := if c.setpoint - c.band ≤ c.temp then some s.day.clock else none }
       let x := v.setCab k { c with
         lots := if c.lots.length < 8 then c.lots ++ [{ t with count := m }]
           else c.lots.dropLast ++ [{ t with count := t.count + m }],
         routes := fillRoutes m c.routes, sleepT := none }
       callRoutes ((c.routes.zip (fillRoutes m c.routes)).foldl (fun y z => settleRoute k z.1 z.2 y)
         (evaluateAll (walkOwing k (if c.state = .sleep then requestHeat k x else x))))
     let loads := fun (claim : Nat) (v : State) =>
       let m := min claim w.clean
       let moved := v.setWare cls { w with clean := w.clean - m, inWarmer := w.inWarmer + m }
       let told := if m < claim then raise .wareMismatch k n m moved else moved
       if m = 0 then told else put m told
     (c.state = .off ∨ c.state = .fault → applyLoad k n s = raise .wareMismatch k n 0 s) ∧
       (c.state ≠ .off → c.state ≠ .fault → c.cls = some cls →
         (c.lotTotal + c.pending + rest ≤ c.capacity → applyLoad k n s = loads n s) ∧
           (0 < rest → c.capacity < c.lotTotal + c.pending + rest →
             let room := c.capacity - (c.lotTotal + c.pending)
             applyLoad k n s = loads (c.pending + room) (raise .wareMismatch k rest room s))) ∧
       total ((fillRoutes n c.routes).map Route.left) = c.pending - n) ∧
  (∀ (k n : Nat) (s : State), 1 ≤ n →
     let lots := (s.cab k).lotTotal
     let v := if lots < n then raise .wareMismatch k n lots s else s
     ((s.cab k).cls = none → applyDraw k n s = v) ∧
       ∀ cls, (s.cab k).cls = some cls →
         let w := s.ware cls
         let m := min (min n lots) w.inWarmer
         (m = 0 → applyDraw k n s = v) ∧
           (0 < m → applyDraw k n s = callRoutes (drawPlates k cls m (s.serving k)
             (v.setWare cls { w with inWarmer := w.inWarmer - m, plated := w.plated + m })))) ∧
    (∀ (k cls n : Nat) (s : State),
      let free := s.freePlates k
      let house := fun (v : State) => v.setWare cls { v.ware cls with house := (v.ware cls).house + 1 }
      let plate := fun (v : State) => v.setCab k { v.cab k with lots := takeLots (v.cab k).lots 1 }
      (drawPlates k cls 0 none s = s ∧
        drawPlates k cls (n + 1) none s = drawPlates k cls n none (singleDraw k cls none s) ∧
        singleDraw k cls none s =
          evaluateAll (if 0 < free then house (plate s) else refill cls (robYoungest k (house (plate s))))) ∧
        ∀ c,
          let x := s.course c
          let begun :=
            if x.state = .ready then
              raise .courseState c CourseState.plating.code CourseState.ready.code
                ((unbooked c s).setCourse c { x with state := .plating })
            else s
          let v := (plate begun).setCourse c { begun.course c with plated := x.plated + 1 }
          let settled :=
            if 0 < s.earmark c k then setEarmark c k (s.earmark c k - 1) v
            else if 0 < free ∧ 0 < x.owed then setOwed c (x.owed - 1) v
            else
              match s.otherEarmark c k with
              | some j =>
                let lower := setEarmark c j (s.earmark c j - 1) v
                if 0 < free then walkOwing j lower else refill cls (walkOwing j (robYoungest k lower))
              | none => refill cls (robYoungest k (setOwed c (x.owed - 1) v))
          let t := singleDraw k cls (some c) s
          drawPlates k cls 0 (some c) s = s ∧
            drawPlates k cls (n + 1) (some c) s =
              drawPlates k cls n (if (t.course c).state = .served then t.serving k else some c) t ∧
            (c < s.courses.length →
              t = evaluateAll
                (if x.plated + 1 = x.covers then
                  raise .courseState c CourseState.served.code (settled.course c).state.code
                    (settled.setCourse c { settled.course c with state := .served })
                 else settled))) ∧
  (∀ (k : Nat) (s : State),
      let seq := fun (c : Nat) => (s.course c).fireSeq.getD 0
      let holds := fun (c j : Nat) => ∃ e ∈ s.earmarks, e.course = c ∧ e.cab = j
      let serves := fun (c : Nat) =>
        holds c k ∧ ((s.course c).state = .ready ∨ (s.course c).state = .plating) ∧
          (s.cab k).cls = some (s.course c).cls
      (s.serving k = none ↔ ∀ c, ¬serves c) ∧
        (∀ c, s.serving k = some c → serves c ∧ ∀ d, serves d → seq c ≤ seq d) ∧
        ((∀ c, ¬holds c k) → robYoungest k s = s) ∧
        ((∃ c, holds c k) → ∃ c, holds c k ∧ (∀ d, holds d k → seq d ≤ seq c) ∧
          robYoungest k s = setOwed c ((s.course c).owed + 1) (setEarmark c k (s.earmark c k - 1) s)) ∧
        ∀ c, (s.otherEarmark c k = none ↔ ∀ j, j ≠ k → ¬holds c j) ∧
          ∀ j, s.otherEarmark c k = some j → j ≠ k ∧ holds c j ∧ ∀ i, i ≠ k → holds c i → j ≤ i) ∧
  (∀ (l : Lot) (ls : List Lot) (n : Nat),
      takeLots [] n = [] ∧ takeLots (l :: ls) 0 = l :: ls ∧
        (1 ≤ n → l.count ≤ n → takeLots (l :: ls) n = takeLots ls (n - l.count)) ∧
        (n < l.count → takeLots (l :: ls) n = { l with count := l.count - n } :: ls)) ∧
    (∀ (r : Route) (rs : List Route) (n : Nat),
      let m := min n (r.count - r.loaded)
      fillRoutes n [] = [] ∧ fillRoutes n (r :: rs) = { r with loaded := r.loaded + m } :: fillRoutes (n - m) rs) ∧
    ∀ (k : Nat) (old new : Route) (s : State),
      let x := s.line new.line
      let v :=
        if new.loaded = old.loaded then s
        else s.setLine new.line { x with
          exits := x.exits.map fun r =>
            if r.tag = new.tag then { r with loaded := r.loaded + (new.loaded - old.loaded) } else r }
      let w := unrouted new.line new.tag (some k) v
      (new.loaded < new.count → settleRoute k old new s = v) ∧
        (new.count ≤ new.loaded → settleRoute k old new s = backpressure new.line (raise .rackLeft new.line new.tag k
          (w.setLine new.line { w.line new.line with
            exits := (w.line new.line).exits.filter fun r => r.tag ≠ new.tag })))

/-- A report of a cabinet in R67's seven steps, and what they do: stored; the in-band test of a warmer, which in band
stops the out-of-band timer and gives this second to every lot whose warm-from is unset, the courses judged, and out of
band starts the timer of 60 s unless it runs; loads and draws, by the difference of each counter to its baseline modulo
256, and none from an unset baseline, the baselines then the counters (R68); the latch (R63), an entry to FAULT at a
new fault condition (R64) with its page, an OVERTEMP that starts the cabinet's confirm timer outside LOCKOUT, and the
door timer (R66); the moves that the temperature calls for (R56); the draw, billed for the whole seconds since the last
report, at most 5 and none where that is unset, to the consumer's meter and to that of the function it is charged to
(R113, R114), stored, and followed by the shed check and the restore check (R106). (The admission that the steps have
called for is tried before the draw is handed over, and none after a shed made here, log 28; COURSE_OVEN_FAULT goes in
booking order, log 12; that the report which starts a confirm timer does not stop it, and that one with OVERTEMP again
and OFF stops it, log 17.) -/
def Obligations.CabinetReportsAreJudged : Prop :=
  (∀ (a k : Nat) (r : CabinetRep) (s : State),
     let c := s.cab k
     let stored := s.setCab k { c with temp := r.temp, level := r.level, draw := r.draw, reported := true }
     let counted := applyCounters a k r.counters (bandTest k stored)
     let running := s.day.confirm.getD k none ≠ none
     let conds := applyConditions k r.conds counted
     let proved :=
       if running ∧ r.level = .off then conds.withDay { conds.day with confirm := conds.day.confirm.set k none } else conds
     let moved := if (proved.cab k).state = .fault then proved else judgeReport k proved
     applyCabinetReport a k r s = powerReport k r.draw (powerTry
       (if (moved.cab k).kind = .oven then moved.setCab k (moved.cab k).refreshBatches else moved))) ∧
  (∀ (k : Nat) (set : CondSet) (s : State), Sized s → k < 24 →
     let c := s.cab k
     let latched :=
       if set = c.live then s
       else if c.latched = true then s.setCab k { c with live := set }
       else
         raise .cabinetCondition k set.mask c.state.code
           (s.setCab k { c with latchedSet := set, latched := true, live := set })
     let hot := set.overtemp = true ∧ c.live.overtemp = false
     let new := hot ∨ set.probeFault = true ∧ c.live.probeFault = false ∨
       set.elementFault = true ∧ c.live.elementFault = false
     let timed := fun (v : State) =>
       let w :=
         if hot ∧ v.day.state ≠ .lockout ∧ v.day.confirm.getD k none = none then
           v.withDay { v.day with confirm := v.day.confirm.set k (some v.day.ms) }
         else v
       if set.doorOpen = true ∧ c.live.doorOpen = false then w.setCab k { w.cab k with doorT := some 120 }
       else if set.doorOpen = false ∧ c.live.doorOpen = true then w.setCab k { w.cab k with doorT := none }
       else w
     (¬(new ∧ c.state ≠ .fault) → applyConditions k set s = timed latched) ∧
       (new → c.state ≠ .fault →
         let off := latched.setCab k { latched.cab k with wantedOn := false }
         let fault := cancelRoutes k (changeState k .fault true (release k off))
         let marked := (fault.cab k).batches.foldl (fun t b => setOvenFault k b t) fault
         let w := claimPage (.team s.paging.settings.kitchen) 0x04 k .urgent none marked
         applyConditions k set s = timed w ∧ w.cab k = (latched.cab k).asFault ∧
           w.consumer k = (s.consumer k).released ∧ Bedrock latched w ∧
           ∀ b ∈ c.batches, b.course < 32 → (w.course b.course).ovenFault = true)) ∧
  (∀ (k : Nat) (s : State),
     let c := s.cab k
     let inBand := c.setpoint - c.band ≤ c.temp
     let raised := c.state = .waitPower ∧ c.wantMode = .hold
     (c.state = .heating → inBand → judgeReport k s = changeState k .holding false (lowerTo k c.hold s)) ∧
       (c.state = .holding → c.temp < c.setpoint - 2 * c.band → judgeReport k s = requestHeat k s) ∧
       (raised → inBand → judgeReport k s = changeState k .holding false (lowerTo k (s.consumer k).grant s)) ∧
       (¬(c.state = .heating ∧ inBand) → ¬(c.state = .holding ∧ c.temp < c.setpoint - 2 * c.band) → ¬(raised ∧ inBand) →
         judgeReport k s = s)) ∧
  (∀ (k : Nat) (s : State),
     let c := s.cab k
     let inBand := c.setpoint - c.band ≤ c.temp
     (c.kind = .warmer → inBand → bandTest k s = evaluateAll (s.setCab k { c with
       oobT := none,
       lots := c.lots.map fun l => if l.warmFrom = none then { l with warmFrom := some s.day.clock } else l })) ∧
       (c.kind = .warmer → ¬inBand → c.oobT = none → bandTest k s = s.setCab k { c with oobT := some 60 }) ∧
       (c.kind ≠ .warmer ∨ ¬inBand ∧ c.oobT ≠ none → bandTest k s = s)) ∧
  (∀ (a k ld dr : Nat) (s : State),
     let n := s.node a
     let delta := fun (base : Option Nat) (v : Nat) =>
       match base with
       | none => 0
       | some b => (v + 256 - b % 256) % 256
     applyCounters a k none s = s ∧
       applyCounters a k (some (ld, dr)) s = applyDraw k (delta n.drawBase dr) (applyLoad k (delta n.loadBase ld)
         (s.setNode a { n with loadBase := some ld, drawBase := some dr })) ∧
       applyLoad k 0 s = s ∧ applyDraw k 0 s = s) ∧
    ∀ (c draw : Nat) (s : State),
      let x := s.consumer c
      let e := draw * (match x.lastReport with | none => 0 | some t => min (s.day.clock - t) 5)
      let billed := addMeter (26 + s.chargeFn c) e (addMeter c e s)
      let v := billed.setConsumer c { x with measured := draw, lastReport := some s.day.clock }
      powerReport c draw s = restoreCheck (shedCheck
        (if v.measuredTotal ≤ v.power.shedHigh then v.withPower { v.power with unresolved := false } else v)) ∧
        (c < 24 → (s.cab c).kind = .oven →
          s.chargeFn c = ((((s.cab c).batches.filter fun b =>
            b.state = .waiting ∨ b.state = .cooking ∨ b.state = .done).map fun b => (s.course b.course).fn).headD 0)) ∧
        (c < 24 → (s.cab c).kind = .warmer → s.chargeFn c = ((s.holdersAt c).map fun i => (s.course i).fn).headD 0) ∧
        (24 ≤ c → s.chargeFn c = (((s.line (c - 24)).inside.map (·.fn)).headD 0))

/-! ### The wash lines (R77–R99) -/

/-- LINE_SET (R79): the settings are written; a new node address makes the last applied event unset and the conveyor
STOPPED, binds a washer that answers there to the line (R148), and with none bound hands a booster draw of 0 to the
power budget unit (log 21; LINE_STOPPED before a NODE_TYPE_MISMATCH is log 20; that with a washer bound the booster's
last report time is kept is log 24); the new watermarks apply at once (R93).
The refusals in R79's order. LINE_MODE (R97, R95),
RUN 0 and STOP 1: the mode and OPERATOR among the stop reasons; RUN lets the booster claim its request while the day
runs, STOP releases it; a repeated mode changes nothing. Its reply carries the stop reasons and the wanted conveyor
(RUN 0, STOP 1: log 8). `t` is what the end of a step makes of the state written out. For every command and event:
BACKPRESSURE joins at HIGH and leaves at LOW (R93); the wanted conveyor is RUN while the stop reasons are empty, and a
change claims a SET (R92); a change of the actual one raises LINE_RUNNING or LINE_STOPPED (R94); a booster claims its
units while the mode is RUN, the day runs and its units are above 0, and releases otherwise (R95). Every step keeps it
that POWER is a stop reason exactly while the booster's request is above its grant (R96). -/
def Obligations.LineCommandsAct : Prop :=
  (∀ (p : Port) (l : Nat) (a : LineArgs) (s : State), Admitted (.lineSet p l a) p s → Sized s →
     let i := Instr.lineSet p l a
     let u := before i p s
     let x := u.line l
     let good := l < 2 ∧ 1 ≤ a.addr ∧ a.addr ≤ 31 ∧ a.defFn < 8 ∧ a.holdMode < 2 ∧ 70 ≤ a.sanMin ∧ a.sanMin ≤ 90 ∧
       2 ≤ a.high ∧ a.high ≤ 8 ∧ a.low < a.high ∧ 60 ≤ a.transit ∧ a.transit ≤ 1800 ∧ 60 ≤ a.route ∧ a.route ≤ 1800 ∧
       a.booster ≤ 300
     let taken := (s.line (1 - l)).addr = some a.addr
     let same := x.addr = some a.addr
     let given := { x with
       addr := some a.addr, defFn := a.defFn, strict := decide (a.holdMode = 0), sanMin := a.sanMin, high := a.high,
       low := a.low, transitLimit := a.transit, routeTimeout := a.route, booster := a.booster }
     let r := { given with
       lastEvent := if same then x.lastEvent else none,
       running := decide same && x.running,
       stops := { x.stops with
         backpressure :=
           if a.high ≤ x.exits.length then true else if x.exits.length ≤ a.low then false else x.stops.backpressure } }
     let stopped := setRunning l false (u.setLine l { given with lastEvent := none })
     let moved := claimSet (some a.addr) (.line l) (.line x.wantedRun) false (renameFrom x.addr (some a.addr) stopped)
     let v := backpressure l (if same then u.setLine l given else moved)
     let w :=
       if ¬same ∧ v.lineBound l = false then
         callCheck (v.setConsumer (24 + l) { v.consumer (24 + l) with measured := 0, lastReport := none })
       else v
     let n := s.node a.addr
     (good → ¬taken → (u.fn a.defFn).used = true → s.day.state = .opening →
       ∃ t, Executes i p s [] t ∧ t = finish w ∧ v.line l = r ∧ Ground (u.setLine l r) w ∧ Floor w t ∧
         (¬same → n.presence = .present ∨ n.presence = .silent → n.type = some .washer →
           (w.node a.addr).binding = .line l)) ∧
       (¬good → RefusedWith i p s .range) ∧ (good → taken → RefusedWith i p s .conflict) ∧
       (good → ¬taken → (u.fn a.defFn).used = false → RefusedWith i p s .notFound) ∧
       (good → ¬taken → (u.fn a.defFn).used = true → s.day.state ≠ .opening → RefusedWith i p s .badState)) ∧
  (∀ (p : Port) (l mode : Nat) (s : State), Admitted (.lineMode p l mode) p s → Sized s →
      let i := Instr.lineMode p l mode
      let u := before i p s
      let x := u.line l
      let run := decide (mode = 0)
      let reply := fun (t : State) => be8 (t.line l).stops.mask ++ be8 (if (t.line l).wantedRun then 0 else 1)
      let v := u.setLine l { x with opRun := run, stops := { x.stops with operator := !run } }
      let w := boosterSync l v
      (l < 2 → mode < 2 →
        (x.opRun = run → Executes i p s (reply u) u) ∧
          (x.opRun ≠ run →
            ∃ t, Executes i p s (reply t) t ∧ t = finish w ∧ Floor v w ∧ Floor w t ∧
              (run = true → s.dayRuns = true → 0 < x.booster → (u.consumer (24 + l)).request = 0 →
                w = request (24 + l) x.booster v ∧ (w.consumer (24 + l)).request = x.booster) ∧
              (run = false → (w.consumer (24 + l)).request = 0 ∧ (w.consumer (24 + l)).grant = 0))) ∧
        (2 ≤ l ∨ 2 ≤ mode → RefusedWith i p s .range)) ∧
    (∀ (l : Nat) (s : State),
      let x := s.line l
      let pressed := fun (b : Bool) => s.setLine l { x with stops := { x.stops with backpressure := b } }
      let wanted := decide (x.stops = ⟨false, false, false, false, false⟩)
      let y := s.consumer (24 + l)
      let calls := x.opRun = true ∧ (s.day.state = .service ∨ s.day.state = .closing) ∧ 0 < x.booster
      (x.high ≤ x.exits.length → backpressure l s = pressed true) ∧
        (x.exits.length < x.high → x.exits.length ≤ x.low → backpressure l s = pressed false) ∧
        (x.low < x.exits.length → x.exits.length < x.high → backpressure l s = s) ∧
        (∀ u, (x.wantedRun = wanted → conveyorSync u l s = s) ∧
          (x.wantedRun ≠ wanted → conveyorSync u l s =
            claimSet x.addr (.line l) (.line wanted) u (s.setLine l { x with wantedRun := wanted }))) ∧
        (∀ run, (x.running = run → setRunning l run s = s) ∧
          (x.running ≠ run → setRunning l run s =
            raise (if run then .lineRunning else .lineStopped) l x.stops.mask (if wanted then 0 else 1)
              (s.setLine l { x with running := run }))) ∧
        (calls → boosterSync l s = if y.request = 0 then request (24 + l) x.booster s else s) ∧
        (¬calls → boosterSync l s = if 0 < y.request ∨ 0 < y.grant then release (24 + l) s else s)) ∧
    ∀ s t : State, Sized s → PowerStops s → step s = .next t → PowerStops t

/-- COURSE_READ, CABINET_READ and RACK_READ carry their records in R185's encoding, and change nothing (R50, R75, R99):
field by field in the order of the rules' lists; a list part carries the entries that fit from its start position, and
the length of the whole list. (The order, and that the length follows also where the whole list fits, are log 25; the
batch of a course that stands in no list, and the presence byte before a fire time, are log 9; wanted ON 0, OFF 1, door
OPEN 0, CLOSED 1 are log 8.) -/
def Obligations.KitchenReadsCarryTheirFields : Prop :=
  (∀ (p : Port) (c z : Nat) (s : State), Ready p s → c < 32 →
     let x := s.course c
     let own := s.earmarks.filter fun e => e.course = c ∧ z ≤ e.cab
     (Executes (.courseRead p c 0 z) p s
       (be8 x.state.code ++ be8 x.fn ++ be8 x.cls ++ be16 x.covers ++
         (match x.batch with
          | none => be8 0
          | some b =>
            be8 1 ++ be8 b.oven ++ be8 b.shelves ++ beTemp b.setpoint ++ be16 b.cook ++ be16 b.overHold ++
              (match s.batchOf c with
               | some y => be8 y.state.code ++ be16 y.remaining
               | none =>
                 be8 (if x.state = .planned then 0xFF else BatchState.removed.code) ++ be16 0xFFFF)) ++
         be8 x.station ++
         (match x.fireTime with
          | none => be8 0
          | some t => be8 1 ++ be32 t) ++
         beOpt16 x.fireSeq ++ be16 x.owed ++ be16 x.plated ++ be16 x.returned ++ beFlag x.ovenFault ++
         beFlag x.shortPaged ++ beFlag x.overHoldPaged ++ be16 (s.earmarkedFor c) ++
         beFlag (decide (x.state ≠ .empty) && s.warmFor c)) s) ∧
       (z < 24 → Executes (.courseRead p c 1 z) p s
         (((own.take 12).map fun e => be8 e.cab ++ be16 e.count).flatten ++ be8 (own.drop 12).length) s)) ∧
  (∀ (p : Port) (k z : Nat) (s : State), Ready p s → k < 24 →
     let c := s.cab k
     let part := fun (n fit : Nat) (entries : List (List Byte)) =>
       Executes (.cabinetRead p k n z) p s (((entries.drop z).take fit).flatten ++ be8 entries.length) s
     (Executes (.cabinetRead p k 0 z) p s
       (be8 c.kind.code ++ beOpt8 c.addr ++ be8 c.state.code ++ be8 (if c.wantedOn then 0 else 1) ++ beTemp c.setpoint ++
         be8 c.band ++ be16 c.heat ++ be16 c.hold ++ be16 c.standby ++ be16 (s.consumer k).grant ++ beTemp c.temp ++
         be8 c.level.code ++ be16 c.draw ++ be8 (if c.live.doorOpen then 0 else 1) ++ be8 c.live.mask ++
         be8 c.latchedSet.mask ++ beFlag c.latched ++ beFlag c.stale ++
         (if c.kind = .warmer then
           beOpt8 c.cls ++ be16 c.capacity ++ be16 (total (c.lots.map (·.count))) ++ be16 (s.earmarkedAt k) ++
             be16 (s.readyPlates k) ++ be16 (total (c.routes.map fun r => r.count - r.loaded))
          else [])) s) ∧
       (z < 24 →
         part 1 6 (c.lots.map fun l => be16 l.count ++ beOpt32 l.warmFrom ++ beFlag (l.warm (s.dwellOf c) s.day.clock)) ∧
           part 2 4 (c.batches.map fun b =>
             be8 b.course ++ be8 b.shelves ++ be8 b.state.code ++ be16 b.remaining ++ beOpt32 b.doneAt) ∧
           part 3 8 (c.routes.map fun r => be8 r.line ++ be16 r.tag ++ be8 r.count ++ be8 r.loaded))) ∧
    ∀ (p : Port) (l i : Nat) (r : Rack) (s : State), Ready p s → l < 2 →
      let x := s.line l
      let racks := x.staged ++ x.inside ++ x.exits
      let record :=
        be16 r.tag ++ be8 r.cls ++ be8 r.count ++ be8 r.fn ++ be8 (x.stateOf r.tag) ++ beOpt8 (r.reason.map HoldReason.code) ++
          beOpt32 r.entry ++ be16 r.transit ++ beOpt8 r.dest ++ beOpt32 r.routeTime ++ be8 r.loaded ++ beFlag r.noticed
      racks[i]? = some r →
        (i < 12 → Executes (.rackRead p l 1 i) p s (record ++ be8 racks.length) s) ∧
          ((∀ j y, j < i → racks[j]? = some y → y.tag ≠ r.tag) →
            Executes (.rackRead p l 0 r.tag) p s (record ++ be8 i ++ be8 racks.length) s)

/-- RACK_ANNOUNCE (R81, R7): a STAGED rack joins the staged section's tail with every other field absent, 0 or clear,
and its plates go from SOILED to WASHING; the reply carries the queue length. The refusals in R81's order. -/
def Obligations.RackAnnounceStagesRack : Prop :=
  ∀ (p : Port) (l tag cls n : Nat) (g : Option Nat) (s : State),
    let i := Instr.rackAnnounce p l tag cls n (match g with | none => .absent | some f => .present f)
    Admitted i p s → Sized s →
    let u := before i p s
    let x := u.line l
    let w := u.ware cls
    let fn := g.getD x.defFn
    let queue := x.staged ++ x.inside ++ x.exits
    let good := l < 2 ∧ cls < 8 ∧ 1 ≤ n ∧ n ≤ 60 ∧ (∀ f, g = some f → f < 8) ∧ ∀ r ∈ queue, r.tag ≠ tag
    let known := (u.fn fn).used = true
    let open' := s.day.state = .opening ∨ s.day.state = .service
    (good → known → open' → queue.length < 12 → n ≤ w.soiled →
      Executes i p s (be8 (queue.length + 1))
        ((u.setWare cls { w with soiled := w.soiled - n, washing := w.washing + n }).setLine l
          { x with staged := x.staged ++ [⟨tag, cls, n, fn, none, none, 0, none, none, 0, false⟩] })) ∧
      (¬good → RefusedWith i p s .range) ∧ (good → ¬known → RefusedWith i p s .notFound) ∧
      (good → known → ¬open' → RefusedWith i p s .badState) ∧
      (good → known → open' → 12 ≤ queue.length → RefusedWith i p s .full) ∧
      (good → known → open' → queue.length < 12 → w.soiled < n → RefusedWith i p s .short)

/-- RACK_RELEASE (R87), REWASH 0 and SOIL 1: the HELD rack's plates go back to WASHING and the rack to the staged tail,
or its plates to SOILED and the rack off the line with RACK_LEFT SOILED. RACK_CLEAR (R88): the AT_EXIT rack leaves, its
route gone from its cabinet, its plates standing in CLEAN, with RACK_LEFT CLEARED. The watermarks are applied to the new
occupancy (R93), and a routing pass of the line follows (R89). Both refuse a tag not on the line with NOT_FOUND and a
rack of another state with BAD_STATE. -/
def Obligations.RackReleaseAndClear : Prop :=
  ∀ (p : Port) (l tag action : Nat) (s : State), Sized s → l < 2 →
    (Admitted (.rackRelease p l tag action) p s → action < 2 →
      let i := Instr.rackRelease p l tag action
      let u := before i p s
      let x := u.line l
      let left := x.exits.filter fun y => y.tag ≠ tag
      let found := x.exits.find? fun y => y.tag = tag
      (∀ r why, found = some r → r.reason = some why →
        let restaged := (carried r .held .washing u).setLine l
          { x with
            exits := left,
            staged := x.staged ++ [⟨r.tag, r.cls, r.count, r.fn, none, none, 0, none, none, 0, false⟩] }
        let soiled := raise .rackLeft l tag 0x02FF ((carried r .held .soiled u).setLine l { x with exits := left })
        let executes := fun (w : State) =>
          ∃ t, Executes i p s (be8 (t.line l).exits.length) t ∧ t = finish (callRoute l (backpressure l w)) ∧ Floor w t
        (action = 0 → s.day.state ≠ .closing → executes restaged) ∧ (action = 1 → executes soiled) ∧
          (action = 0 → s.day.state = .closing → RefusedWith i p s .badState)) ∧
        ((∀ r ∈ x.staged ++ x.inside ++ x.exits, r.tag ≠ tag) → RefusedWith i p s .notFound) ∧
        ((∃ r ∈ x.staged ++ x.inside ++ x.exits, r.tag = tag) → (∀ r, found = some r → r.reason = none) →
          RefusedWith i p s .badState)) ∧
    (Admitted (.rackClear p l tag) p s →
      let i := Instr.rackClear p l tag
      let u := before i p s
      let x := u.line l
      let left := x.exits.filter fun y => y.tag ≠ tag
      let found := x.exits.find? fun y => y.tag = tag
      (∀ r, found = some r → r.reason = none →
        let w := raise .rackLeft l tag 0x01FF ((unrouted l tag r.dest u).setLine l { x with exits := left })
        ∃ t, Executes i p s (be8 (r.count - r.loaded)) t ∧ t = finish (callRoute l (backpressure l w)) ∧ Floor w t ∧
          ∀ k, k < 24 → r.dest = some k → ∀ y ∈ (w.cab k).routes, ¬(y.line = l ∧ y.tag = tag)) ∧
        ((∀ r ∈ x.staged ++ x.inside ++ x.exits, r.tag ≠ tag) → RefusedWith i p s .notFound) ∧
        ((∃ r ∈ x.staged ++ x.inside ++ x.exits, r.tag = tag) → (∀ r, found = some r → r.reason ≠ none) →
          RefusedWith i p s .badState))

/-- A rack whose transit seconds are at the limit becomes HELD for TRANSIT (R85); a route that has run out ends, with
ROUTE_EXPIRED, and the rack keeps what was loaded (R91). A rack becomes HELD (R86): it stands at the exit section's
tail, its plates are HELD, RACK_HELD is raised and the dish team paged. A dish machine's report (R82, R94): the rinse
with its flag, the events, the wanted conveyor, the actual one, the draw, and the wanted conveyor again (the order is
log 2). Its events: all of them while the last applied one is unset; otherwise those 1 to 127 behind it, a gap noticed.
ENTER (R83) moves its STAGED rack to the machine's tail; EXIT (R84) takes its rack to the exit section's tail, its
plates CLEAN, where the rinse reaches the sanitize minimum, and HELD otherwise, the racks ahead of it HELD for SKIPPED
first; a tag not there raises RACK_UNKNOWN. A routing pass (R89) takes in exit order the AT_EXIT racks without a
destination, in STRICT mode only those before the first HELD rack. The candidates of a rack are the warmers of its class
and member set that take routes and have room for its remaining plates; FILL takes the lowest slot, ROUND the first
after the round pointer, cyclically, which it moves, SPREAD the one at tag mod their number (R90). Its route stands in
the warmer's list, whose sleep timer stops (a SLEEP warmer wakes), destination and time in the rack, and RACK_ROUTED is
raised; with no candidate RACK_UNROUTED is, once. -/
def Obligations.RackEventsAndTimersAct : Prop :=
  (∀ (l tag : Nat) (r : Rack) (s : State), s.day.resetLow = false → Sized s → l < 2 →
     let x := s.line l
     (x.inside.find? (fun y => y.tag = tag) = some r → x.transitJudged ≤ r.transit →
       let w := s.setLine l { x with inside := x.inside.filter fun y => y.tag ≠ r.tag }
       exec (.transitLimit l tag) s = .next (finish (backpressure l (holdRack l r .transit w)))) ∧
       (∀ k a, x.exits.find? (fun y => y.tag = tag) = some r → r.dest = some k → r.routeTime = some a →
         a + x.routeTimeout ≤ s.day.clock →
         let w := (raise .routeExpired l tag k (unrouted l tag (some k) s)).setLine l
           { x with exits := x.exits.map fun y => if y.tag = tag then { y with dest := none, routeTime := none } else y }
         exec (.routeTimeout l tag) s = .next (finish (callRoute l w)))) ∧
  (∀ (l : Nat) (r : Rack) (why : HoldReason) (s : State), Sized s → l < 2 →
     let x := s.line l
     let held := raise .rackHeld l r.tag why.code
       (carried r .washing .held (s.setLine l { x with exits := x.exits ++ [{ r with reason := some why }] }))
     let dish := Target.team s.paging.settings.dish
     holdRack l r why s = callClose
       (if why = .transit then claimPage dish 0x07 r.tag .rush none held else claimPage dish 0x06 r.tag .normal none held)) ∧
  (∀ (l : Nat) (rep : WasherRep) (s : State), Sized s → l < 2 →
     let x := s.line l
     let rinsed := s.setLine l { x with rinse := rep.rinse }
     let judged :=
       if x.sanMin ≤ rep.rinse then s.setLine l { x with rinse := rep.rinse, rinseLow := false }
       else if x.running = true ∧ x.rinseLow = false then
         raise .lineRinseLow l (tempCode rep.rinse) (tempCode x.sanMin) (rinsed.setLine l { rinsed.line l with rinseLow := true })
       else rinsed
     let moved := conveyorSync false l (applyEvents l rep.events judged)
     let y := moved.line l
     let ran :=
       if y.running = rep.running then moved
       else
         raise (if rep.running then .lineRunning else .lineStopped) l y.stops.mask (if y.stops.isEmpty then 0 else 1)
           (moved.setLine l { y with running := rep.running })
     applyWasherReport l rep s = conveyorSync false l (powerReport (24 + l) rep.draw (powerTry ran))) ∧
  (∀ (l : Nat) (es : List RackEvent) (s : State),
     ((s.line l).lastEvent = none → applyEvents l es s = es.foldl (fun t e => applyEvent l e t) s) ∧
       ((s.line l).lastEvent ≠ none → applyEvents l es s = es.foldl (fun t e => windowEvent l e t) s) ∧
       ∀ e last, (s.line l).lastEvent = some last →
         let q := match e with | .enter q _ => q | .exit q _ _ => q
         let behind := (q + 256 - last % 256) % 256
         (behind = 0 ∨ 128 ≤ behind → windowEvent l e s = s) ∧ (behind = 1 → windowEvent l e s = applyEvent l e s) ∧
           (2 ≤ behind → behind ≤ 127 →
             windowEvent l e s = applyEvent l e (raise .lineEventGap l ((last + 1) % 256) q s))) ∧
  (∀ (l q tag : Nat) (rinse : Int) (s : State), Sized s → l < 2 →
      let x := s.line l
      (∀ r, x.staged.find? (fun y => y.tag = tag) = some r →
        applyEvent l (.enter q tag) s =
          s.setLine l
            { x with
              lastEvent := some q, staged := x.staged.filter fun y => y.tag ≠ tag,
              inside := x.inside ++ [{ r with entry := some s.day.clock, transit := 0 }] }) ∧
        (x.staged.find? (fun y => y.tag = tag) = none →
          applyEvent l (.enter q tag) s =
            raise .rackUnknown l tag (pair 0 (x.stateOf tag)) (s.setLine l { x with lastEvent := some q })) ∧
        (x.inside.find? (fun y => y.tag = tag) = none →
          applyEvent l (.exit q tag rinse) s =
            raise .rackUnknown l tag (pair 1 (x.stateOf tag)) (s.setLine l { x with lastEvent := some q })) ∧
        ∀ ahead r rest, x.inside = ahead ++ r :: rest → r.tag = tag → (∀ y ∈ ahead, y.tag ≠ tag) →
          (∀ y ∈ rest, y.tag ≠ tag ∧ y ∉ ahead) →
          let v := ahead.foldl (fun t y => holdRack l y .skipped t) (s.setLine l { x with lastEvent := some q, inside := rest })
          (rinse < x.sanMin → applyEvent l (.exit q tag rinse) s = backpressure l (holdRack l r .rinse v)) ∧
            (x.sanMin ≤ rinse →
              applyEvent l (.exit q tag rinse) s = routingPass l (backpressure l (callClose
                (carried r .washing .clean (v.setLine l { v.line l with exits := (v.line l).exits ++ [r] })))))) ∧
  (∀ (l : Nat) (s : State),
     let x := s.line l
     let seen := if x.strict then x.exits.takeWhile fun r => r.reason = none else x.exits
     routingPass l s = (seen.filter fun r => r.reason = none ∧ r.dest = none).foldl (fun t r => routeRack l r t) s) ∧
    ∀ (l : Nat) (r : Rack) (s : State),
      let f := s.fn r.fn
      let serves := fun (k : Nat) =>
        let c := s.cab k
        c.kind = .warmer ∧ c.cls = some r.cls ∧ f.members.testBit k = true ∧
          (c.state = .holding ∨ c.state = .heating ∨ c.state = .waitPower ∨ c.state = .shed ∨ c.state = .sleep) ∧
          total (c.lots.map (·.count)) + total (c.routes.map fun y => y.count - y.loaded) + (r.count - r.loaded) ≤ c.capacity
      let cands := (List.range 24).filter fun k => serves k
      let chosen := fun (k : Nat) =>
        match f.mode with
        | .fill => cands.head? = some k
        | .round => ((cands.filter fun j => f.round < j) ++ (cands.filter fun j => j ≤ f.round)).head? = some k
        | .spread => cands[r.tag % cands.length]? = some k
      let marked := fun (g : Rack → Rack) (v : State) =>
        v.setLine l { v.line l with exits := (v.line l).exits.map fun y => if y.tag = r.tag then g y else y }
      (cands = [] → routeRack l r s =
        if r.noticed then s else raise .rackUnrouted l r.tag r.count (marked (fun y => { y with noticed := true }) s)) ∧
        (cands ≠ [] → ∃ k, chosen k) ∧
        ∀ k, chosen k →
          let v := if f.mode = .round then s.setFn r.fn { f with round := k } else s
          let c := v.cab k
          let w := v.setCab k { c with routes := c.routes ++ [⟨l, r.tag, r.count - r.loaded, 0⟩], sleepT := none }
          let u := if c.state = .sleep then requestHeat k w else w
          routeRack l r s = raise .rackRouted l r.tag k
            (marked (fun y => { y with dest := some k, routeTime := some u.day.clock }) u)

/-! ### Power and energy (R101–R118) -/

/-- BUDGET_SET (R110) writes the budget and revokes grants, consumer by consumer, until the grant sum is within it;
each of the consumers revoked is left its shed level, marked, and asks for its full units again. One victim of R107's
order (AdmissionAndSettleTimer says it) is shed at a time, with SHED for BUDGET, and none once the sum fits. Then it
tries admission and the restore check, and raises BUDGET_CHANGED with the new and the old budget (in that order: log
27); the reply carries the budget, the grant sum and how many consumers were revoked. POWER_SET (R111) writes the
watermarks, the modes (ON 0, OFF 1; TRUNCATE 0, NEAREST_EVEN 1) and the boosters' protection, and makes the shed check,
admission and the restore check. -/
def Obligations.PowerSettingsWritten : Prop :=
  ∀ (p : Port) (s : State), Sized s →
    (∀ n, Admitted (.budgetSet p n) p s →
      let i := Instr.budgetSet p n
      let u := before i p s
      let good := n ≤ 2500 ∧ s.power.shedHigh ≤ n
      let cut := u.withPower { u.power with budget := n }
      let v := (revoke 26 0 cut).1
      let fell := fun (c : Nat) => (v.consumer c).grant < (s.consumer c).grant
      let m := ((List.range 26).filter fun c => fell c).length
      (good → s.protectedSum ≤ n →
        ∃ t, Executes i p s (be16 n ++ be16 t.grantSum ++ be8 m) t ∧
          t = finish (raise .budgetChanged 0 n s.power.budget (powerTry (callRestore v))) ∧ t.grantSum ≤ n ∧
          v.grantSum ≤ n ∧ (s.grantSum ≤ n → v = cut) ∧ Bedrock cut v ∧ Bedrock v t ∧
          ∀ c, c < 26 →
            (¬fell c → v.consumer c = s.consumer c) ∧
              (fell c → s.tier c ≠ 5 ∧ (v.consumer c).grant = s.shedLevel c ∧ (v.consumer c).request = s.fullUnits c ∧
                (v.consumer c).mark = true ∧ (c < 24 → (v.cab c).state = .shed))) ∧
        (¬good → RefusedWith i p s .range) ∧ (good → n < s.protectedSum → RefusedWith i p s .conflict)) ∧
    (∀ a, Admitted (.powerSet p a) p s →
      let i := Instr.powerSet p a
      let u := before i p s
      let good := a.low < a.high ∧ a.high ≤ s.power.budget ∧ a.saturation < 2 ∧ a.rounding < 2 ∧ a.prot0 < 2 ∧ a.prot1 < 2
      let w := u.withPower { u.power with
        shedHigh := a.high, shedLow := a.low, saturate := decide (a.saturation = 0),
        nearestEven := decide (a.rounding = 1), protected0 := decide (a.prot0 = 0),
        protected1 := decide (a.prot1 = 0) }
      (good → ∃ t, Executes i p s [] t ∧ t = finish (powerTry (callRestore (shedCheck w))) ∧ Bedrock w t) ∧
        (¬good → RefusedWith i p s .range)) ∧
    ∀ k n : Nat,
      revoke 0 n s = (s, n) ∧ (s.grantSum ≤ s.power.budget ∨ s.victim = none → revoke k n s = (s, n)) ∧
        ∀ v, s.power.budget < s.grantSum → s.victim = some v →
          let x := s.consumer v
          let low := s.setConsumer v
            { x with grant := s.shedLevel v, request := s.fullUnits v, mark := true, reqTime := some s.day.clock }
          revoke (k + 1) n s = revoke k (n + 1)
            (raise .shed v 1 (x.grant - s.shedLevel v) (if v < 24 then changeState v .shed true low else low))

/-- ADMISSION (R105): the first unmarked entry of the wait list is granted its request where that fits the budget, a
cabinet then heats, and the walk goes on behind it; where it does not fit, no entry is granted. The settle timer's
expiry (R107): it stops, and the shed check, admission and the restore check are made. The shed check: in SERVICE and
CLOSING, while the timer is stopped and the measured total is above SHED_HIGH, the victim is shed to its shed level,
marked, asking for its full units, the timer runs for 2 s and SHED is raised; with no victim POWER_OVER_UNRESOLVED is
raised, once. The victim is a candidate of the lowest tier, with the largest grant of that tier, and the highest number
of those. The restore check (R108): with the timer stopped and the measured total not above SHED_LOW, the first marked
entry, if it fits, is granted, and the timer runs for 2 s (that a cabinet heats through WAIT_POWER is log 15). The wait
list holds the consumers whose request is above their grant, by restore class (protected 0, then tiers 4 to 1), in a
class by request time, and at equal times by number (R104). The checks that a step has called for end it, in the order
of log 2: admission and then the restore check, the completion test, the routing passes of line 0 and of line 1 (R89),
again while one calls for another; then the wanted conveyors, the sleep timers and the poll classes. -/
def Obligations.AdmissionAndSettleTimer : Prop :=
  let granted := fun (c : Nat) (s : State) =>
    s.setConsumer c { s.consumer c with grant := (s.consumer c).request, mark := false, reqTime := none }
  let fits := fun (c : Nat) (s : State) =>
    s.grantSum + ((s.consumer c).request - (s.consumer c).grant) ≤ s.power.budget
  (∀ s : State, s.day.resetLow = false →
     let entries := s.waitList.filter fun x => (s.consumer x).mark = false
     (entries = [] → exec .admission s = .next (finish s)) ∧
       ∀ c rest, entries = c :: rest →
         let w := if c < 24 then changeState c .heating false (granted c s) else granted c s
         (fits c s → exec .admission s = .next (finish (admitWalk rest w)) ∧
           (Sized s → (w.consumer c).grant = (s.consumer c).request ∧ Floor s w ∧ Floor w (finish (admitWalk rest w)) ∧
             (c < 24 → (w.cab c).state = .heating))) ∧
           (¬fits c s → exec .admission s = .next (finish s))) ∧
  (∀ s : State, s.day.resetLow = false → s.power.settle = some 0 →
     let v := shedCheck (s.withPower { s.power with settle := none })
     exec .settleTimerExpiry s = .next (finish (powerTry (callRestore v))) ∧
       (Sized s → Bedrock s v ∧ Bedrock v (finish (powerTry (callRestore v))))) ∧
  (∀ s : State,
     let high := s.dayRuns = true ∧ s.power.settle = none ∧ s.power.shedHigh < s.measuredTotal
     (¬high → shedCheck s = s) ∧
       (high → s.victim = none → s.power.unresolved = true → shedCheck s = s) ∧
       (high → s.victim = none → s.power.unresolved = false →
         shedCheck s = raise .powerOverUnresolved 0 s.measuredTotal s.power.shedHigh
           (s.withPower { s.power with unresolved := true })) ∧
       (s.victim = none → ∀ d, d < 26 → s.tier d = 5 ∨ (s.consumer d).grant ≤ s.shedLevel d) ∧
       ∀ v, s.victim = some v →
         (v < 26 ∧ s.tier v ≠ 5 ∧ s.shedLevel v < (s.consumer v).grant ∧
           ∀ d, d < 26 → s.tier d ≠ 5 → s.shedLevel d < (s.consumer d).grant →
             s.tier v < s.tier d ∨ s.tier v = s.tier d ∧
               ((s.consumer d).grant < (s.consumer v).grant ∨ (s.consumer d).grant = (s.consumer v).grant ∧ d ≤ v)) ∧
           (high →
             let x := s.consumer v
             let low := s.setConsumer v
               { x with grant := s.shedLevel v, request := s.fullUnits v, mark := true, reqTime := some s.day.clock }
             let w := raise .shed v 0 (x.grant - s.shedLevel v) (if v < 24 then changeState v .shed true low else low)
             shedCheck s = w.withPower { w.power with settle := some 2 } ∧
               (Sized s → (w.consumer v).grant = s.shedLevel v ∧ (w.consumer v).request = s.fullUnits v ∧
                 (w.consumer v).mark = true ∧ (v < 24 → (w.cab v).state = .shed)))) ∧
  (∀ s : State,
      let calm := s.dayRuns = true ∧ s.power.settle = none ∧ s.measuredTotal ≤ s.power.shedLow
      let entries := s.waitList.filter fun x => (s.consumer x).mark = true
      (¬calm → restoreCheck s = s) ∧ (entries = [] → restoreCheck s = s) ∧
        ∀ c rest, entries = c :: rest →
          (¬fits c s → restoreCheck s = s) ∧
            (Sized s → calm → fits c s →
              let v := granted c s
              let w := raise .restore c (s.consumer c).request s.measuredTotal
                (if c < 24 then changeState c .heating false (changeState c .waitPower false v) else v)
              restoreCheck s = w.withPower { w.power with settle := some 2 } ∧
                (w.consumer c).grant = (s.consumer c).request ∧ (w.consumer c).mark = false ∧
                (c < 24 → (w.cab c).state = .heating))) ∧
  (∀ s : State,
     let cls := fun (c : Nat) => 5 - s.tier c
     let time := fun (c : Nat) => (s.consumer c).reqTime.getD 0
     (∀ c, c ∈ s.waitList ↔ c < s.power.consumers.length ∧ (s.consumer c).grant < (s.consumer c).request) ∧
       s.waitList.Pairwise fun a b => cls a < cls b ∨ cls a = cls b ∧ (time a < time b ∨ time a = time b ∧ a < b)) ∧
    ∀ (n : Nat) (s : State),
      let k := s.calls
      let power := s.withCalls { k with admission := false, restore := false }
      let tried :=
        if k.admission then admitWalk (power.waitList.filter fun x => (power.consumer x).mark = false) power else power
      let v := settle 1000 s
      let synced := forEach (List.range 24) sleepSync (conveyorSync false 1 (conveyorSync false 0 v))
      powerTry s = (if k.restore then restoreCheck tried else tried) ∧
        settle 0 s = s ∧
        settle (n + 1) s =
          (if k.admission = true ∨ k.restore = true then settle n (powerTry s)
           else if k.close then settle n (closeTest s)
           else if k.route0 then settle n (routingPass 0 (s.withCalls { k with route0 := false }))
           else if k.route1 then settle n (routingPass 1 (s.withCalls { k with route1 := false }))
           else s) ∧
        finish s = (refreshPolls synced).withCalls ⟨false, false, false, false, false⟩

/-- The grant law (R105, R110), kept by every step: the sum of the grants is within the budget. -/
def Obligations.GrantsStayWithinBudget : Prop := ∀ s t : State, Sized s → GrantLaw s → step s = .next t → GrantLaw t

/-- An addition to a meter (R115), ENERGY_LOAD (R117), ENERGY_READ and ENERGY_READ_RAW (R116). -/
def Obligations.MetersAddLoadAndRead : Prop :=
  (∀ (m e : Nat) (s : State),
    let x := s.meter m
    let sum := x.raw + e
    (sum ≤ 4294967295 → addMeter m e s = s.setMeter m { x with raw := sum }) ∧
      (4294967295 < sum →
        let y : Meter := ⟨if s.power.saturate then 4294967295 else sum - 4294967296, true⟩
        (x.overflow = true → addMeter m e s = s.setMeter m y) ∧
          (x.overflow = false →
            addMeter m e s = raise .meterOverflow m (if s.power.saturate then 0 else 1) 0 (s.setMeter m y)))) ∧
    (∀ (p : Port) (m raw : Nat) (s : State), Admitted (.energyLoad p m raw) p s →
      let i := Instr.energyLoad p m raw
      let u := before i p s
      (m < 34 → Executes i p s (be32 (s.meter m).raw ++ beFlag (s.meter m).overflow) (u.setMeter m ⟨raw, false⟩)) ∧
        (34 ≤ m → RefusedWith i p s .range)) ∧
    ∀ (p : Port) (m : Nat) (s : State), Ready p s →
      let x := s.meter m
      let q := x.raw / 360
      let r := x.raw % 360
      (m < 34 →
        (s.power.nearestEven = false → Executes (.energyRead p m) p s (be32 q ++ beFlag x.overflow) s) ∧
          (s.power.nearestEven = true → r < 180 ∨ r = 180 ∧ q % 2 = 0 →
            Executes (.energyRead p m) p s (be32 q ++ beFlag x.overflow) s) ∧
          (s.power.nearestEven = true → 180 < r ∨ r = 180 ∧ q % 2 = 1 →
            Executes (.energyRead p m) p s (be32 (q + 1) ++ beFlag x.overflow) s) ∧
          Executes (.energyReadRaw p m) p s (be32 x.raw ++ beFlag x.overflow) s) ∧
        (34 ≤ m → RefusedWith (.energyRead p m) p s .range ∧ RefusedWith (.energyReadRaw p m) p s .range)

/-! ### Paging (R120–R140) -/

/-- Pages are created (R125, R126). PAGE_SEND queues a page under the first id from the pointer on that no live page
has, with the page that must give way DROPPED first, and a selection pass follows; the reply carries the id; RANGE, and
FULL where no page can give way. A block's claim is queued the same way, and raises PAGE_DROPPED for team 0 (NO_TEAM 1)
and for a queue without room (FULL 0). The page that gives way is QUEUED, not in delivery and holds no level, of a lower
priority than the new page and of the lowest of these, and the oldest of that priority; its outcome is DROPPED. -/
def Obligations.PagesAreCreated : Prop :=
  (∀ (p : Port) (kind value code arg prio : Nat) (s : State), Admitted (.pageSend p kind value code arg prio) p s →
    let i := Instr.pageSend p kind value code arg prio
    let u := before i p s
    let validTarget := fun (tg : Target) =>
      kind = tg.kindCode ∧ value = tg.value ∧
        match tg with
        | .pager a => 0x10 ≤ a ∧ a ≤ 0xEF
        | .team t => 1 ≤ t ∧ t ≤ 14
        | .all => True
    (∀ tg (pr : Prio), validTarget tg → prio = pr.code → 0x80 ≤ code →
      let queued := fun (v : State) =>
        ∃ id t, Executes i p s (be8 id) t ∧ Floor (created id tg code arg pr (.port p) none v) t ∧
          t = finish (selectPass (created id tg code arg pr (.port p) none v)) ∧ v.page id = none ∧
          ∃ j, j < 256 ∧ id = (v.paging.nextId + j) % 256 ∧
            ∀ j', j' < j → v.page ((v.paging.nextId + j') % 256) ≠ none
      (s.paging.pages.length < 32 → queued u) ∧
        (∀ g, s.paging.pages.length = 32 → u.evictable pr = some g → queued (endPage g.id .dropped u)) ∧
        (32 ≤ s.paging.pages.length → u.evictable pr = none → RefusedWith i p s .full)) ∧
      ((∀ tg, ¬validTarget tg) ∨ 4 ≤ prio ∨ code < 0x80 → RefusedWith i p s .range)) ∧
  (∀ (tg : Target) (code arg : Nat) (pr : Prio) (c : Option Nat) (s : State),
    let queued := fun (v : State) => selectPass (created v.freeId tg code arg pr .block c v)
    (tg = .team 0 → claimPage tg code arg pr c s = raise .pageDropped code (c.getD 0xFF) 1 s) ∧
      (tg ≠ .team 0 → s.paging.pages.length < 32 → claimPage tg code arg pr c s = queued s) ∧
      (∀ g, tg ≠ .team 0 → 32 ≤ s.paging.pages.length → s.evictable pr = some g →
        claimPage tg code arg pr c s = queued (endPage g.id .dropped s)) ∧
      (tg ≠ .team 0 → 32 ≤ s.paging.pages.length → s.evictable pr = none →
        claimPage tg code arg pr c s = raise .pageDropped code (c.getD 0xFF) 0 s)) ∧
    ∀ (pr : Prio) (s : State),
      let mayGo := fun (q : Page) => q.state = .queued ∧ q.inDelivery = false ∧ q.level = none ∧ pr.code < q.prio.code
      (s.evictable pr = none ↔ ∀ q ∈ s.paging.pages, ¬mayGo q) ∧
        ∀ g, s.evictable pr = some g →
          mayGo g ∧ (s.page g.id = some g → endPage g.id .dropped s = ended g 3 s) ∧
            ∃ pre post, s.paging.pages = pre ++ g :: post ∧ (∀ q ∈ pre, mayGo q → q.prio.code < g.prio.code) ∧
              ∀ q ∈ post, mayGo q → q.prio.code ≤ g.prio.code

/-- PAGE_CANCEL (R138): a page at the base or in delivery takes the cancel mark, any other becomes CANCELLED; the reply
carries the state in which the mark was set, or CANCELLED; NOT_FOUND where no live page has the id. (That a selection
pass follows in both cases is log 23.) -/
def Obligations.PageCancelMarksOrEnds : Prop :=
  ∀ (p : Port) (id : Nat) (s : State), Admitted (.pageCancel p id) p s →
    let i := Instr.pageCancel p id
    let u := before i p s
    (∀ g, s.page id = some g →
      (g.state = .handed ∨ g.inDelivery = true →
        let w := paged id (fun q => { q with cancelMark := true }) u
        ∃ t, Executes i p s (be8 g.state.code) t ∧ Floor w t ∧ t = finish (selectPass w)) ∧
        (g.state ≠ .handed → g.inDelivery = false →
          ∃ t, Executes i p s (be8 PageState.cancelled.code) t ∧ Floor (ended g 4 u) t ∧
            t = finish (selectPass (ended g 4 u)))) ∧
      (s.page id = none → RefusedWith i p s .notFound)

/-- PAGING_SET (R140) writes the settings, and a selection pass follows. A changed base address loses the old base
(R134): its pages come back, the queued DELIVERs leave the list, one in flight is void (R156), and the hold is clear;
the node at the old address is unbound, and one of type PAGE_BASE that answers at the new address is bound (R148). A
page that comes back is CANCELLED if it is marked; otherwise it is QUEUED in its place, its level released unless it
has been transmitted (R134), and EXPIRED if it was in delivery past its lifetime (R136; log 23). -/
def Obligations.PagingSetWritesSettings : Prop :=
  (∀ (p : Port) (a : PagingArgs) (age : Option Nat) (s : State), Admitted (.pagingSet p a) p s →
     let i := Instr.pagingSet p a
     let u := before i p s
     let good := 1 ≤ a.base ∧ a.base ≤ 31 ∧ 1 ≤ a.kitchen ∧ a.kitchen ≤ 14 ∧ 1 ≤ a.dish ∧ a.dish ≤ 14 ∧
       (a.rate = 2 ∨ a.rate = 4 ∨ a.rate = 8 ∨ a.rate = 16) ∧ (a.anti = 8 ∨ a.anti = 16) ∧ 60 ≤ a.rushLen ∧ a.rushLen ≤ 900
     let old := s.paging.settings.base
     let w := u.withPaging { u.paging with settings := ⟨some a.base, a.kitchen, a.dish, age, a.rate, a.anti, a.rushLen⟩ }
     let moved := renameFrom old (some a.base) (if old = none then w else baseLost w)
     let answers := fun (b : Nat) => (s.node b).presence = .present ∨ (s.node b).presence = .silent
     (good → a.age = 0 ∧ age = none ∨ a.age = 1 ∧ age = some 120 ∨ a.age = 2 ∧ age = some 600 → s.day.state = .opening →
       ∃ t, Executes i p s [] t ∧ Ground w t ∧
         (old = some a.base → Floor w t ∧ t = finish (selectPass w)) ∧
         (old ≠ some a.base → Floor moved t ∧ t = finish (selectPass moved) ∧
           (answers a.base → (s.node a.base).type = some .pageBase → (t.node a.base).binding = .base) ∧
           ∀ o, old = some o → answers o → (s.node o).type = some .pageBase → (t.node o).binding = .unbound)) ∧
       (¬good ∨ 3 ≤ a.age → RefusedWith i p s .range) ∧
       (good → a.age < 3 → s.day.state = .service ∨ s.day.state = .closing → RefusedWith i p s .badState)) ∧
  (∀ s : State,
     let atBase := s.paging.pages.filter fun q => q.state = .handed ∨ q.inDelivery = true
     let back := forEach (atBase.map (·.id)) returnPage s
     let kept := fun (l : List Tx) => l.filter fun x => !x.isDeliver
     let v := back.withBus { back.bus with
       urgent := kept back.bus.urgent, fetch := kept back.bus.fetch, ordinary := kept back.bus.ordinary,
       inflight := back.bus.inflight.map fun f => { f with isVoid := f.isVoid || f.tx.isDeliver } }
     baseLost s = selectPass (v.withPaging { v.paging with baseFull := false })) ∧
    ∀ (g : Page) (s : State), s.page g.id = some g →
      let back := paged g.id
        (fun q => { q with state := .queued, inDelivery := false, level := if q.resends = 0 then none else q.level }) s
      (g.cancelMark = true → returnPage g.id s = ended g 4 s) ∧
        (g.cancelMark = false → g.inDelivery = false ∨ s.day.clock < g.created + g.prio.lifetime → returnPage g.id s = back) ∧
        (g.cancelMark = false → g.inDelivery = true → g.created + g.prio.lifetime ≤ s.day.clock →
          returnPage g.id s = ended g 2 back)

/-- The timers of paging: directory entries past the presence age become ABSENT together, and DIRECTORY_FULL may be
raised again (R121, R122); a rush timer at its end stops (R127), a rate window at its end closes (R128), a SENT page at
its resend time is queued again or, after three resends, UNANSWERED (R135), and a QUEUED page past its lifetime is
EXPIRED (R136): a selection pass follows each of these four (after an outcome, log 23). (The age is the one judged by
the last service second, log 7.) -/
def Obligations.PagingTimersAct : Prop :=
  ∀ s : State, s.day.resetLow = false →
    (∀ n, s.paging.ageJudged = some n →
      let due := fun (e : Option Pager) => e.any fun g => g.present && decide (g.lastSeen + n ≤ s.day.clock)
      exec .presenceAgeExpiry s =
        .next (s.withPaging { s.paging with
          dir := s.paging.dir.map fun e => if due e then e.map fun g => { g with present := false } else e,
          dirFull := s.paging.dirFull && !s.paging.dir.any due })) ∧
      (s.paging.ageJudged = none → exec .presenceAgeExpiry s = .next s) ∧
      (∀ tm e, 1 ≤ tm → tm ≤ 14 → s.paging.rush.getD (tm - 1) none = some e → e ≤ s.day.clock →
        let w := s.withPaging { s.paging with rush := s.paging.rush.set (tm - 1) none }
        ∃ t, exec (.rushTimerEnd tm) s = .next t ∧ Floor w t ∧ t = finish (selectPass w)) ∧
      (∀ tm c e, 1 ≤ tm → tm ≤ 14 → s.paging.rates.getD (tm - 1) ⟨0, none⟩ = ⟨c, some e⟩ → e ≤ s.day.clock →
        let w := s.withPaging { s.paging with rates := s.paging.rates.set (tm - 1) ⟨0, none⟩ }
        ∃ t, exec (.rateWindowClose tm) s = .next t ∧ Floor w t ∧ t = finish (selectPass w)) ∧
      ∀ g, s.page g.id = some g →
        (∀ e, g.state = .sent → g.resendEnd = some e → e ≤ s.day.clock →
          let w :=
            if g.resends < 3 then
              paged g.id (fun q => { q with state := .queued, resends := q.resends + 1, resendEnd := none }) s
            else ended g 1 s
          ∃ t, exec (.resendTimerExpiry g.id) s = .next t ∧ Floor w t ∧ t = finish (selectPass w)) ∧
          (g.state = .queued → g.inDelivery = false →
            g.created + (match g.prio with | .urgent => 900 | .rush => 600 | .normal => 600 | .info => 120) ≤ s.day.clock →
            ∃ t, exec (.pageLifetimeExpiry g.id) s = .next t ∧ Floor (ended g 2 s) t ∧
              t = finish (selectPass (ended g 2 s)))

/-- HAND_OFF (R129–R131): while the base is PRESENT and bound and its hold clear, the page chosen is in delivery at its
level and its DELIVER queued. A page is eligible while it is QUEUED, not in delivery, and four conditions of R129 hold:
its target is reachable; no other page of the target holds a level at or above its standing; its team's rate is not
exhausted, or it is URGENT or to ALL; fewer than 2 pages are at the base. Its standing is the level it holds, else its
priority, a NORMAL one RUSH while its team's rush timer runs (R127). The choice is an eligible page of the highest
standing, the oldest of those; once the anti-starvation count has reached its setting, the oldest of standing NORMAL or
INFO if there is one (R130). There is a choice exactly where a page is eligible. INFO pages whose team's rate is
exhausted are DROPPED before each choice. A selection pass makes such choices while there is one, and so at most two.
(That HAND_OFF makes one choice of a pass, that INFO pages are dropped also while nothing can be handed off and after
the hand-off, and their order, the queue's, are log 23.) -/
def Obligations.HandOffGivesChosenPage : Prop :=
  let handed := fun (g : Page) (n : Nat) (d : State) =>
    let lv := d.standing g
    let w := paged g.id (fun q => { q with inDelivery := true, level := some lv })
      (d.withPaging { d.paging with anti := n })
    w.withBus { w.bus with
      ordinary := w.bus.ordinary ++ [.deliver (w.paging.settings.base.getD 0) g.id g.target g.code g.arg] }
  let stays := fun (d : State) => d.basePresent = false ∨ d.paging.baseFull = true ∨ d.choose = none
  let gives := fun (d : State) (g : Page) (n : Nat) =>
    d.basePresent = true ∧ d.paging.baseFull = false ∧ d.choose = some (g, n)
  let exhausted := fun (q : Page) (s : State) =>
    ∃ tm, 1 ≤ tm ∧ (q.target = .team tm ∨ ∃ a, q.target = .pager a ∧ tm = a / 16) ∧
      (s.paging.rates.getD (tm - 1) ⟨0, none⟩).ends ≠ none ∧
      s.paging.settings.rate ≤ (s.paging.rates.getD (tm - 1) ⟨0, none⟩).count
  (∀ s : State, s.day.resetLow = false →
    let d := dropInfo s
    (stays d → exec .handOff s = .next (finish d) ∧ Floor s (finish d)) ∧
      (∀ g n, gives d g n → ∃ t, exec .handOff s = .next t ∧ Floor s t ∧ t = finish (dropInfo (handed g n d))) ∧
      (d.basePresent = true → d.paging.baseFull = false → (∃ q ∈ d.paging.pages, d.eligiblePage q = true) →
        ∃ g n t, gives d g n ∧ exec .handOff s = .next t ∧ Floor s t ∧ t = finish (dropInfo (handed g n d)))) ∧
  (∀ (m : Nat) (s : State),
    let d := dropInfo s
    selectPass s = selectUpTo 2 s ∧ selectUpTo 0 s = d ∧ (stays d → selectUpTo (m + 1) s = d) ∧
      ∀ g n, gives d g n → selectUpTo (m + 1) s = selectUpTo m (handed g n d)) ∧
  (∀ s : State, ∃ l : List Page,
    (s.basePresent = true ↔
      ∃ a, s.paging.settings.base = some a ∧ (s.node a).presence = .present ∧ (s.node a).binding = .base) ∧
      dropInfo s = forEach (l.map (·.id)) (fun id => endPage id .dropped) s ∧ l.Sublist s.paging.pages ∧
      (∀ q, q ∈ l ↔
        q ∈ s.paging.pages ∧ q.state = .queued ∧ q.inDelivery = false ∧ q.prio = .info ∧ exhausted q s) ∧
      ∀ g, s.page g.id = some g → endPage g.id .dropped s = ended g 3 s) ∧
  (∀ (q : Page) (s : State),
    let reachable :=
      match q.target with
      | .pager a => ∃ e, some e ∈ s.paging.dir ∧ e.addr = a ∧ e.present = true
      | .team tm => ∃ e, some e ∈ s.paging.dir ∧ e.addr / 16 = tm ∧ e.present = true
      | .all => True
    let levelFree := ∀ y ∈ s.paging.pages, y.id ≠ q.id → y.target = q.target → ∀ v, y.level = some v →
      (s.standing q).code < v.code
    let room := (s.paging.pages.filter fun y => y.state = .handed ∨ y.inDelivery = true).length < 2
    let rush := ∃ tm, 1 ≤ tm ∧ (q.target = .team tm ∨ ∃ a, q.target = .pager a ∧ tm = a / 16) ∧
      s.paging.rush.getD (tm - 1) none ≠ none
    (s.eligiblePage q = true ↔
      q.state = .queued ∧ q.inDelivery = false ∧ reachable ∧ levelFree ∧ ¬(q.prio ≠ .urgent ∧ exhausted q s) ∧ room) ∧
      (∀ v, q.level = some v → s.standing q = v) ∧
      (q.level = none → q.prio = .normal → rush → s.standing q = .rush) ∧
      (q.level = none → q.prio ≠ .normal ∨ ¬rush → s.standing q = q.prio)) ∧
    (∀ s : State, s.choose = none ↔ ∀ q ∈ s.paging.pages, s.eligiblePage q = false) ∧
    ∀ (s : State) (g : Page) (n : Nat), s.choose = some (g, n) →
      let low := fun (q : Page) => s.standing q = .normal ∨ s.standing q = .info
      let eligible := fun (q : Page) => q ∈ s.paging.pages ∧ s.eligiblePage q = true
      let due := s.paging.settings.anti ≤ s.paging.anti
      ∃ pre post, s.paging.pages = pre ++ g :: post ∧ eligible g ∧
        (due → (∃ q, eligible q ∧ low q) → low g ∧ n = 0 ∧ ∀ q ∈ pre, eligible q → ¬low q) ∧
        (¬(due ∧ ∃ q, eligible q ∧ low q) →
          (∀ q, eligible q → (s.standing g).code ≤ (s.standing q).code) ∧
            ∀ q ∈ pre, eligible q → (s.standing g).code < (s.standing q).code) ∧
        (due ∨ low g → n = 0) ∧
        (¬due → ¬low g → ((∃ q, eligible q ∧ low q) → n = s.paging.anti + 1) ∧ ((∀ q, eligible q → ¬low q) → n = 0))

/-! ### The service bus (R144–R157) -/

/-- A valid IDENT_REPLY (R147, R145, R148): the node is PRESENT with no miss and its response time now. A SILENT or
PRESENT node with the recorded type and serial keeps its binding and baselines; its block hears that it is back from
SILENT. Any other joins: NODE_JOINED carries the type and the serial's low 16 bits; baselines and carried event are
unset; the binding is made with the claimant that names its address and matches its type, and NODE_TYPE_MISMATCH
carries the first that does not, in the order cabinet, line, base (also beside one that matches, log 20); the block is
told; a POLL is queued and the poll timer runs for the node's class. A PRESENT or SILENT node with another type or
serial is LOST first, as at the silence expiry (SilenceExpiryLosesNode), and joins then. A cabinet so bound stays in
FAULT with an urgent SET, its stale flag clear (its first report bills nothing, log 24), or leaves OFFLINE for
WAIT_POWER where it is wanted ON and the day runs, and for OFF otherwise (R60); a line's last applied event is unset
and its wanted conveyor sent (R92, R94); the base has a selection pass (R130). -/
def Obligations.IdentReplyJoinsNode : Prop :=
  (∀ (a : Nat) (ty : NodeType) (serial : Nat) (urgent : Bool) (f : InFlight) (s : State), s.day.resetLow = false →
     Sized s → 1 ≤ a → a ≤ 31 → s.bus.guard = .free → s.bus.inflight = some f → f.tx = .identify a →
     let n := s.node a
     let answering := n.presence = .present ∨ n.presence = .silent
     let same := answering ∧ n.type = some ty ∧ n.serial = serial
     let free := s.withBus { s.bus with inflight := none, guard := .bus }
     let i := Instr.identReply a ty serial urgent
     ∃ t, exec i s = .next t ∧ Ground s t ∧ t.bus.inflight = none ∧ t.bus.guard = .bus ∧
       (let ends := fun (w : State) => t = finish (if urgent then setFetchAhead a w else w)
        (same → ends (heard a s)) ∧ (¬same → answering → ends (joinNode a ty serial (goLost a free))) ∧
          (¬answering → ends (joinNode a ty serial free))) ∧
       (let m := t.node a
        m.presence = .present ∧ m.misses = 0 ∧ m.silence = none ∧ m.lastResp = some s.day.clock ∧ m.type = some ty ∧
          m.serial = serial ∧
          (same → m.binding = n.binding ∧ m.loadBase = n.loadBase ∧ m.drawBase = n.drawBase) ∧
          (¬same →
            m.loadBase = none ∧ m.drawBase = none ∧ m.lastEvent = none ∧
              (∀ k, s.cabNaming a = some k →
                (s.cab k).kind = .oven ∧ ty = .oven ∨ (s.cab k).kind = .warmer ∧ ty = .warmer → m.binding = .cabinet k) ∧
              (∀ l, s.lineNaming a = some l → ty = .washer → m.binding = .line l) ∧
              (s.paging.settings.base = some a → ty = .pageBase → m.binding = .base)))) ∧
  (∀ (a : Nat) (ty : NodeType) (serial : Nat) (s : State),
    let joined := s.setNode a { s.node a with
      type := some ty, serial := serial, presence := .present, misses := 0, silence := none, lastResp := some s.day.clock,
      loadBase := none, drawBase := none, lastEvent := none }
    let b := bindNode a (raise .nodeJoined a ty.code (serial % 65536) joined)
    let u := fun (l : Nat) => b.setLine l { b.line l with lastEvent := none }
    ∃ told : State,
      joinNode a ty serial s =
        restartPoll a (queuePoll a (told.setNode a { told.node a with pollClass := told.classOf a })) ∧
        ((b.node a).binding = .unbound → told = b) ∧ ((b.node a).binding = .base → told = selectPass b) ∧
        (∀ k, (b.node a).binding = .cabinet k → told = cabJoined k b) ∧
        ∀ l, (b.node a).binding = .line l →
          told = claimSet ((u l).line l).addr (.line l) (.line ((u l).line l).wantedRun) false (u l)) ∧
  (∀ (a : Nat) (ty : NodeType) (s : State), (s.node a).type = some ty →
    let n := s.node a
    let fits := fun (b : Binding) =>
      match b with
      | .unbound => False
      | .cabinet k =>
        s.cabNaming a = some k ∧ ((s.cab k).kind = .oven ∧ ty = .oven ∨ (s.cab k).kind = .warmer ∧ ty = .warmer)
      | .line l => s.lineNaming a = some l ∧ ty = .washer
      | .base => s.paging.settings.base = some a ∧ ty = .pageBase
    let claimants :=
      ((s.cabNaming a).map Binding.cabinet).toList ++ ((s.lineNaming a).map Binding.line).toList ++
        (if s.paging.settings.base = some a then [.base] else [])
    let noticed := fun (b : Binding) (v : State) =>
      match claimants.find? (· ≠ b) with
      | some x => raise .nodeTypeMismatch a ty.code x.kindCode v
      | none => v
    (∀ b, fits b → bindNode a s = noticed b (s.setNode a { n with binding := b })) ∧
      ((∀ b, ¬fits b) → bindNode a s = noticed .unbound
        (let v := s.setNode a { n with binding := .unbound, wanted := .nothing, wantedUrgent := false }
         v.withBus { v.bus with
           urgent := v.bus.urgent.filter (· ≠ .set a), fetch := v.bus.fetch.filter (· ≠ .set a),
           ordinary := v.bus.ordinary.filter (· ≠ .set a) }))) ∧
  (∀ (k : Nat) (s : State), Sized s → k < 24 →
    let c := s.cab k
    let v := s.setCab k { c with reported := false, stale := false }
    let starts := c.wantedOn = true ∧ (s.day.state = .service ∨ s.day.state = .closing)
    (c.state = .fault → cabJoined k s = claimCab k true (v.setConsumer k { v.consumer k with lastReport := none })) ∧
      (c.state = .offline → starts → cabJoined k s = requestHeat k v) ∧
      (c.state = .offline → ¬starts → cabJoined k s = enterOff k false v) ∧
      (c.state ≠ .fault → c.state ≠ .offline → cabJoined k s = v)) ∧
    ∀ (a : Nat) (s : State),
      let n := s.node a
      let v := (s.withBus { s.bus with inflight := none, guard := .bus }).setNode a
        { n with lastResp := some s.day.clock, misses := 0, silence := none, presence := .present }
      (n.presence ≠ .silent → heard a s = v) ∧
        (n.presence = .silent →
          (∀ k, n.binding = .cabinet k → heard a s = v.setCab k { v.cab k with stale := false }) ∧
            (n.binding = .base → heard a s = selectPass v) ∧
            (n.binding = .unbound ∨ (∃ l, n.binding = .line l) → heard a s = v))

/-- A REPORT that answers the POLL in flight (R151, R67, R82, R132): the transaction completes behind the 1 ms guard,
the node is PRESENT with no miss, the block bound to it takes the report, the SET that its wanted state calls for is
queued (R153), and fetch-ahead follows the urgent flag; a REPORT of an unbound node is discarded after the presence
update. A bound cabinet takes temperature, level, draw and conditions and the counters become the baselines, a bound
line takes rinse and conveyor. The base (R132, R133): pages transmitted, then acknowledgements, then check-ins, then
its hold is clear and a selection pass follows. A HANDED page transmitted is SENT with its 30 s resend timer, a page
acknowledged leaves the queue, and either counts against its team's rate, unless it is urgent or to ALL (R128); a
marked HANDED page is CANCELLED. A check-in (R121): outside 0x10 to 0xEF it is ignored; an address in the directory is
PRESENT and seen now, as an acknowledgement from it makes it too; a new one takes the lowest unused entry, else the
ABSENT entry seen longest ago, the lowest of those; where all are PRESENT it is not learned, and DIRECTORY_FULL, with
their number, is raised once, until its flag clears. -/
def Obligations.ReportsReachTheirBlocks : Prop :=
  (∀ (a : Nat) (urgent : Bool) (f : InFlight) (s : State), s.day.resetLow = false → Sized s → 1 ≤ a → a ≤ 31 →
    s.bus.guard = .free → s.bus.inflight = some f → f.tx = .poll a →
    let n := s.node a
    n.presence = .present ∨ n.presence = .silent →
    let h := heard a s
    let done := fun (body : RespBody) (v t : State) =>
      t = finish (polled a urgent (reconcile a body v)) ∧
        Ground s t ∧ t.bus.inflight = none ∧ t.bus.guard = .bus ∧ (t.node a).presence = .present ∧
        (t.node a).misses = 0 ∧ (t.node a).silence = none ∧ (t.node a).lastResp = some s.day.clock ∧
        (t.node a).fetchAhead = urgent
    (∀ rep : CabinetRep, n.type = some .oven ∧ rep.counters = none ∨ n.type = some .warmer ∧ rep.counters ≠ none →
      ∃ t, exec (.cabinetReport a rep urgent) s = .next t ∧
        (∀ k, n.binding = .cabinet k → done (.cabinet rep) (applyCabinetReport a k rep h) t ∧
          (k < 24 →
            let c := t.cab k
            c.temp = rep.temp ∧ c.level = rep.level ∧ c.draw = rep.draw ∧ c.reported = true ∧ c.live = rep.conds ∧
              ∀ ld dr, rep.counters = some (ld, dr) → (t.node a).loadBase = some ld ∧ (t.node a).drawBase = some dr)) ∧
        (n.binding = .unbound → done (.cabinet rep) h t ∧ ∀ k, CabConfig (s.cab k) (t.cab k))) ∧
      (∀ rep : WasherRep, n.type = some .washer →
        ∃ t, exec (.washerReport a rep urgent) s = .next t ∧
          (∀ l, n.binding = .line l → done (.washer rep) (applyWasherReport l rep h) t ∧
            (l < 2 → (t.line l).rinse = rep.rinse ∧ (t.line l).running = rep.running)) ∧
          (n.binding = .unbound → done (.washer rep) h t)) ∧
      ∀ rep : BaseRep, n.type = some .pageBase →
        ∃ t, exec (.baseReport a rep urgent) s = .next t ∧
          (n.binding = .base → done (.base rep) (applyBaseReport rep h) t ∧ t.paging.baseFull = false) ∧
          (n.binding = .unbound → done (.base rep) h t)) ∧
  (∀ (a : Nat) (s : State),
    let again := queueSet a (s.node a).wantedUrgent s
    (∀ m tp (rep : CabinetRep), (s.node a).wanted = .cabinet m tp →
      reconcile a (.cabinet rep) s = if rep.level = m ∧ rep.setpoint = tp then s else again) ∧
      (∀ run (rep : WasherRep), (s.node a).wanted = .line run →
        reconcile a (.washer rep) s = if rep.running = run then s else again) ∧
      ∀ body, (s.node a).wanted = .nothing → reconcile a body s = s) ∧
  (∀ (rep : BaseRep) (s : State),
    let sent := forEach rep.transmitted applyTransmitted s
    let acked := rep.acks.foldl (fun t x => refreshPager x.1 (applyAck x.2 t)) sent
    let seen := forEach rep.checkIns applyCheckIn acked
    applyBaseReport rep s = selectPass (seen.withPaging { seen.paging with baseFull := false })) ∧
  (∀ (id : Nat) (s : State),
    (s.page id = none → applyTransmitted id s = s ∧ applyAck id s = s) ∧
      ∀ g, s.page id = some g →
        (g.state ≠ .handed → applyTransmitted id s = s ∧ applyAck id s = ended g 0 s) ∧
          (g.state = .handed → g.cancelMark = true →
            applyTransmitted id s = ended g 4 s ∧ applyAck id s = ended g 4 s) ∧
          (g.state = .handed → g.cancelMark = false →
            applyTransmitted id s =
                countRate g (paged id (fun q => { q with state := .sent, resendEnd := some (s.day.clock + 30) }) s) ∧
              applyAck id s = ended g 0 (countRate g s))) ∧
  (∀ (a : Nat) (s : State),
    let d := s.paging.dir
    let put := fun (i : Nat) => s.withPaging { s.paging with dir := d.set i (some ⟨a, true, s.day.clock⟩) }
    let known := ∃ e, some e ∈ d ∧ e.addr = a
    let valid := 0x10 ≤ a ∧ a ≤ 0xEF
    (∀ i e, d[i]? = some (some e) → e.addr = a → (∀ j x, j < i → d[j]? = some (some x) → x.addr ≠ a) →
      refreshPager a s = put i ∧ (valid → applyCheckIn a s = put i)) ∧
      (¬known →
        refreshPager a s = s ∧ ∀ i, valid → d[i]? = some none → none ∉ d.take i → applyCheckIn a s = put i) ∧
      (valid → ¬known → none ∉ d →
        (∀ i e, d[i]? = some (some e) → e.present = false →
          (∀ j x, d[j]? = some (some x) → x.present = false →
            e.lastSeen < x.lastSeen ∨ e.lastSeen = x.lastSeen ∧ i ≤ j) →
          applyCheckIn a s = put i) ∧
          ((∀ e, some e ∈ d → e.present = true) →
            (s.paging.dirFull = true → applyCheckIn a s = s) ∧
              (s.paging.dirFull = false →
                let v := raise .directoryFull a d.length 0 s
                applyCheckIn a s = v.withPaging { v.paging with dirFull := true }))) ∧
      (¬valid → applyCheckIn a s = s)) ∧
    ∀ (g : Page) (s : State),
      (g.prio = .urgent ∨ g.target = .all → countRate g s = s) ∧
        ∀ tm, g.target = .team tm ∨ (∃ x, g.target = .pager x ∧ tm = x / 16) → g.prio ≠ .urgent → 1 ≤ tm → tm ≤ 14 →
          let r := s.paging.rates.getD (tm - 1) ⟨0, none⟩
          let counted := fun (x : Rate) => s.withPaging { s.paging with rates := s.paging.rates.set (tm - 1) x }
          (r.ends = none → countRate g s = counted ⟨1, some (s.day.clock + 10)⟩) ∧
            ∀ e, r.ends = some e → r.count < 255 → countRate g s = counted ⟨r.count + 1, some e⟩

/-- SET_ACK and DELIVER_ACK that answer the transaction in flight (R151, R131): it completes behind the 1 ms guard and
the node is PRESENT with no miss; an urgent flag sets fetch-ahead. ACCEPTED makes the page in delivery HANDED; FULL
returns it to the queue, or ends it if it is marked (PagingSetWritesSettings says how a page comes back), sets the
base's hold, and a selection pass follows. A DELIVER missed for the third time returns its page too. The answer to a
DELIVER that is void (R156), or of a page no longer in delivery (R133), is ignored. (The hold set for a marked page,
and the expiry of a page returned past its lifetime, are log 23.) -/
def Obligations.AcksCompleteTransactions : Prop :=
  (∀ (a : Nat) (urgent : Bool) (f : InFlight) (s : State), s.day.resetLow = false → Sized s → 1 ≤ a → a ≤ 31 →
    s.bus.guard = .free → s.bus.inflight = some f →
    let n := s.node a
    n.presence = .present ∨ n.presence = .silent →
    let h := heard a s
    let done := fun (v t : State) =>
      t = finish (if urgent then setFetchAhead a v else v) ∧
        Ground s t ∧ (∀ k, CabConfig (s.cab k) (t.cab k)) ∧ t.bus.inflight = none ∧ t.bus.guard = .bus ∧
        (t.node a).presence = .present ∧ (t.node a).misses = 0 ∧ (t.node a).lastResp = some s.day.clock ∧
        (t.node a).fetchAhead = (urgent || n.fetchAhead)
    (f.tx = .set a → ∃ t, exec (.setAck a urgent) s = .next t ∧ done h t) ∧
      ∀ id tg code arg, f.tx = .deliver a id tg code arg → ∀ accepted,
        ∃ t, exec (.deliverAck a accepted urgent) s = .next t ∧
          (f.isVoid = true → done h t) ∧ (f.isVoid = false → done (answerDeliver id accepted h) t)) ∧
  (∀ (f : InFlight) (a id code arg : Nat) (tg : Target) (s : State), s.day.resetLow = false → s.bus.guard = .free →
    s.bus.inflight = some f → f.tx = .deliver a id tg code arg → 3 ≤ f.attempt →
    let c := countMiss a (s.withBus { s.bus with inflight := none, guard := .bus })
    exec .responseTimeout s = .next (finish (if f.isVoid then c else missDeliver id c))) ∧
    ∀ (id : Nat) (s : State),
      (∀ accepted, (∀ g, s.page id = some g → g.inDelivery = false) →
        answerDeliver id accepted s = s ∧ missDeliver id s = s) ∧
        ∀ g, s.page id = some g → g.inDelivery = true →
          let back := returnPage id s
          answerDeliver id true s = paged id (fun q => { q with state := .handed, inDelivery := false }) s ∧
            answerDeliver id false s = selectPass (back.withPaging { back.paging with baseFull := true }) ∧
            missDeliver id s = selectPass back

/-- With no response awaited, whatever arrives is discarded; a response that is not the one the request calls for, bytes
that fail the validity test and a wait that runs out fail the attempt: the first two are followed by a retry behind the
guard, the third is MISSED (R149, R150), which raises the miss count (to 255 at most; of an IDENTIFY only for a SILENT
node), takes a PRESENT node to SILENT at 3, with NODE_SILENT, and for a POLL clears fetch-ahead and restarts the poll
timer. The cabinet of a node that is SILENT is stale, and a warmer's out-of-band timer runs (R60). (The model's choices:
that bytes after a complete frame fail the attempt, log 10; that RESPONSE_TIMEOUT does nothing with no response awaited,
log 13; that a miss is counted for a node that has become absent meanwhile, log 22.) -/
def Obligations.FailedAttemptsRetryThenMiss : Prop :=
  (∀ s : State, s.bus.guard ≠ .free ∨ s.bus.inflight = none →
    (∀ a ty x u, exec (.identReply a ty x u) s = .next s) ∧ (∀ a r u, exec (.cabinetReport a r u) s = .next s) ∧
      (∀ a r u, exec (.washerReport a r u) s = .next s) ∧ (∀ a r u, exec (.baseReport a r u) s = .next s) ∧
      (∀ a u, exec (.setAck a u) s = .next s) ∧ (∀ a b u, exec (.deliverAck a b u) s = .next s) ∧
      (∀ l, exec (.invalidResponse l) s = .next s) ∧ exec .responseTimeout s = .next s) ∧
  (∀ (f : InFlight) (s : State), s.day.resetLow = false → Sized s → s.bus.guard = .free → s.bus.inflight = some f →
      1 ≤ f.tx.addr → f.tx.addr ≤ 31 →
      let fails := fun (i : Instr) => exec i s = exec .responseTimeout s
      let n := s.node f.tx.addr
      (∀ a ty x u, f.tx ≠ .identify a → fails (.identReply a ty x u)) ∧
        (∀ a r u, f.tx ≠ .poll a ∨ n.type ≠ some .oven ∧ n.type ≠ some .warmer → fails (.cabinetReport a r u)) ∧
        (∀ a r u, f.tx ≠ .poll a ∨ n.type ≠ some .washer → fails (.washerReport a r u)) ∧
        (∀ a r u, f.tx ≠ .poll a ∨ n.type ≠ some .pageBase → fails (.baseReport a r u)) ∧
        (∀ a u, f.tx ≠ .set a → fails (.setAck a u)) ∧
        (∀ a b u, (∀ id tg code arg, f.tx ≠ .deliver a id tg code arg) → fails (.deliverAck a b u)) ∧
        (∀ l : List Byte, byteAt l 0 ≠ 0xB4 ∨ l.length ≠ byteAt l 3 + 6 ∨
          crc16 ((l.drop 1).take (byteAt l 3 + 3)) ≠ BitVec.ofNat 16 (wordAt l (byteAt l 3 + 4)) →
          fails (.invalidResponse l)) ∧
        (f.attempt < 3 →
          let w := s.withBus { s.bus with inflight := some { f with attempt := f.attempt + 1 }, guard := .bus }
          ∃ t, exec .responseTimeout s = .next t ∧ Floor w t ∧ t = finish w) ∧
        (3 ≤ f.attempt →
          let counted := (∀ a, f.tx ≠ .identify a) ∨ n.presence = .silent
          let free := s.withBus { s.bus with inflight := none, guard := .bus }
          let c := countMiss f.tx.addr free
          ∃ t, exec .responseTimeout s = .next t ∧
            t = finish (match f.tx with
              | .poll a => restartPoll a (refreshPoll a (c.setNode a { c.node a with fetchAhead := false }))
              | .set _ => c
              | .deliver _ id _ _ _ => if f.isVoid then c else missDeliver id c
              | .identify _ => if n.presence = .silent then c else free) ∧
            Ground s t ∧ (∀ k, CabConfig (s.cab k) (t.cab k)) ∧
            t.bus.inflight = none ∧ t.bus.guard = .bus ∧
            (let m := t.node f.tx.addr
             (counted → m.misses = min (n.misses + 1) 255) ∧ (¬counted → m.misses = n.misses) ∧
               (counted → n.presence = .present → 3 ≤ n.misses + 1 → m.presence = .silent ∧ m.silence = some 10) ∧
               (¬(counted ∧ n.presence = .present ∧ 3 ≤ n.misses + 1) → m.presence = n.presence) ∧
               (f.tx = .poll f.tx.addr → m.fetchAhead = false)))) ∧
    ∀ (a : Nat) (s : State), Sized s → 1 ≤ a → a ≤ 31 →
      let n := s.node a
      let m := min (n.misses + 1) 255
      let silent := n.presence = .present ∧ 3 ≤ n.misses + 1
      let v := raise .nodeSilent a m n.binding.kindCode
        (s.setNode a { n with misses := m, presence := .silent, silence := some 10 })
      (¬silent → countMiss a s = s.setNode a { n with misses := m }) ∧
        (silent →
          (∀ k, n.binding = .cabinet k → countMiss a s =
            let c := v.cab k
            v.setCab k { c with stale := true, oobT := if c.kind = .warmer ∧ c.oobT = none then some 60 else c.oobT }) ∧
            ((∀ k, n.binding ≠ .cabinet k) → countMiss a s = v))

/-- TRANSACTION_SEND (R156): on a free bus the head of the urgent part goes out, else that of the fetch-ahead part,
else that of the ordinary part, as its first attempt, with the payload as it stands now; nothing goes out otherwise.
After the 1 ms guard a transaction between attempts goes out again (R150); at the end of the abandonment guard the head
of the urgent part goes out (R157). (That BUS_GUARD_END sends retries alone, that ABANDON_GUARD_END with no urgent
entry only frees the bus, and that TRANSACTION_SEND sends the other first attempts is log 22.) A POLL to a washer
carries the last applied event of the line bound to it, or unset, and the node's record takes the value carried (R154).
A SET claim (R152) of the block to which the answering node is bound writes its wanted state and takes its SET place:
an ordinary claim leaves a SET that is queued, an urgent one joins the urgent part unless it is there. An urgent SET so
queued abandons an ordinary transaction in flight (R157), behind the abandonment guard, and it returns to the head of
the fetch-ahead part but for R157's exceptions: a SET to the same node; a POLL, SET or IDENTIFY whose place is filled;
a DELIVER of a page no longer in delivery. (A DELIVER that is void, or whose two places are filled by those of pages in
delivery, is log 31; a SET whose node is unbound meanwhile returns, log 22.) -/
def Obligations.TransactionsGoOutInOrder : Prop :=
  let last := fun (a : Nat) (s : State) =>
    match (s.node a).binding with
    | .line l => (s.line l).lastEvent
    | _ => none
  (∀ s : State, s.day.resetLow = false →
    let b := s.bus
    let sends := fun (i : Instr) (v : Bus) (x : Tx) =>
      exec i s = .next (s.withBus { v with
        btx := busFrame x.addr x.kind (s.payload x),
        nodes :=
          match x with
          | .poll a =>
            if (s.node a).type = some .washer then
              b.nodes.set (State.nodeIdx a) { s.node a with lastEvent := last a s }
            else b.nodes
          | _ => b.nodes })
    let go := Instr.transactionSend
    (b.inflight = none → b.guard = .free →
      (∀ x xs, b.urgent = x :: xs → sends go { b with urgent := xs, inflight := some ⟨x, 1, true, false⟩ } x) ∧
        (∀ x xs, b.urgent = [] → b.fetch = x :: xs → sends go { b with fetch := xs, inflight := some ⟨x, 1, false, false⟩ } x) ∧
        (∀ x xs, b.urgent = [] → b.fetch = [] → b.ordinary = x :: xs →
          sends go { b with ordinary := xs, inflight := some ⟨x, 1, false, false⟩ } x) ∧
        (b.urgent = [] → b.fetch = [] → b.ordinary = [] → exec go s = .next s)) ∧
      (b.inflight ≠ none ∨ b.guard ≠ .free → exec go s = .next s) ∧
      (b.guard = .bus →
        (b.inflight = none → exec .busGuardEnd s = .next (s.withBus { b with guard := .free })) ∧
          ∀ f, b.inflight = some f → sends .busGuardEnd { b with guard := .free } f.tx) ∧
      (b.guard ≠ .bus → exec .busGuardEnd s = .next s) ∧
      (b.guard = .abandon →
        (b.urgent = [] → exec .abandonGuardEnd s = .next (s.withBus { b with guard := .free })) ∧
          ∀ x xs, b.urgent = x :: xs → sends .abandonGuardEnd
            { b with guard := .free, urgent := xs, inflight := some ⟨x, 1, true, false⟩ } x) ∧
      (b.guard ≠ .abandon → exec .abandonGuardEnd s = .next s)) ∧
  (∀ (a : Nat) (s : State),
      s.payload (.identify a) = [] ∧
        (∀ m tp, (s.node a).wanted = .cabinet m tp → s.payload (.set a) = be8 m.code ++ beTemp tp) ∧
        (∀ run, (s.node a).wanted = .line run → s.payload (.set a) = beFlag run) ∧
        (∀ q, (s.node a).type = some .washer → last a s = some q → s.payload (.poll a) = beFlag true ++ be8 q) ∧
        ((s.node a).type = some .washer → last a s = none → s.payload (.poll a) = beFlag false ++ be8 0) ∧
        ((s.node a).type ≠ some .washer → s.payload (.poll a) = []) ∧
        ∀ id tg code arg, s.payload (.deliver a id tg code arg) =
          be8 id ++ be8 tg.kindCode ++ be8 tg.value ++ be8 code ++ be16 arg) ∧
  (∀ (a : Nat) (s : State),
    let b := s.bus
    let others := fun (l : List Tx) => l.filter fun x => x ≠ .set a
    (.set a ∈ b.urgent → ∀ u, queueSet a u s = s) ∧
      (.set a ∉ b.urgent → .set a ∈ b.fetch ∨ .set a ∈ b.ordinary → queueSet a false s = s) ∧
      (.set a ∉ b.urgent → .set a ∉ b.fetch → .set a ∉ b.ordinary →
        queueSet a false s = s.withBus { b with ordinary := b.ordinary ++ [.set a] }) ∧
      (.set a ∉ b.urgent → queueSet a true s = preempt a
        (s.withBus { b with urgent := b.urgent ++ [.set a], fetch := others b.fetch, ordinary := others b.ordinary }))) ∧
  (∀ (addr : Option Nat) (who : Binding) (w : Wanted) (u : Bool) (s : State),
    let answers := fun (a : Nat) => (s.node a).presence = .present ∨ (s.node a).presence = .silent
    (∀ a, addr = some a → answers a → (s.node a).binding = who →
      claimSet addr who w u s = queueSet a u (s.setNode a { s.node a with wanted := w, wantedUrgent := u })) ∧
      ((∀ a, addr = some a → ¬answers a ∨ (s.node a).binding ≠ who) → claimSet addr who w u s = s)) ∧
    ∀ (a : Nat) (s : State),
      let b := s.bus
      let list := b.urgent ++ b.fetch ++ b.ordinary
      (∀ x, s.delivering x = true ↔ ∃ c id tg code arg, x = .deliver c id tg code arg ∧
        ∃ g ∈ s.paging.pages, g.id = id ∧ g.inDelivery = true) ∧
        (b.inflight = none ∨ (∃ f, b.inflight = some f ∧ f.urgent = true) → preempt a s = s) ∧
        ∀ f, b.inflight = some f → f.urgent = false →
          let returns :=
            match f.tx with
            | .identify _ => ∀ x ∈ b.fetch ++ b.ordinary, ∀ y, x ≠ .identify y
            | .poll x => .poll x ∉ list
            | .set x => x ≠ a ∧ .set x ∉ list
            | .deliver _ _ _ _ _ =>
              f.isVoid = false ∧ s.delivering f.tx = true ∧ (list.filter s.delivering).length < 2
          (returns → preempt a s = s.withBus { b with inflight := none, guard := .abandon, fetch := f.tx :: b.fetch }) ∧
            (¬returns → preempt a s = s.withBus { b with inflight := none, guard := .abandon })

/-- The end of a poll timer queues a POLL unless one is queued or in flight, in the fetch-ahead part if the flag is set
(R155, R156). A discovery step, at the discovery timer's end and in OPENING whenever no IDENTIFY is queued or in
flight, queues an IDENTIFY to the first address from the pointer whose node is not PRESENT, and moves the pointer past
it (R146). (The millisecond count reaches the timer's end: log 5. That these rows change nothing before their time is
log 13, and that DISCOVERY_STEP acts in OPENING alone is log 22.) The poll class of an answering node, once a step has
ended: SLOW for one that is unbound; FAST for an oven not in FAULT with a COOKING or DONE batch, and for a warmer where
a READY or PLATING course (of its class, as each holder is) holds an earmark, else SLOW for a cabinet in OFF or OFFLINE
and NORMAL for any other (R74); FAST for a line that runs or has a rack inside, and for the base while a page is in
delivery, HANDED or SENT, NORMAL otherwise (R155). A class that changes restarts a running timer where that ends it
sooner; a restart runs 250, 1000 or 4000 ms. -/
def Obligations.PollsAndDiscoveryAreQueued : Prop :=
  (∀ s : State, s.day.resetLow = false → Sized s →
    let b := s.bus
    let list := b.urgent ++ b.fetch ++ b.ordinary
    (∀ a, 1 ≤ a → a ≤ 31 →
      let n := s.node a
      (n.pollEnd = none → exec (.pollTimerExpiry a) s = .next s) ∧
        ∀ e, n.pollEnd = some e →
          let v := (s.withDay { s.day with ms := max s.day.ms e }).setNode a { n with pollEnd := none }
          let held := .poll a ∈ list ∨ ∃ f, b.inflight = some f ∧ f.tx = .poll a
          (held → exec (.pollTimerExpiry a) s = .next v) ∧
            (¬held → n.fetchAhead = true →
              exec (.pollTimerExpiry a) s = .next (v.withBus { v.bus with fetch := v.bus.fetch ++ [.poll a] })) ∧
            (¬held → n.fetchAhead = false →
              exec (.pollTimerExpiry a) s = .next (v.withBus { v.bus with ordinary := v.bus.ordinary ++ [.poll a] }))) ∧
      (let placeFree := (∀ x ∈ list, ∀ a, x ≠ .identify a) ∧ ∀ f, b.inflight = some f → ∀ a, f.tx ≠ .identify a
       let address := fun j => (b.discPtr - 1 + j) % 31 + 1
       let steps := fun (i : Instr) (v : State) =>
         (¬placeFree → exec i s = .next v) ∧
           ((∀ j, j < 31 → (s.node (address j)).presence = .present) → exec i s = .next v) ∧
           ∀ j, j < 31 → placeFree → (s.node (address j)).presence ≠ .present →
             (∀ j', j' < j → (s.node (address j')).presence = .present) →
             exec i s = .next (v.withBus { v.bus with
               ordinary := v.bus.ordinary ++ [.identify (address j)], discPtr := address j % 31 + 1 })
       (b.discTimer = some 0 → steps .discoveryTimerExpiry (s.withBus { b with discTimer := some 5 })) ∧
         (b.discTimer ≠ some 0 → exec .discoveryTimerExpiry s = .next s) ∧
         (s.day.state = .opening → steps .discoveryStep s) ∧
         (s.day.state ≠ .opening → exec .discoveryStep s = .next s))) ∧
  (∀ (a : Nat) (s : State), Sized s → 1 ≤ a → a ≤ 31 →
    let t := finish s
    (t.node a).presence = .present ∨ (t.node a).presence = .silent → (t.node a).pollClass = t.classOf a) ∧
    ∀ (a : Nat) (s : State),
      let n := s.node a
      let interval := fun (c : PollClass) => match c with | .fast => 250 | .normal => 1000 | .slow => 4000
      let answering := n.presence = .present ∨ n.presence = .silent
      let fresh := s.classOf a
      (n.binding = .unbound → fresh = .slow) ∧
        (∀ k, n.binding = .cabinet k →
          let c := s.cab k
          let fast := c.kind = .oven ∧ c.state ≠ .fault ∧ (∃ b ∈ c.batches, b.state = .cooking ∨ b.state = .done) ∨
            c.kind = .warmer ∧ ∃ e ∈ s.earmarks, e.cab = k ∧ c.cls = some (s.course e.course).cls ∧
              ((s.course e.course).state = .ready ∨ (s.course e.course).state = .plating)
          (fast → fresh = .fast) ∧ (¬fast → c.state = .off ∨ c.state = .offline → fresh = .slow) ∧
            (¬fast → c.state ≠ .off → c.state ≠ .offline → fresh = .normal)) ∧
        (∀ l, n.binding = .line l →
          let x := s.line l
          (x.inside ≠ [] ∨ x.running = true → fresh = .fast) ∧ (x.inside = [] → x.running = false → fresh = .normal)) ∧
        (n.binding = .base →
          let busy := ∃ q ∈ s.paging.pages, q.inDelivery = true ∨ q.state = .handed ∨ q.state = .sent
          (busy → fresh = .fast) ∧ (¬busy → fresh = .normal)) ∧
        (answering → n.pollClass ≠ fresh → refreshPoll a s = s.setNode a { n with
          pollClass := fresh, pollEnd := n.pollEnd.map fun e => min e (s.day.ms + interval fresh) }) ∧
        (¬answering ∨ n.pollClass = fresh → refreshPoll a s = s) ∧
        (answering → restartPoll a s = s.setNode a { n with pollEnd := some (s.day.ms + interval n.pollClass) }) ∧
        (¬answering → restartPoll a s = s)

/-- SILENCE_TIMER_EXPIRY changes nothing while the silence timer has not run its 10 s or does not run (the model's
reading, log 13). Where it has run them (R145): the node is LOST, its binding ended, its timers, flags, baselines,
carried event and wanted state gone, its queued POLL and SET too, and NODE_LOST is raised; the cabinet it was bound to
is OFFLINE, with its grant released and its draw 0, or stale while in FAULT (R60, R103); the line is STOPPED and its
booster's draw 0 (R94, R103); the base is lost (R134). -/
def Obligations.SilenceExpiryLosesNode : Prop :=
  ∀ (a : Nat) (s : State), s.day.resetLow = false → Sized s → 1 ≤ a → a ≤ 31 →
    let n := s.node a
    (n.silence ≠ some 0 → exec (.silenceTimerExpiry a) s = .next s) ∧
      (n.silence = some 0 →
        let lost := { n with
          presence := .lost, misses := 0, silence := none, loadBase := none, drawBase := none, binding := .unbound,
          pollEnd := none, fetchAhead := false, wanted := .nothing, wantedUrgent := false, lastEvent := none }
        let kept := fun (l : List Tx) => l.filter fun x => decide (x ≠ .poll a ∧ x ≠ .set a)
        let gone := (s.setNode a lost).withBus { (s.setNode a lost).bus with
          urgent := kept s.bus.urgent, fetch := kept s.bus.fetch, ordinary := kept s.bus.ordinary }
        let v := raise .nodeLost a (match n.type with | none => 0xFF | some ty => ty.code) n.binding.kindCode gone
        let ends := fun (w : State) =>
          goLost a s = w ∧ ∃ t, exec (.silenceTimerExpiry a) s = .next t ∧ t = finish w ∧ Ground s w ∧ Floor w t ∧ w.node a = lost
        (n.binding = .unbound → ends v) ∧ (n.binding = .base → ends (baseLost v)) ∧
          (∀ l, l < 2 → n.binding = .line l →
            let x := s.line l
            let w := setRunning l false v
            ends (callCheck (w.setConsumer (24 + l) { s.consumer (24 + l) with measured := 0, lastReport := none })) ∧
              w.line l = { x with running := false }) ∧
          ∀ k, k < 24 → n.binding = .cabinet k →
            ((s.cab k).state = .fault → ends (v.setCab k { s.cab k with stale := true })) ∧
              ((s.cab k).state ≠ .fault →
                let w := enterOffline k v
                ends w ∧ ((s.cab k).state ≠ .offline → w.cab k = (s.cab k).asOffline) ∧
                  w.consumer k = { (s.consumer k).released with measured := 0, lastReport := none }))

/-! ### Time and the service day (R176–R184) -/

/-- A service second (R176, R73, R85): the clock rises by 1, every running countdown loses a second, a COOKING batch
loses one of its remaining seconds and a rack in a running machine gains one of transit. (That the clock wraps to 0 at
2^32 is the model's reading, log 26; R176 says only that it rises by 1. The millisecond count and the values that the
next events are judged by are the model's too: log 5, log 7.) -/
def Obligations.ServiceSecondCounts : Prop :=
  ∀ s : State, s.day.resetLow = false →
    let less := fun (t : Option Nat) => t.map (· - 1)
    exec .serviceSecond s = .next { s with
      day := { s.day with
        clock := (s.day.clock + 1) % 4294967296, secMs := s.day.secMs + 1000, ms := max s.day.ms (s.day.secMs + 1000) },
      cabs := s.cabs.map fun c => { c with
        sleepT := less c.sleepT, oobT := less c.oobT, doorT := less c.doorT,
        batches := c.batches.map fun b => if b.state = .cooking then { b with remaining := b.remaining - 1 } else b },
      lines := s.lines.map fun l => { l with
        inside := if l.running then l.inside.map fun r => { r with transit := min (r.transit + 1) 1800 } else l.inside,
        transitJudged := l.transitLimit },
      power := { s.power with settle := less s.power.settle },
      bus := { s.bus with
        discTimer := less s.bus.discTimer, nodes := s.bus.nodes.map fun n => { n with silence := less n.silence } },
      paging := { s.paging with ageJudged := s.paging.settings.age } }

/-- DAY_OPEN (R177): refused with BAD_STATE unless the budget stands above 0 and above its watermarks, which are in
order, and every warmer has a class; otherwise the clock is 0, the courses are EMPTY with what they had out passed to
house plated, earmarks, fire counter, round pointers, pages and windows start anew, times that are set are 0, running
door and out-of-band timers restart, DAY leaves the stop reasons, the claim is released and the day is SERVICE; then
cabinets wanted ON and boosters claim (in ascending order, log 27), admission is tried, and DAY_OPENED carries how many
consumers request (log 27). That a new second starts at the present millisecond is log 5 (DESIGN CHOICE). `w` is the
state that the first six steps leave, record by record. -/
def Obligations.DayOpenStartsService : Prop :=
  ∀ (p : Port) (s : State), Admitted (.dayOpen p) p s → Sized s →
    let i := Instr.dayOpen p
    let u := before i p s
    let ready := s.day.state = .opening ∧ 0 < s.power.budget ∧ s.power.shedLow < s.power.shedHigh ∧
      s.power.shedHigh ≤ s.power.budget ∧ ∀ c ∈ s.cabs, c.kind = .warmer → c.cls ≠ none
    let out := fun (c : Nat) =>
      total ((s.courses.filter fun x => x.state ≠ .empty ∧ x.cls = c).map fun x => x.plated - x.returned)
    let kept := fun (l : List Tx) => l.filter fun x => !x.isDeliver
    let w := { u with
      day := { s.day with clock := 0, secMs := s.day.ms, claim := none, state := .service, ret := none, cause := none },
      wares := (List.range 8).map fun c => { s.ware c with house := (s.ware c).house + out c },
      courses := s.courses.map fun x => if x.state = .empty then x else Course.initial,
      earmarks := [], fire := ⟨0, false⟩, fns := s.fns.map fun f => { f with round := 23 },
      cabs := s.cabs.map fun c => { c with doorT := c.doorT.map fun _ => 120, oobT := c.oobT.map fun _ => 60 },
      lines := s.lines.map fun l => { l with
        stops := { l.stops with day := false }, inside := l.inside.map fun r => { r with entry := some 0 } },
      power := { s.power with
        consumers := s.power.consumers.map (fun c => { c with lastReport := c.lastReport.map fun _ => 0 }),
        settle := none, unresolved := false },
      paging := { s.paging with
        pages := [], baseFull := false, rush := List.replicate 14 none, rates := List.replicate 14 ⟨0, none⟩,
        anti := 0, dir := s.paging.dir.map fun e => e.map fun g => { g with lastSeen := 0 } },
      bus := { s.bus with
        nodes := s.bus.nodes.map (fun n => { n with lastResp := n.lastResp.map fun _ => 0 }),
        urgent := kept s.bus.urgent, fetch := kept s.bus.fetch, ordinary := kept s.bus.ordinary,
        inflight := s.bus.inflight.map fun f => { f with isVoid := f.isVoid || f.tx.isDeliver },
        discTimer := some (s.bus.discTimer.getD 5) } }
    let on := forEach (List.range 24)
      (fun k v => if (v.cab k).state = .off ∧ (v.cab k).wantedOn = true then requestHeat k v else v) w
    let v := powerTry (boosterSync 1 (boosterSync 0 on))
    (ready →
      ∃ t, Executes i p s [] t ∧ t = finish (raise .dayOpened 0 v.requesting 0 v) ∧ Still w v ∧
        Floor (raise .dayOpened 0 v.requesting 0 v) t) ∧
      (¬ready → RefusedWith i p s .badState)

/-- DAY_CLOSE (R178): refused with BAD_STATE while a course is FIRED, READY or PLATING; otherwise the PLANNED and ARMED
courses are CANCELLED, every wanted mode is OFF and no cabinet on, the STAGED racks leave with RACK_LEFT CLOSED and
their plates SOILED, admission is tried, and DAY_CLOSING is raised with the two counts, which the reply carries (slots
ascending, line 0 before line 1: log 27). The completion test (R179): in CLOSING, with every cabinet OFF or OFFLINE and
no rack in a machine, the racks of the exit sections leave with RACK_LEFT CLOSED (R98; in exit order, line 0 first: log
27), HELD plates SOILED; both boosters release, DAY joins the stop reasons, OFFLINE warmers unload, the day returns to
OPENING with discovery and settle timers stopped, and DAY_CLOSED is raised with the racks removed and the plates
unloaded; otherwise the close goes on. -/
def Obligations.DayClosesAndDrains : Prop :=
  (∀ (p : Port) (s : State), Admitted (.dayClose p) p s → Sized s →
     let i := Instr.dayClose p
     let u := before i p s
     let waiting := fun (x : Course) => x.state = .planned ∨ x.state = .armed
     let plating := ∃ c ∈ s.courses, c.state = .fired ∨ c.state = .ready ∨ c.state = .plating
     let slots := (List.range 32).filter fun c => waiting (s.course c)
     let racks := total (s.lines.map fun l => l.staged.length)
     let ended := forEach slots cancelCourse u
     let off := forEach (List.range 24) (fun k v =>
       let x := v.setCab k { v.cab k with wantedOn := false }
       if (v.cab k).state.on = true then enterOff k false x else x) ended
     let v := removeStaged 1 (removeStaged 0 off)
     let w := powerTry v
     (s.day.state = .service → ¬plating →
       ∃ t, Executes i p s (be8 slots.length ++ be8 racks) t ∧
         t = finish (callClose (raise .dayClosing 0 slots.length racks (w.withDay { w.day with state := .closing }))) ∧
         Bedrock u v ∧ Floor v w ∧
         Floor (raise .dayClosing 0 slots.length racks (w.withDay { w.day with state := .closing })) t ∧
         (∀ c, c < 32 → waiting (s.course c) → (v.course c).state = .cancelled) ∧
         (∀ c, c < 32 → ¬waiting (s.course c) → (v.course c).state = (s.course c).state) ∧
         (∀ k, k < 24 → (v.cab k).wantedOn = false ∧ (v.cab k).state.on = false) ∧
         ∀ l, l < 2 → (v.line l).staged = []) ∧
       (s.day.state ≠ .service ∨ plating → RefusedWith i p s .badState)) ∧
  (∀ (l : Nat) (s : State), Sized s → l < 2 →
     let x := s.line l
     removeStaged l s = x.staged.foldl
         (fun t r => raise .rackLeft l r.tag 0x03FF (carried r .washing .soiled t)) (s.setLine l { x with staged := [] }) ∧
       ∀ r : Rack,
         let left := fun (v : State) => backpressure l
           (raise .rackLeft l r.tag 0x03FF (v.setLine l { x with exits := x.exits.filter fun y => y.tag ≠ r.tag }))
         (r.reason ≠ none → closeRack l r s = left (carried r .held .soiled s)) ∧
           (r.reason = none → closeRack l r s = left (unrouted l r.tag r.dest s))) ∧
    ∀ s : State, s.day.resetLow = false → Sized s →
      let drained := (∀ c ∈ s.cabs, c.state = .off ∨ c.state = .offline) ∧ ∀ l ∈ s.lines, l.inside = []
      let racks := total (s.lines.map fun l => l.exits.length)
      let plates := total ((s.cabs.filter fun c => c.kind = .warmer ∧ c.state = .offline).map fun c =>
        total (c.lots.map (·.count)))
      let u := s.withCalls { s.calls with close := false }
      let cleared := fun (l : Nat) (v : State) =>
        let x := release (24 + l) ((v.line l).exits.foldl (fun t r => closeRack l r t) v)
        x.setLine l { x.line l with stops := { (x.line l).stops with day := true } }
      let empty := forEach (List.range 24)
        (fun k v => if (v.cab k).state = .offline then unload k v else v) (cleared 1 (cleared 0 u))
      let w := ((empty.withDay { empty.day with state := .opening, ret := none }).withPower
        { empty.power with settle := none }).withBus { empty.bus with discTimer := none }
      (s.day.state = .closing → drained →
        ∃ t, exec .closeCompletion s = .next t ∧ t = finish (raise .dayClosed 0 racks plates w) ∧ Floor s w ∧
          Floor (raise .dayClosed 0 racks plates w) t ∧ w.day = { s.day with state := .opening, ret := none } ∧
          (∀ l, l < 2 → (w.line l).exits = [] ∧ (w.line l).stops.day = true ∧
            (w.consumer (24 + l)).grant = 0 ∧ (w.consumer (24 + l)).request = 0) ∧
          ∀ k, k < 24 → (w.cab k).state = .offline → (w.cab k).cls ≠ none → (w.cab k).lots = []) ∧
        (s.day.state ≠ .closing ∨ ¬drained → exec .closeCompletion s = .next (finish u) ∧ Floor s (finish u))

/-- A confirm timer that reaches 3000 ms (R180, R181): in LOCKOUT nothing; otherwise lockout entry, in R181's order. The
day state becomes the return state, the cause is recorded, the day is LOCKOUT with FEEDCUT asserted, every confirm timer
stopped and the discovery timer running; a hold is broken, with HOLD_BROKEN and the hold count to its port (R169); every
grant, request, mark and entry goes (R112); every earmark is released to what its course owes, and the courses are
judged, so that a READY course that held one is FIRED again; every wanted mode is OFF, a cabinet that is on enters OFF,
and an urgent SET to OFF is claimed for the node of each one bound; LOCKOUT joins both lines' stop reasons, the boosters
release, and the conveyors' SETs are urgent; the URGENT LOCKOUT page goes to ALL (R143), its argument a free value (log
1); LOCKOUT_ENTERED is raised. (The millisecond count reaches the timer's end: log 5. Line 0 before line 1: log 18. The
subject of HOLD_BROKEN is the port's code: log 26.) -/
def Obligations.ConfirmExpiryEntersLockout : Prop :=
  ∀ (k b : Nat) (s : State), s.day.resetLow = false → Sized s → k < 24 → s.day.confirm.getD k none = some b →
    (s.day.state = .lockout → exec (.confirmTimerExpiry k) s = .next s) ∧
      (s.day.state ≠ .lockout →
        let entered := (s.withDay { s.day with
            state := .lockout, ret := some s.day.state, cause := some k, feedcut := true,
            confirm := List.replicate 24 none, ms := max s.day.ms (b + 3000) }).withBus
          { s.bus with discTimer := some (s.bus.discTimer.getD 5) }
        let told :=
          match s.hold.owner with
          | none => entered
          | some p => raiseTo p .holdBroken p.code s.hold.count s.hold.count entered
        let broken := told.withHold ⟨none, 0, none⟩
        let cut := forEach (List.range 26) (fun c v => v.setConsumer c (v.consumer c).released) broken
        let dead := cut.withPower { cut.power with settle := none, unresolved := false }
        let freed := dead.earmarks.foldl (fun v e =>
          setOwed e.course ((v.course e.course).owed + e.count) (setEarmark e.course e.cab 0 v)) dead
        let off := forEach (List.range 24) (fun j v =>
          let x := v.setCab j { v.cab j with wantedOn := false }
          claimCab j true (if (v.cab j).state.on = true then enterOff j true x else x)) (evaluateAll freed)
        let stopped := fun (l : Nat) (v : State) =>
          conveyorSync true l (boosterSync l (v.setLine l { v.line l with
            stops := { (v.line l).stops with lockout := true } }))
        let u := stopped 1 (stopped 0 off)
        ∃ arg w t, exec (.confirmTimerExpiry k) s = .next t ∧
          t = finish (raise .lockoutEntered k s.day.state.code (if s.hold.owner = none then 0 else 1) w) ∧
          w = claimPage .all 0x08 arg .urgent none { u with freeCount := u.freeCount + 1 } ∧
          Floor (raise .lockoutEntered k s.day.state.code (if s.hold.owner = none then 0 else 1) w) t ∧
          w.day = entered.day ∧ w.hold = ⟨none, 0, none⟩ ∧ w.earmarks = [] ∧
          (∀ c, c < 32 → (s.course c).state = .ready → (∃ e ∈ s.earmarks, e.course = c ∧ 0 < e.count) →
            (w.course c).state = .fired) ∧
          (∀ c, c < 26 → (w.consumer c).grant = 0 ∧ (w.consumer c).request = 0 ∧ (w.consumer c).mark = false) ∧
          (∀ j, j < 24 → (w.cab j).wantedOn = false ∧ (w.cab j).state.on = false) ∧
          (∀ j a, j < 24 → 1 ≤ a → a ≤ 31 → (s.cab j).addr = some a → (s.node a).binding = .cabinet j →
            (s.node a).presence = .present ∨ (s.node a).presence = .silent → (s.cab j).state ≠ .offline →
            (s.cab j).state.on = true ∨ (s.cab j).wantMode = .off →
            (w.node a).wanted = .cabinet .off (s.cab j).setpoint ∧ (w.node a).wantedUrgent = true ∧
              .set a ∈ w.bus.urgent) ∧
          (∀ l, l < 2 → (w.line l).stops.lockout = true ∧ (w.line l).wantedRun = false) ∧
          w.power.settle = none ∧ w.power.unresolved = false ∧ (Conserves s → Conserves w))

/-- LOCKOUT_CLEAR (R182): refused with BAD_STATE outside LOCKOUT, while a cabinet has OVERTEMP live, and while a
cabinet whose node is bound has not reported element OFF; otherwise the day returns to the state recorded, FEEDCUT is
deasserted, LOCKOUT leaves the stop reasons, a booster whose conditions hold claims again, the discovery timer follows
the day, and LOCKOUT_CLEARED is raised; the reply carries the day state returned to. -/
def Obligations.LockoutClearReturnsDay : Prop :=
  ∀ (p : Port) (r : DayState) (s : State), Admitted (.lockoutClear p) p s → Sized s →
    let i := Instr.lockoutClear p
    let u := before i p s
    let hot := ∃ c ∈ s.cabs, c.live.overtemp = true
    let unproved := ∃ k, k < 24 ∧ ∃ a, (s.cab k).addr = some a ∧ (s.node a).binding = .cabinet k ∧
      ¬((s.cab k).reported = true ∧ (s.cab k).level = .off)
    let day := u.withDay { s.day with state := r, ret := none, cause := none, feedcut := false }
    let cleared := fun (l : Nat) (v : State) =>
      boosterSync l (v.setLine l { v.line l with stops := { (v.line l).stops with lockout := false } })
    let v := cleared 1 (cleared 0 day)
    let w := v.withBus { v.bus with discTimer := if r = .opening then none else some (v.bus.discTimer.getD 5) }
    (s.day.state = .lockout → s.day.ret = some r → ¬hot → ¬unproved →
      ∃ t, Executes i p s (be8 r.code) t ∧ t = finish (callClose (raise .lockoutCleared 0 r.code 0 w)) ∧
        Floor (raise .lockoutCleared 0 r.code 0 w) t ∧
        w.day = { s.day with state := r, ret := none, cause := none, feedcut := false } ∧
        w.cabs = u.cabs ∧ w.wares = u.wares ∧ w.courses = u.courses ∧ w.paging = u.paging ∧ w.ports = u.ports ∧
        ∀ l, l < 2 → (w.line l).stops.lockout = false ∧
          ((w.line l).opRun = true → r = .service ∨ r = .closing → 0 < (w.line l).booster →
            (u.consumer (24 + l)).request = 0 → (w.consumer (24 + l)).request = (w.line l).booster)) ∧
      (s.day.state ≠ .lockout ∨ hot ∨ unproved → RefusedWith i p s .badState)

/-! ### Reads and laws -/

/-- The reads (R50, R75, R99, R118, R141, R159) answer OK in every day state and while another port holds, and change
nothing; a selector, slot or position out of range is refused with RANGE, and a rack, page or pager that is not there
with NOT_FOUND. POWER_READ, PAGE_READ, PAGER_READ and NODE_READ carry their records (KitchenReadsCarryTheirFields says
it of the other three): field by field in the order of the rules' lists (log 25), absent fields all ones and timers as
what is left of them (log 9), flags of two named values by their position (log 8). -/
def Obligations.ReadsAnswerAndChangeNothing : Prop :=
  ∀ (p : Port) (x y z : Nat) (s : State), Ready p s →
    let reads := fun (i : Instr) => ∃ data, Executes i p s data s
    let range := fun (i : Instr) => RefusedWith i p s .range
    let absent := fun (i : Instr) => RefusedWith i p s .notFound
    let racks := (s.line x).staged ++ (s.line x).inside ++ (s.line x).exits
    let m := s.power
    let g := s.paging
    let summary :=
      be16 m.budget ++ be16 m.shedHigh ++ be16 m.shedLow ++ be8 (if m.saturate then 0 else 1) ++
        be8 (if m.nearestEven then 1 else 0) ++ be8 (if m.protected0 then 0 else 1) ++ be8 (if m.protected1 then 0 else 1) ++
        be16 s.grantSum ++ be16 s.measuredTotal ++ beFlag m.settle.isSome ++ beFlag m.unresolved ++ be8 s.waitList.length
    let consumer :=
      let c := s.consumer y
      be16 c.grant ++ be16 c.request ++ be8 (s.tier y) ++ be8 (5 - s.tier y) ++ beFlag c.mark ++ be16 (s.protectedPart y) ++
        be16 c.measured ++ beOpt32 c.lastReport ++ beOpt8 (s.waitList.findIdx? (· = y))
    let entries := s.waitList.map fun c =>
      be8 (if (s.consumer c).mark then 128 + c else c) ++ be16 (s.consumer c).request ++
        be16 (min (s.day.clock - (s.consumer c).reqTime.getD s.day.clock) 65535)
    let page := fun (i : Nat) (q : Page) =>
      be8 q.id ++ be8 q.target.kindCode ++ be8 q.target.value ++ be8 q.code ++ be16 q.arg ++ be8 q.prio.code ++
        be8 (match q.origin with | .port o => o.code | .block => 3) ++ be32 q.created ++ be8 q.state.code ++
        beFlag q.inDelivery ++ beOpt8 (q.level.map Prio.code) ++ be8 q.resends ++ beFlag q.cancelMark ++ beOpt8 q.course ++
        be8 (s.effective q).code ++ be8 i ++ beOpt8 (q.resendEnd.map fun e => e - s.day.clock) ++ be8 g.pages.length ++
        be8 (g.pages.filter fun h => h.state = .handed ∨ h.inDelivery = true).length
    let pager := fun (e : Option Pager) =>
      match e with
      | none => be8 0
      | some h => be8 1 ++ be8 h.addr ++ be8 (if h.present then 0 else 1) ++ be32 h.lastSeen
    let team :=
      let rate := g.rates.getD (x - 1) ⟨0, none⟩
      let has := fun (v : Prio) => g.pages.any fun q => q.target = .team x && q.level = some v
      beFlag (s.teamPresent x) ++ be8 rate.count ++ beOpt8 (rate.ends.map fun e => e - s.day.clock) ++
        beOpt16 ((g.rush.getD (x - 1) none).map fun e => e - s.day.clock) ++
        be8 (g.pages.filter fun q => q.target = .team x).length ++ be8 (maskOf [has .urgent, has .rush, has .normal, has .info])
    let node :=
      let n := s.node y
      be8 (match n.type with | none => 0xFF | some ty => ty.code) ++ be32 n.serial ++ be8 n.presence.code ++ be8 n.misses ++
        beOpt8 n.silence ++ beOpt32 n.lastResp ++ beOpt8 n.loadBase ++ beOpt8 n.drawBase ++
        (match n.binding with
         | .unbound => be8 0xFF ++ be8 0xFF
         | .cabinet k => be8 0 ++ be8 k
         | .line l => be8 1 ++ be8 l
         | .base => be8 2 ++ be8 0xFF) ++
        be8 n.pollClass.code ++ beOpt16 (n.pollEnd.map fun e => e - s.day.ms) ++ beFlag n.fetchAhead ++
        (match n.wanted with
         | .nothing => be8 0
         | .cabinet mode tp => be8 1 ++ be8 mode.code ++ beTemp tp
         | .line run => be8 1 ++ be8 (if run then 0 else 1)) ++
        beFlag n.wantedUrgent ++ beOpt8 n.lastEvent ++ beOpt32 (n.lastResp.map fun e => s.day.clock - e)
    let bus :=
      let b := s.bus
      let count := fun (v : Presence) => be8 (b.nodes.filter fun n => n.presence = v).length
      be8 b.discPtr ++ count .unknown ++ count .present ++ count .silent ++ count .lost ++
        beOpt8 (b.inflight.map fun f =>
          match f.tx with | .identify _ => 0 | .poll _ => 1 | .set _ => 2 | .deliver _ _ _ _ _ => 3) ++
        beOpt8 (b.inflight.map fun f => f.tx.addr) ++ beFlag (b.guard = .abandon) ++ be8 b.urgent.length ++
        be8 b.fetch.length ++ be8 b.ordinary.length
    (x < 32 ∧ (y = 0 ∨ y = 1 ∧ z < 24) → reads (.courseRead p x y z)) ∧
      (¬(x < 32 ∧ (y = 0 ∨ y = 1 ∧ z < 24)) → range (.courseRead p x y z)) ∧
      (x < 24 ∧ (y = 0 ∨ y < 4 ∧ z < 24) → reads (.cabinetRead p x y z)) ∧
      (¬(x < 24 ∧ (y = 0 ∨ y < 4 ∧ z < 24)) → range (.cabinetRead p x y z)) ∧
      (x < 2 → (∃ r ∈ racks, r.tag = z) → reads (.rackRead p x 0 z)) ∧
      (x < 2 → (∀ r ∈ racks, r.tag ≠ z) → absent (.rackRead p x 0 z)) ∧
      (x < 2 → z < 12 → z < racks.length → reads (.rackRead p x 1 z)) ∧
      (x < 2 → z < 12 → racks.length ≤ z → absent (.rackRead p x 1 z)) ∧
      (2 ≤ x ∨ 2 ≤ y ∨ y = 1 ∧ 12 ≤ z → range (.rackRead p x y z)) ∧
      Executes (.powerRead p 0 y) p s summary s ∧ (y < 26 → Executes (.powerRead p 1 y) p s consumer s) ∧
      (y < 26 → Executes (.powerRead p 2 y) p s (((entries.drop y).take 8).flatten ++ be8 entries.length) s) ∧
      (¬(x = 0 ∨ x < 3 ∧ y < 26) → range (.powerRead p x y)) ∧
      (∀ i q, g.pages[i]? = some q →
        (i < 32 → Executes (.pageRead p 1 i) p s (page i q) s) ∧
          ((∀ j h, j < i → g.pages[j]? = some h → h.id ≠ q.id) → Executes (.pageRead p 0 q.id) p s (page i q) s)) ∧
      ((∀ q ∈ g.pages, q.id ≠ x) → absent (.pageRead p 0 x)) ∧
      (x < 32 → g.pages.length ≤ x → absent (.pageRead p 1 x)) ∧
      (2 ≤ x ∨ x = 1 ∧ 32 ≤ y → range (.pageRead p x y)) ∧
      (x < 64 → Executes (.pagerRead p 0 x) p s (pager (g.dir.getD x none)) s) ∧
      (∀ i h, g.dir[i]? = some (some h) → 16 ≤ h.addr → h.addr ≤ 239 →
        (∀ j e, j < i → g.dir[j]? = some (some e) → e.addr ≠ h.addr) →
        Executes (.pagerRead p 1 h.addr) p s (pager (some h) ++ be8 i) s) ∧
      (16 ≤ x → x ≤ 239 → (∀ e ∈ g.dir, ∀ h, e = some h → h.addr ≠ x) → absent (.pagerRead p 1 x)) ∧
      (1 ≤ x → x ≤ 14 → Executes (.pagerRead p 2 x) p s team s) ∧
      (x = 0 ∧ 64 ≤ y ∨ x = 1 ∧ (y < 16 ∨ 239 < y) ∨ x = 2 ∧ (y = 0 ∨ 14 < y) ∨ 3 ≤ x → range (.pagerRead p x y)) ∧
      (1 ≤ y → y ≤ 31 → Executes (.nodeRead p 0 y) p s node s) ∧ Executes (.nodeRead p 1 y) p s bus s ∧
      (¬(x = 1 ∨ x = 0 ∧ 1 ≤ y ∧ y ≤ 31) → range (.nodeRead p x y))

/-- DAY_READ (R184), LINE_READ (R99) and FUNCTION_READ (R50) carry their records, in R185's encoding, and change
nothing; the first is taken in every day state. (Field by field in the order of the rules' lists; a flag of two named
values by its position there, log 8.) -/
def Obligations.RecordReadsCarryTheirFields : Prop :=
  ∀ (p : Port) (x : Nat) (s : State), Ready p s →
    let d := s.day
    let drain := (List.range s.cabs.length).filter fun k => (s.cab k).state ≠ .off ∧ (s.cab k).state ≠ .offline
    let hot := (List.range s.cabs.length).filter fun k => (s.cab k).live.overtemp = true
    let unproved := (List.range 24).filter fun k =>
      s.cabBound k = true ∧ ¬((s.cab k).reported = true ∧ (s.cab k).level = .off)
    let listed := fun (l : List Nat) => be8 l.length ++ beOpt8 l.head?
    let l := s.line x
    let f := s.fn x
    (∃ left, Executes (.dayRead p) p s
        (be8 d.state.code ++ beOpt8 (d.ret.map DayState.code) ++ beOpt8 d.cause ++ be32 d.clock ++ beFlag d.feedcut ++
          be24 (maskOf (d.confirm.map Option.isSome)) ++ beOpt16 left ++ listed drain ++ be8 (s.line 0).inside.length ++
          be8 (s.line 1).inside.length ++ listed hot ++ listed unproved) s ∧
        (left = none ↔ ∀ t ∈ d.confirm, t = none) ∧
        ∀ m, left = some m →
          (∃ b, some b ∈ d.confirm ∧ m = b + 3000 - d.ms) ∧ ∀ b, some b ∈ d.confirm → m ≤ b + 3000 - d.ms) ∧
      (x < 2 → Executes (.lineRead p x) p s
        (beOpt8 l.addr ++ be8 l.defFn ++ be8 (if l.strict then 0 else 1) ++ beTemp l.sanMin ++ be8 l.high ++ be8 l.low ++
          be16 l.transitLimit ++ be16 l.routeTimeout ++ be16 l.booster ++ be8 (if l.opRun then 0 else 1) ++
          be8 (maskOf [l.stops.operator, l.stops.backpressure, l.stops.power, l.stops.lockout, l.stops.day]) ++
          be8 (if l.wantedRun then 0 else 1) ++ be8 (if l.running then 0 else 1) ++ beTemp l.rinse ++ beFlag l.rinseLow ++
          beOpt8 l.lastEvent ++ be8 l.staged.length ++ be8 l.inside.length ++
          be8 (l.exits.filter fun r => r.reason = none).length ++ be8 (l.exits.filter fun r => r.reason ≠ none).length ++
          be8 l.exits.length) s) ∧
      (2 ≤ x → RefusedWith (.lineRead p x) p s .range) ∧
      (x < 8 → Executes (.functionRead p x) p s
        (beFlag f.used ++ be24 f.members ++ be8 f.team ++ be8 f.mode.code ++ be8 f.round) s) ∧
      (8 ≤ x → RefusedWith (.functionRead p x) p s .range)

/-- R2, kept by every step: the six places of every class hold STOCK. -/
def Obligations.StockIsConserved : Prop := ∀ s t : State, Conserves s → step s = .next t → Conserves t

/-- R167 to R169, kept by every step: with no owner the hold count is 0 and the timer stopped; a hold between steps has
counted fewer than 4 commands, and its timer runs. -/
def Obligations.HoldLawIsKept : Prop := ∀ s t : State, HoldLaw s → step s = .next t → HoldLaw t

/-- R176, R181, R182, kept by every step: FEEDCUT, the return state and the cause stand in LOCKOUT and only there, and
the return state is never LOCKOUT. -/
def Obligations.LockoutLawIsKept : Prop := ∀ s t : State, LockoutLaw s → step s = .next t → LockoutLaw t

/-- The tables keep their sizes, and no notice queue passes 24 (R171), at every step. -/
def Obligations.SizesAreKept : Prop :=
  ∀ s t : State, step s = .next t → (Sized s → Sized t) ∧ (QueuesBounded s → QueuesBounded t)
end

