-- ==== Sys2Proof/Laws/State.lean ====
section
/-! SUPPORT. What each writer of a record does to each field, and what the readers of one entry see after it. -/

namespace Sys2Proof.Machine.State

variable (s : State)

/-! ### withPending -/

@[simp] theorem withPending_pending (x : List Instr) : (s.withPending x).pending = x := rfl
@[simp] theorem withPending_ports (x : List Instr) : (s.withPending x).ports = s.ports := rfl
@[simp] theorem withPending_hold (x : List Instr) : (s.withPending x).hold = s.hold := rfl
@[simp] theorem withPending_day (x : List Instr) : (s.withPending x).day = s.day := rfl
@[simp] theorem withPending_wares (x : List Instr) : (s.withPending x).wares = s.wares := rfl
@[simp] theorem withPending_fns (x : List Instr) : (s.withPending x).fns = s.fns := rfl
@[simp] theorem withPending_courses (x : List Instr) : (s.withPending x).courses = s.courses := rfl
@[simp] theorem withPending_fire (x : List Instr) : (s.withPending x).fire = s.fire := rfl
@[simp] theorem withPending_earmarks (x : List Instr) : (s.withPending x).earmarks = s.earmarks := rfl
@[simp] theorem withPending_cabs (x : List Instr) : (s.withPending x).cabs = s.cabs := rfl
@[simp] theorem withPending_lines (x : List Instr) : (s.withPending x).lines = s.lines := rfl
@[simp] theorem withPending_power (x : List Instr) : (s.withPending x).power = s.power := rfl
@[simp] theorem withPending_paging (x : List Instr) : (s.withPending x).paging = s.paging := rfl
@[simp] theorem withPending_bus (x : List Instr) : (s.withPending x).bus = s.bus := rfl
@[simp] theorem withPending_calls (x : List Instr) : (s.withPending x).calls = s.calls := rfl
@[simp] theorem withPending_freeCount (x : List Instr) : (s.withPending x).freeCount = s.freeCount := rfl

/-! ### withPorts -/

@[simp] theorem withPorts_pending (x : Ports) : (s.withPorts x).pending = s.pending := rfl
@[simp] theorem withPorts_ports (x : Ports) : (s.withPorts x).ports = x := rfl
@[simp] theorem withPorts_hold (x : Ports) : (s.withPorts x).hold = s.hold := rfl
@[simp] theorem withPorts_day (x : Ports) : (s.withPorts x).day = s.day := rfl
@[simp] theorem withPorts_wares (x : Ports) : (s.withPorts x).wares = s.wares := rfl
@[simp] theorem withPorts_fns (x : Ports) : (s.withPorts x).fns = s.fns := rfl
@[simp] theorem withPorts_courses (x : Ports) : (s.withPorts x).courses = s.courses := rfl
@[simp] theorem withPorts_fire (x : Ports) : (s.withPorts x).fire = s.fire := rfl
@[simp] theorem withPorts_earmarks (x : Ports) : (s.withPorts x).earmarks = s.earmarks := rfl
@[simp] theorem withPorts_cabs (x : Ports) : (s.withPorts x).cabs = s.cabs := rfl
@[simp] theorem withPorts_lines (x : Ports) : (s.withPorts x).lines = s.lines := rfl
@[simp] theorem withPorts_power (x : Ports) : (s.withPorts x).power = s.power := rfl
@[simp] theorem withPorts_paging (x : Ports) : (s.withPorts x).paging = s.paging := rfl
@[simp] theorem withPorts_bus (x : Ports) : (s.withPorts x).bus = s.bus := rfl
@[simp] theorem withPorts_calls (x : Ports) : (s.withPorts x).calls = s.calls := rfl
@[simp] theorem withPorts_freeCount (x : Ports) : (s.withPorts x).freeCount = s.freeCount := rfl

/-! ### withHold -/

@[simp] theorem withHold_pending (x : Hold) : (s.withHold x).pending = s.pending := rfl
@[simp] theorem withHold_ports (x : Hold) : (s.withHold x).ports = s.ports := rfl
@[simp] theorem withHold_hold (x : Hold) : (s.withHold x).hold = x := rfl
@[simp] theorem withHold_day (x : Hold) : (s.withHold x).day = s.day := rfl
@[simp] theorem withHold_wares (x : Hold) : (s.withHold x).wares = s.wares := rfl
@[simp] theorem withHold_fns (x : Hold) : (s.withHold x).fns = s.fns := rfl
@[simp] theorem withHold_courses (x : Hold) : (s.withHold x).courses = s.courses := rfl
@[simp] theorem withHold_fire (x : Hold) : (s.withHold x).fire = s.fire := rfl
@[simp] theorem withHold_earmarks (x : Hold) : (s.withHold x).earmarks = s.earmarks := rfl
@[simp] theorem withHold_cabs (x : Hold) : (s.withHold x).cabs = s.cabs := rfl
@[simp] theorem withHold_lines (x : Hold) : (s.withHold x).lines = s.lines := rfl
@[simp] theorem withHold_power (x : Hold) : (s.withHold x).power = s.power := rfl
@[simp] theorem withHold_paging (x : Hold) : (s.withHold x).paging = s.paging := rfl
@[simp] theorem withHold_bus (x : Hold) : (s.withHold x).bus = s.bus := rfl
@[simp] theorem withHold_calls (x : Hold) : (s.withHold x).calls = s.calls := rfl
@[simp] theorem withHold_freeCount (x : Hold) : (s.withHold x).freeCount = s.freeCount := rfl

/-! ### withDay -/

@[simp] theorem withDay_pending (x : Day) : (s.withDay x).pending = s.pending := rfl
@[simp] theorem withDay_ports (x : Day) : (s.withDay x).ports = s.ports := rfl
@[simp] theorem withDay_hold (x : Day) : (s.withDay x).hold = s.hold := rfl
@[simp] theorem withDay_day (x : Day) : (s.withDay x).day = x := rfl
@[simp] theorem withDay_wares (x : Day) : (s.withDay x).wares = s.wares := rfl
@[simp] theorem withDay_fns (x : Day) : (s.withDay x).fns = s.fns := rfl
@[simp] theorem withDay_courses (x : Day) : (s.withDay x).courses = s.courses := rfl
@[simp] theorem withDay_fire (x : Day) : (s.withDay x).fire = s.fire := rfl
@[simp] theorem withDay_earmarks (x : Day) : (s.withDay x).earmarks = s.earmarks := rfl
@[simp] theorem withDay_cabs (x : Day) : (s.withDay x).cabs = s.cabs := rfl
@[simp] theorem withDay_lines (x : Day) : (s.withDay x).lines = s.lines := rfl
@[simp] theorem withDay_power (x : Day) : (s.withDay x).power = s.power := rfl
@[simp] theorem withDay_paging (x : Day) : (s.withDay x).paging = s.paging := rfl
@[simp] theorem withDay_bus (x : Day) : (s.withDay x).bus = s.bus := rfl
@[simp] theorem withDay_calls (x : Day) : (s.withDay x).calls = s.calls := rfl
@[simp] theorem withDay_freeCount (x : Day) : (s.withDay x).freeCount = s.freeCount := rfl

/-! ### withWares -/

@[simp] theorem withWares_pending (x : List Ware) : (s.withWares x).pending = s.pending := rfl
@[simp] theorem withWares_ports (x : List Ware) : (s.withWares x).ports = s.ports := rfl
@[simp] theorem withWares_hold (x : List Ware) : (s.withWares x).hold = s.hold := rfl
@[simp] theorem withWares_day (x : List Ware) : (s.withWares x).day = s.day := rfl
@[simp] theorem withWares_wares (x : List Ware) : (s.withWares x).wares = x := rfl
@[simp] theorem withWares_fns (x : List Ware) : (s.withWares x).fns = s.fns := rfl
@[simp] theorem withWares_courses (x : List Ware) : (s.withWares x).courses = s.courses := rfl
@[simp] theorem withWares_fire (x : List Ware) : (s.withWares x).fire = s.fire := rfl
@[simp] theorem withWares_earmarks (x : List Ware) : (s.withWares x).earmarks = s.earmarks := rfl
@[simp] theorem withWares_cabs (x : List Ware) : (s.withWares x).cabs = s.cabs := rfl
@[simp] theorem withWares_lines (x : List Ware) : (s.withWares x).lines = s.lines := rfl
@[simp] theorem withWares_power (x : List Ware) : (s.withWares x).power = s.power := rfl
@[simp] theorem withWares_paging (x : List Ware) : (s.withWares x).paging = s.paging := rfl
@[simp] theorem withWares_bus (x : List Ware) : (s.withWares x).bus = s.bus := rfl
@[simp] theorem withWares_calls (x : List Ware) : (s.withWares x).calls = s.calls := rfl
@[simp] theorem withWares_freeCount (x : List Ware) : (s.withWares x).freeCount = s.freeCount := rfl

/-! ### withFns -/

@[simp] theorem withFns_pending (x : List Fn) : (s.withFns x).pending = s.pending := rfl
@[simp] theorem withFns_ports (x : List Fn) : (s.withFns x).ports = s.ports := rfl
@[simp] theorem withFns_hold (x : List Fn) : (s.withFns x).hold = s.hold := rfl
@[simp] theorem withFns_day (x : List Fn) : (s.withFns x).day = s.day := rfl
@[simp] theorem withFns_wares (x : List Fn) : (s.withFns x).wares = s.wares := rfl
@[simp] theorem withFns_fns (x : List Fn) : (s.withFns x).fns = x := rfl
@[simp] theorem withFns_courses (x : List Fn) : (s.withFns x).courses = s.courses := rfl
@[simp] theorem withFns_fire (x : List Fn) : (s.withFns x).fire = s.fire := rfl
@[simp] theorem withFns_earmarks (x : List Fn) : (s.withFns x).earmarks = s.earmarks := rfl
@[simp] theorem withFns_cabs (x : List Fn) : (s.withFns x).cabs = s.cabs := rfl
@[simp] theorem withFns_lines (x : List Fn) : (s.withFns x).lines = s.lines := rfl
@[simp] theorem withFns_power (x : List Fn) : (s.withFns x).power = s.power := rfl
@[simp] theorem withFns_paging (x : List Fn) : (s.withFns x).paging = s.paging := rfl
@[simp] theorem withFns_bus (x : List Fn) : (s.withFns x).bus = s.bus := rfl
@[simp] theorem withFns_calls (x : List Fn) : (s.withFns x).calls = s.calls := rfl
@[simp] theorem withFns_freeCount (x : List Fn) : (s.withFns x).freeCount = s.freeCount := rfl

/-! ### withCourses -/

@[simp] theorem withCourses_pending (x : List Course) : (s.withCourses x).pending = s.pending := rfl
@[simp] theorem withCourses_ports (x : List Course) : (s.withCourses x).ports = s.ports := rfl
@[simp] theorem withCourses_hold (x : List Course) : (s.withCourses x).hold = s.hold := rfl
@[simp] theorem withCourses_day (x : List Course) : (s.withCourses x).day = s.day := rfl
@[simp] theorem withCourses_wares (x : List Course) : (s.withCourses x).wares = s.wares := rfl
@[simp] theorem withCourses_fns (x : List Course) : (s.withCourses x).fns = s.fns := rfl
@[simp] theorem withCourses_courses (x : List Course) : (s.withCourses x).courses = x := rfl
@[simp] theorem withCourses_fire (x : List Course) : (s.withCourses x).fire = s.fire := rfl
@[simp] theorem withCourses_earmarks (x : List Course) : (s.withCourses x).earmarks = s.earmarks := rfl
@[simp] theorem withCourses_cabs (x : List Course) : (s.withCourses x).cabs = s.cabs := rfl
@[simp] theorem withCourses_lines (x : List Course) : (s.withCourses x).lines = s.lines := rfl
@[simp] theorem withCourses_power (x : List Course) : (s.withCourses x).power = s.power := rfl
@[simp] theorem withCourses_paging (x : List Course) : (s.withCourses x).paging = s.paging := rfl
@[simp] theorem withCourses_bus (x : List Course) : (s.withCourses x).bus = s.bus := rfl
@[simp] theorem withCourses_calls (x : List Course) : (s.withCourses x).calls = s.calls := rfl
@[simp] theorem withCourses_freeCount (x : List Course) : (s.withCourses x).freeCount = s.freeCount := rfl

/-! ### withFire -/

@[simp] theorem withFire_pending (x : Fire) : (s.withFire x).pending = s.pending := rfl
@[simp] theorem withFire_ports (x : Fire) : (s.withFire x).ports = s.ports := rfl
@[simp] theorem withFire_hold (x : Fire) : (s.withFire x).hold = s.hold := rfl
@[simp] theorem withFire_day (x : Fire) : (s.withFire x).day = s.day := rfl
@[simp] theorem withFire_wares (x : Fire) : (s.withFire x).wares = s.wares := rfl
@[simp] theorem withFire_fns (x : Fire) : (s.withFire x).fns = s.fns := rfl
@[simp] theorem withFire_courses (x : Fire) : (s.withFire x).courses = s.courses := rfl
@[simp] theorem withFire_fire (x : Fire) : (s.withFire x).fire = x := rfl
@[simp] theorem withFire_earmarks (x : Fire) : (s.withFire x).earmarks = s.earmarks := rfl
@[simp] theorem withFire_cabs (x : Fire) : (s.withFire x).cabs = s.cabs := rfl
@[simp] theorem withFire_lines (x : Fire) : (s.withFire x).lines = s.lines := rfl
@[simp] theorem withFire_power (x : Fire) : (s.withFire x).power = s.power := rfl
@[simp] theorem withFire_paging (x : Fire) : (s.withFire x).paging = s.paging := rfl
@[simp] theorem withFire_bus (x : Fire) : (s.withFire x).bus = s.bus := rfl
@[simp] theorem withFire_calls (x : Fire) : (s.withFire x).calls = s.calls := rfl
@[simp] theorem withFire_freeCount (x : Fire) : (s.withFire x).freeCount = s.freeCount := rfl

/-! ### withEarmarks -/

@[simp] theorem withEarmarks_pending (x : List Earmark) : (s.withEarmarks x).pending = s.pending := rfl
@[simp] theorem withEarmarks_ports (x : List Earmark) : (s.withEarmarks x).ports = s.ports := rfl
@[simp] theorem withEarmarks_hold (x : List Earmark) : (s.withEarmarks x).hold = s.hold := rfl
@[simp] theorem withEarmarks_day (x : List Earmark) : (s.withEarmarks x).day = s.day := rfl
@[simp] theorem withEarmarks_wares (x : List Earmark) : (s.withEarmarks x).wares = s.wares := rfl
@[simp] theorem withEarmarks_fns (x : List Earmark) : (s.withEarmarks x).fns = s.fns := rfl
@[simp] theorem withEarmarks_courses (x : List Earmark) : (s.withEarmarks x).courses = s.courses := rfl
@[simp] theorem withEarmarks_fire (x : List Earmark) : (s.withEarmarks x).fire = s.fire := rfl
@[simp] theorem withEarmarks_earmarks (x : List Earmark) : (s.withEarmarks x).earmarks = x := rfl
@[simp] theorem withEarmarks_cabs (x : List Earmark) : (s.withEarmarks x).cabs = s.cabs := rfl
@[simp] theorem withEarmarks_lines (x : List Earmark) : (s.withEarmarks x).lines = s.lines := rfl
@[simp] theorem withEarmarks_power (x : List Earmark) : (s.withEarmarks x).power = s.power := rfl
@[simp] theorem withEarmarks_paging (x : List Earmark) : (s.withEarmarks x).paging = s.paging := rfl
@[simp] theorem withEarmarks_bus (x : List Earmark) : (s.withEarmarks x).bus = s.bus := rfl
@[simp] theorem withEarmarks_calls (x : List Earmark) : (s.withEarmarks x).calls = s.calls := rfl
@[simp] theorem withEarmarks_freeCount (x : List Earmark) : (s.withEarmarks x).freeCount = s.freeCount := rfl

/-! ### withCabs -/

@[simp] theorem withCabs_pending (x : List Cab) : (s.withCabs x).pending = s.pending := rfl
@[simp] theorem withCabs_ports (x : List Cab) : (s.withCabs x).ports = s.ports := rfl
@[simp] theorem withCabs_hold (x : List Cab) : (s.withCabs x).hold = s.hold := rfl
@[simp] theorem withCabs_day (x : List Cab) : (s.withCabs x).day = s.day := rfl
@[simp] theorem withCabs_wares (x : List Cab) : (s.withCabs x).wares = s.wares := rfl
@[simp] theorem withCabs_fns (x : List Cab) : (s.withCabs x).fns = s.fns := rfl
@[simp] theorem withCabs_courses (x : List Cab) : (s.withCabs x).courses = s.courses := rfl
@[simp] theorem withCabs_fire (x : List Cab) : (s.withCabs x).fire = s.fire := rfl
@[simp] theorem withCabs_earmarks (x : List Cab) : (s.withCabs x).earmarks = s.earmarks := rfl
@[simp] theorem withCabs_cabs (x : List Cab) : (s.withCabs x).cabs = x := rfl
@[simp] theorem withCabs_lines (x : List Cab) : (s.withCabs x).lines = s.lines := rfl
@[simp] theorem withCabs_power (x : List Cab) : (s.withCabs x).power = s.power := rfl
@[simp] theorem withCabs_paging (x : List Cab) : (s.withCabs x).paging = s.paging := rfl
@[simp] theorem withCabs_bus (x : List Cab) : (s.withCabs x).bus = s.bus := rfl
@[simp] theorem withCabs_calls (x : List Cab) : (s.withCabs x).calls = s.calls := rfl
@[simp] theorem withCabs_freeCount (x : List Cab) : (s.withCabs x).freeCount = s.freeCount := rfl

/-! ### withLines -/

@[simp] theorem withLines_pending (x : List Line) : (s.withLines x).pending = s.pending := rfl
@[simp] theorem withLines_ports (x : List Line) : (s.withLines x).ports = s.ports := rfl
@[simp] theorem withLines_hold (x : List Line) : (s.withLines x).hold = s.hold := rfl
@[simp] theorem withLines_day (x : List Line) : (s.withLines x).day = s.day := rfl
@[simp] theorem withLines_wares (x : List Line) : (s.withLines x).wares = s.wares := rfl
@[simp] theorem withLines_fns (x : List Line) : (s.withLines x).fns = s.fns := rfl
@[simp] theorem withLines_courses (x : List Line) : (s.withLines x).courses = s.courses := rfl
@[simp] theorem withLines_fire (x : List Line) : (s.withLines x).fire = s.fire := rfl
@[simp] theorem withLines_earmarks (x : List Line) : (s.withLines x).earmarks = s.earmarks := rfl
@[simp] theorem withLines_cabs (x : List Line) : (s.withLines x).cabs = s.cabs := rfl
@[simp] theorem withLines_lines (x : List Line) : (s.withLines x).lines = x := rfl
@[simp] theorem withLines_power (x : List Line) : (s.withLines x).power = s.power := rfl
@[simp] theorem withLines_paging (x : List Line) : (s.withLines x).paging = s.paging := rfl
@[simp] theorem withLines_bus (x : List Line) : (s.withLines x).bus = s.bus := rfl
@[simp] theorem withLines_calls (x : List Line) : (s.withLines x).calls = s.calls := rfl
@[simp] theorem withLines_freeCount (x : List Line) : (s.withLines x).freeCount = s.freeCount := rfl

/-! ### withPower -/

@[simp] theorem withPower_pending (x : Power) : (s.withPower x).pending = s.pending := rfl
@[simp] theorem withPower_ports (x : Power) : (s.withPower x).ports = s.ports := rfl
@[simp] theorem withPower_hold (x : Power) : (s.withPower x).hold = s.hold := rfl
@[simp] theorem withPower_day (x : Power) : (s.withPower x).day = s.day := rfl
@[simp] theorem withPower_wares (x : Power) : (s.withPower x).wares = s.wares := rfl
@[simp] theorem withPower_fns (x : Power) : (s.withPower x).fns = s.fns := rfl
@[simp] theorem withPower_courses (x : Power) : (s.withPower x).courses = s.courses := rfl
@[simp] theorem withPower_fire (x : Power) : (s.withPower x).fire = s.fire := rfl
@[simp] theorem withPower_earmarks (x : Power) : (s.withPower x).earmarks = s.earmarks := rfl
@[simp] theorem withPower_cabs (x : Power) : (s.withPower x).cabs = s.cabs := rfl
@[simp] theorem withPower_lines (x : Power) : (s.withPower x).lines = s.lines := rfl
@[simp] theorem withPower_power (x : Power) : (s.withPower x).power = x := rfl
@[simp] theorem withPower_paging (x : Power) : (s.withPower x).paging = s.paging := rfl
@[simp] theorem withPower_bus (x : Power) : (s.withPower x).bus = s.bus := rfl
@[simp] theorem withPower_calls (x : Power) : (s.withPower x).calls = s.calls := rfl
@[simp] theorem withPower_freeCount (x : Power) : (s.withPower x).freeCount = s.freeCount := rfl

/-! ### withPaging -/

@[simp] theorem withPaging_pending (x : Paging) : (s.withPaging x).pending = s.pending := rfl
@[simp] theorem withPaging_ports (x : Paging) : (s.withPaging x).ports = s.ports := rfl
@[simp] theorem withPaging_hold (x : Paging) : (s.withPaging x).hold = s.hold := rfl
@[simp] theorem withPaging_day (x : Paging) : (s.withPaging x).day = s.day := rfl
@[simp] theorem withPaging_wares (x : Paging) : (s.withPaging x).wares = s.wares := rfl
@[simp] theorem withPaging_fns (x : Paging) : (s.withPaging x).fns = s.fns := rfl
@[simp] theorem withPaging_courses (x : Paging) : (s.withPaging x).courses = s.courses := rfl
@[simp] theorem withPaging_fire (x : Paging) : (s.withPaging x).fire = s.fire := rfl
@[simp] theorem withPaging_earmarks (x : Paging) : (s.withPaging x).earmarks = s.earmarks := rfl
@[simp] theorem withPaging_cabs (x : Paging) : (s.withPaging x).cabs = s.cabs := rfl
@[simp] theorem withPaging_lines (x : Paging) : (s.withPaging x).lines = s.lines := rfl
@[simp] theorem withPaging_power (x : Paging) : (s.withPaging x).power = s.power := rfl
@[simp] theorem withPaging_paging (x : Paging) : (s.withPaging x).paging = x := rfl
@[simp] theorem withPaging_bus (x : Paging) : (s.withPaging x).bus = s.bus := rfl
@[simp] theorem withPaging_calls (x : Paging) : (s.withPaging x).calls = s.calls := rfl
@[simp] theorem withPaging_freeCount (x : Paging) : (s.withPaging x).freeCount = s.freeCount := rfl

/-! ### withBus -/

@[simp] theorem withBus_pending (x : Bus) : (s.withBus x).pending = s.pending := rfl
@[simp] theorem withBus_ports (x : Bus) : (s.withBus x).ports = s.ports := rfl
@[simp] theorem withBus_hold (x : Bus) : (s.withBus x).hold = s.hold := rfl
@[simp] theorem withBus_day (x : Bus) : (s.withBus x).day = s.day := rfl
@[simp] theorem withBus_wares (x : Bus) : (s.withBus x).wares = s.wares := rfl
@[simp] theorem withBus_fns (x : Bus) : (s.withBus x).fns = s.fns := rfl
@[simp] theorem withBus_courses (x : Bus) : (s.withBus x).courses = s.courses := rfl
@[simp] theorem withBus_fire (x : Bus) : (s.withBus x).fire = s.fire := rfl
@[simp] theorem withBus_earmarks (x : Bus) : (s.withBus x).earmarks = s.earmarks := rfl
@[simp] theorem withBus_cabs (x : Bus) : (s.withBus x).cabs = s.cabs := rfl
@[simp] theorem withBus_lines (x : Bus) : (s.withBus x).lines = s.lines := rfl
@[simp] theorem withBus_power (x : Bus) : (s.withBus x).power = s.power := rfl
@[simp] theorem withBus_paging (x : Bus) : (s.withBus x).paging = s.paging := rfl
@[simp] theorem withBus_bus (x : Bus) : (s.withBus x).bus = x := rfl
@[simp] theorem withBus_calls (x : Bus) : (s.withBus x).calls = s.calls := rfl
@[simp] theorem withBus_freeCount (x : Bus) : (s.withBus x).freeCount = s.freeCount := rfl

/-! ### withCalls -/

@[simp] theorem withCalls_pending (x : Calls) : (s.withCalls x).pending = s.pending := rfl
@[simp] theorem withCalls_ports (x : Calls) : (s.withCalls x).ports = s.ports := rfl
@[simp] theorem withCalls_hold (x : Calls) : (s.withCalls x).hold = s.hold := rfl
@[simp] theorem withCalls_day (x : Calls) : (s.withCalls x).day = s.day := rfl
@[simp] theorem withCalls_wares (x : Calls) : (s.withCalls x).wares = s.wares := rfl
@[simp] theorem withCalls_fns (x : Calls) : (s.withCalls x).fns = s.fns := rfl
@[simp] theorem withCalls_courses (x : Calls) : (s.withCalls x).courses = s.courses := rfl
@[simp] theorem withCalls_fire (x : Calls) : (s.withCalls x).fire = s.fire := rfl
@[simp] theorem withCalls_earmarks (x : Calls) : (s.withCalls x).earmarks = s.earmarks := rfl
@[simp] theorem withCalls_cabs (x : Calls) : (s.withCalls x).cabs = s.cabs := rfl
@[simp] theorem withCalls_lines (x : Calls) : (s.withCalls x).lines = s.lines := rfl
@[simp] theorem withCalls_power (x : Calls) : (s.withCalls x).power = s.power := rfl
@[simp] theorem withCalls_paging (x : Calls) : (s.withCalls x).paging = s.paging := rfl
@[simp] theorem withCalls_bus (x : Calls) : (s.withCalls x).bus = s.bus := rfl
@[simp] theorem withCalls_calls (x : Calls) : (s.withCalls x).calls = x := rfl
@[simp] theorem withCalls_freeCount (x : Calls) : (s.withCalls x).freeCount = s.freeCount := rfl

/-! ### withFreeCount -/

@[simp] theorem withFreeCount_pending (x : Nat) : (s.withFreeCount x).pending = s.pending := rfl
@[simp] theorem withFreeCount_ports (x : Nat) : (s.withFreeCount x).ports = s.ports := rfl
@[simp] theorem withFreeCount_hold (x : Nat) : (s.withFreeCount x).hold = s.hold := rfl
@[simp] theorem withFreeCount_day (x : Nat) : (s.withFreeCount x).day = s.day := rfl
@[simp] theorem withFreeCount_wares (x : Nat) : (s.withFreeCount x).wares = s.wares := rfl
@[simp] theorem withFreeCount_fns (x : Nat) : (s.withFreeCount x).fns = s.fns := rfl
@[simp] theorem withFreeCount_courses (x : Nat) : (s.withFreeCount x).courses = s.courses := rfl
@[simp] theorem withFreeCount_fire (x : Nat) : (s.withFreeCount x).fire = s.fire := rfl
@[simp] theorem withFreeCount_earmarks (x : Nat) : (s.withFreeCount x).earmarks = s.earmarks := rfl
@[simp] theorem withFreeCount_cabs (x : Nat) : (s.withFreeCount x).cabs = s.cabs := rfl
@[simp] theorem withFreeCount_lines (x : Nat) : (s.withFreeCount x).lines = s.lines := rfl
@[simp] theorem withFreeCount_power (x : Nat) : (s.withFreeCount x).power = s.power := rfl
@[simp] theorem withFreeCount_paging (x : Nat) : (s.withFreeCount x).paging = s.paging := rfl
@[simp] theorem withFreeCount_bus (x : Nat) : (s.withFreeCount x).bus = s.bus := rfl
@[simp] theorem withFreeCount_calls (x : Nat) : (s.withFreeCount x).calls = s.calls := rfl
@[simp] theorem withFreeCount_freeCount (x : Nat) : (s.withFreeCount x).freeCount = x := rfl

/-! ### Readers of one entry after a writer of another record -/

@[simp] theorem withPending_ware (x : List Instr) (c : Nat) : (s.withPending x).ware c = s.ware c := rfl
@[simp] theorem withPorts_ware (x : Ports) (c : Nat) : (s.withPorts x).ware c = s.ware c := rfl
@[simp] theorem withHold_ware (x : Hold) (c : Nat) : (s.withHold x).ware c = s.ware c := rfl
@[simp] theorem withDay_ware (x : Day) (c : Nat) : (s.withDay x).ware c = s.ware c := rfl
@[simp] theorem withFns_ware (x : List Fn) (c : Nat) : (s.withFns x).ware c = s.ware c := rfl
@[simp] theorem withCourses_ware (x : List Course) (c : Nat) : (s.withCourses x).ware c = s.ware c := rfl
@[simp] theorem withFire_ware (x : Fire) (c : Nat) : (s.withFire x).ware c = s.ware c := rfl
@[simp] theorem withEarmarks_ware (x : List Earmark) (c : Nat) : (s.withEarmarks x).ware c = s.ware c := rfl
@[simp] theorem withCabs_ware (x : List Cab) (c : Nat) : (s.withCabs x).ware c = s.ware c := rfl
@[simp] theorem withLines_ware (x : List Line) (c : Nat) : (s.withLines x).ware c = s.ware c := rfl
@[simp] theorem withPower_ware (x : Power) (c : Nat) : (s.withPower x).ware c = s.ware c := rfl
@[simp] theorem withPaging_ware (x : Paging) (c : Nat) : (s.withPaging x).ware c = s.ware c := rfl
@[simp] theorem withBus_ware (x : Bus) (c : Nat) : (s.withBus x).ware c = s.ware c := rfl
@[simp] theorem withCalls_ware (x : Calls) (c : Nat) : (s.withCalls x).ware c = s.ware c := rfl
@[simp] theorem withFreeCount_ware (x : Nat) (c : Nat) : (s.withFreeCount x).ware c = s.ware c := rfl

@[simp] theorem withPending_fn (x : List Instr) (f : Nat) : (s.withPending x).fn f = s.fn f := rfl
@[simp] theorem withPorts_fn (x : Ports) (f : Nat) : (s.withPorts x).fn f = s.fn f := rfl
@[simp] theorem withHold_fn (x : Hold) (f : Nat) : (s.withHold x).fn f = s.fn f := rfl
@[simp] theorem withDay_fn (x : Day) (f : Nat) : (s.withDay x).fn f = s.fn f := rfl
@[simp] theorem withWares_fn (x : List Ware) (f : Nat) : (s.withWares x).fn f = s.fn f := rfl
@[simp] theorem withCourses_fn (x : List Course) (f : Nat) : (s.withCourses x).fn f = s.fn f := rfl
@[simp] theorem withFire_fn (x : Fire) (f : Nat) : (s.withFire x).fn f = s.fn f := rfl
@[simp] theorem withEarmarks_fn (x : List Earmark) (f : Nat) : (s.withEarmarks x).fn f = s.fn f := rfl
@[simp] theorem withCabs_fn (x : List Cab) (f : Nat) : (s.withCabs x).fn f = s.fn f := rfl
@[simp] theorem withLines_fn (x : List Line) (f : Nat) : (s.withLines x).fn f = s.fn f := rfl
@[simp] theorem withPower_fn (x : Power) (f : Nat) : (s.withPower x).fn f = s.fn f := rfl
@[simp] theorem withPaging_fn (x : Paging) (f : Nat) : (s.withPaging x).fn f = s.fn f := rfl
@[simp] theorem withBus_fn (x : Bus) (f : Nat) : (s.withBus x).fn f = s.fn f := rfl
@[simp] theorem withCalls_fn (x : Calls) (f : Nat) : (s.withCalls x).fn f = s.fn f := rfl
@[simp] theorem withFreeCount_fn (x : Nat) (f : Nat) : (s.withFreeCount x).fn f = s.fn f := rfl

@[simp] theorem withPending_course (x : List Instr) (c : Nat) : (s.withPending x).course c = s.course c := rfl
@[simp] theorem withPorts_course (x : Ports) (c : Nat) : (s.withPorts x).course c = s.course c := rfl
@[simp] theorem withHold_course (x : Hold) (c : Nat) : (s.withHold x).course c = s.course c := rfl
@[simp] theorem withDay_course (x : Day) (c : Nat) : (s.withDay x).course c = s.course c := rfl
@[simp] theorem withWares_course (x : List Ware) (c : Nat) : (s.withWares x).course c = s.course c := rfl
@[simp] theorem withFns_course (x : List Fn) (c : Nat) : (s.withFns x).course c = s.course c := rfl
@[simp] theorem withFire_course (x : Fire) (c : Nat) : (s.withFire x).course c = s.course c := rfl
@[simp] theorem withEarmarks_course (x : List Earmark) (c : Nat) : (s.withEarmarks x).course c = s.course c := rfl
@[simp] theorem withCabs_course (x : List Cab) (c : Nat) : (s.withCabs x).course c = s.course c := rfl
@[simp] theorem withLines_course (x : List Line) (c : Nat) : (s.withLines x).course c = s.course c := rfl
@[simp] theorem withPower_course (x : Power) (c : Nat) : (s.withPower x).course c = s.course c := rfl
@[simp] theorem withPaging_course (x : Paging) (c : Nat) : (s.withPaging x).course c = s.course c := rfl
@[simp] theorem withBus_course (x : Bus) (c : Nat) : (s.withBus x).course c = s.course c := rfl
@[simp] theorem withCalls_course (x : Calls) (c : Nat) : (s.withCalls x).course c = s.course c := rfl
@[simp] theorem withFreeCount_course (x : Nat) (c : Nat) : (s.withFreeCount x).course c = s.course c := rfl

@[simp] theorem withPending_cab (x : List Instr) (k : Nat) : (s.withPending x).cab k = s.cab k := rfl
@[simp] theorem withPorts_cab (x : Ports) (k : Nat) : (s.withPorts x).cab k = s.cab k := rfl
@[simp] theorem withHold_cab (x : Hold) (k : Nat) : (s.withHold x).cab k = s.cab k := rfl
@[simp] theorem withDay_cab (x : Day) (k : Nat) : (s.withDay x).cab k = s.cab k := rfl
@[simp] theorem withWares_cab (x : List Ware) (k : Nat) : (s.withWares x).cab k = s.cab k := rfl
@[simp] theorem withFns_cab (x : List Fn) (k : Nat) : (s.withFns x).cab k = s.cab k := rfl
@[simp] theorem withCourses_cab (x : List Course) (k : Nat) : (s.withCourses x).cab k = s.cab k := rfl
@[simp] theorem withFire_cab (x : Fire) (k : Nat) : (s.withFire x).cab k = s.cab k := rfl
@[simp] theorem withEarmarks_cab (x : List Earmark) (k : Nat) : (s.withEarmarks x).cab k = s.cab k := rfl
@[simp] theorem withLines_cab (x : List Line) (k : Nat) : (s.withLines x).cab k = s.cab k := rfl
@[simp] theorem withPower_cab (x : Power) (k : Nat) : (s.withPower x).cab k = s.cab k := rfl
@[simp] theorem withPaging_cab (x : Paging) (k : Nat) : (s.withPaging x).cab k = s.cab k := rfl
@[simp] theorem withBus_cab (x : Bus) (k : Nat) : (s.withBus x).cab k = s.cab k := rfl
@[simp] theorem withCalls_cab (x : Calls) (k : Nat) : (s.withCalls x).cab k = s.cab k := rfl
@[simp] theorem withFreeCount_cab (x : Nat) (k : Nat) : (s.withFreeCount x).cab k = s.cab k := rfl

@[simp] theorem withPending_line (x : List Instr) (l : Nat) : (s.withPending x).line l = s.line l := rfl
@[simp] theorem withPorts_line (x : Ports) (l : Nat) : (s.withPorts x).line l = s.line l := rfl
@[simp] theorem withHold_line (x : Hold) (l : Nat) : (s.withHold x).line l = s.line l := rfl
@[simp] theorem withDay_line (x : Day) (l : Nat) : (s.withDay x).line l = s.line l := rfl
@[simp] theorem withWares_line (x : List Ware) (l : Nat) : (s.withWares x).line l = s.line l := rfl
@[simp] theorem withFns_line (x : List Fn) (l : Nat) : (s.withFns x).line l = s.line l := rfl
@[simp] theorem withCourses_line (x : List Course) (l : Nat) : (s.withCourses x).line l = s.line l := rfl
@[simp] theorem withFire_line (x : Fire) (l : Nat) : (s.withFire x).line l = s.line l := rfl
@[simp] theorem withEarmarks_line (x : List Earmark) (l : Nat) : (s.withEarmarks x).line l = s.line l := rfl
@[simp] theorem withCabs_line (x : List Cab) (l : Nat) : (s.withCabs x).line l = s.line l := rfl
@[simp] theorem withPower_line (x : Power) (l : Nat) : (s.withPower x).line l = s.line l := rfl
@[simp] theorem withPaging_line (x : Paging) (l : Nat) : (s.withPaging x).line l = s.line l := rfl
@[simp] theorem withBus_line (x : Bus) (l : Nat) : (s.withBus x).line l = s.line l := rfl
@[simp] theorem withCalls_line (x : Calls) (l : Nat) : (s.withCalls x).line l = s.line l := rfl
@[simp] theorem withFreeCount_line (x : Nat) (l : Nat) : (s.withFreeCount x).line l = s.line l := rfl

@[simp] theorem withPending_consumer (x : List Instr) (c : Nat) : (s.withPending x).consumer c = s.consumer c := rfl
@[simp] theorem withPorts_consumer (x : Ports) (c : Nat) : (s.withPorts x).consumer c = s.consumer c := rfl
@[simp] theorem withHold_consumer (x : Hold) (c : Nat) : (s.withHold x).consumer c = s.consumer c := rfl
@[simp] theorem withDay_consumer (x : Day) (c : Nat) : (s.withDay x).consumer c = s.consumer c := rfl
@[simp] theorem withWares_consumer (x : List Ware) (c : Nat) : (s.withWares x).consumer c = s.consumer c := rfl
@[simp] theorem withFns_consumer (x : List Fn) (c : Nat) : (s.withFns x).consumer c = s.consumer c := rfl
@[simp] theorem withCourses_consumer (x : List Course) (c : Nat) : (s.withCourses x).consumer c = s.consumer c := rfl
@[simp] theorem withFire_consumer (x : Fire) (c : Nat) : (s.withFire x).consumer c = s.consumer c := rfl
@[simp] theorem withEarmarks_consumer (x : List Earmark) (c : Nat) : (s.withEarmarks x).consumer c = s.consumer c := rfl
@[simp] theorem withCabs_consumer (x : List Cab) (c : Nat) : (s.withCabs x).consumer c = s.consumer c := rfl
@[simp] theorem withLines_consumer (x : List Line) (c : Nat) : (s.withLines x).consumer c = s.consumer c := rfl
@[simp] theorem withPaging_consumer (x : Paging) (c : Nat) : (s.withPaging x).consumer c = s.consumer c := rfl
@[simp] theorem withBus_consumer (x : Bus) (c : Nat) : (s.withBus x).consumer c = s.consumer c := rfl
@[simp] theorem withCalls_consumer (x : Calls) (c : Nat) : (s.withCalls x).consumer c = s.consumer c := rfl
@[simp] theorem withFreeCount_consumer (x : Nat) (c : Nat) : (s.withFreeCount x).consumer c = s.consumer c := rfl

@[simp] theorem withPending_meter (x : List Instr) (m : Nat) : (s.withPending x).meter m = s.meter m := rfl
@[simp] theorem withPorts_meter (x : Ports) (m : Nat) : (s.withPorts x).meter m = s.meter m := rfl
@[simp] theorem withHold_meter (x : Hold) (m : Nat) : (s.withHold x).meter m = s.meter m := rfl
@[simp] theorem withDay_meter (x : Day) (m : Nat) : (s.withDay x).meter m = s.meter m := rfl
@[simp] theorem withWares_meter (x : List Ware) (m : Nat) : (s.withWares x).meter m = s.meter m := rfl
@[simp] theorem withFns_meter (x : List Fn) (m : Nat) : (s.withFns x).meter m = s.meter m := rfl
@[simp] theorem withCourses_meter (x : List Course) (m : Nat) : (s.withCourses x).meter m = s.meter m := rfl
@[simp] theorem withFire_meter (x : Fire) (m : Nat) : (s.withFire x).meter m = s.meter m := rfl
@[simp] theorem withEarmarks_meter (x : List Earmark) (m : Nat) : (s.withEarmarks x).meter m = s.meter m := rfl
@[simp] theorem withCabs_meter (x : List Cab) (m : Nat) : (s.withCabs x).meter m = s.meter m := rfl
@[simp] theorem withLines_meter (x : List Line) (m : Nat) : (s.withLines x).meter m = s.meter m := rfl
@[simp] theorem withPaging_meter (x : Paging) (m : Nat) : (s.withPaging x).meter m = s.meter m := rfl
@[simp] theorem withBus_meter (x : Bus) (m : Nat) : (s.withBus x).meter m = s.meter m := rfl
@[simp] theorem withCalls_meter (x : Calls) (m : Nat) : (s.withCalls x).meter m = s.meter m := rfl
@[simp] theorem withFreeCount_meter (x : Nat) (m : Nat) : (s.withFreeCount x).meter m = s.meter m := rfl

@[simp] theorem withPending_node (x : List Instr) (a : Nat) : (s.withPending x).node a = s.node a := rfl
@[simp] theorem withPorts_node (x : Ports) (a : Nat) : (s.withPorts x).node a = s.node a := rfl
@[simp] theorem withHold_node (x : Hold) (a : Nat) : (s.withHold x).node a = s.node a := rfl
@[simp] theorem withDay_node (x : Day) (a : Nat) : (s.withDay x).node a = s.node a := rfl
@[simp] theorem withWares_node (x : List Ware) (a : Nat) : (s.withWares x).node a = s.node a := rfl
@[simp] theorem withFns_node (x : List Fn) (a : Nat) : (s.withFns x).node a = s.node a := rfl
@[simp] theorem withCourses_node (x : List Course) (a : Nat) : (s.withCourses x).node a = s.node a := rfl
@[simp] theorem withFire_node (x : Fire) (a : Nat) : (s.withFire x).node a = s.node a := rfl
@[simp] theorem withEarmarks_node (x : List Earmark) (a : Nat) : (s.withEarmarks x).node a = s.node a := rfl
@[simp] theorem withCabs_node (x : List Cab) (a : Nat) : (s.withCabs x).node a = s.node a := rfl
@[simp] theorem withLines_node (x : List Line) (a : Nat) : (s.withLines x).node a = s.node a := rfl
@[simp] theorem withPower_node (x : Power) (a : Nat) : (s.withPower x).node a = s.node a := rfl
@[simp] theorem withPaging_node (x : Paging) (a : Nat) : (s.withPaging x).node a = s.node a := rfl
@[simp] theorem withCalls_node (x : Calls) (a : Nat) : (s.withCalls x).node a = s.node a := rfl
@[simp] theorem withFreeCount_node (x : Nat) (a : Nat) : (s.withFreeCount x).node a = s.node a := rfl

@[simp] theorem withPending_port (x : List Instr) (p : Port) : (s.withPending x).port p = s.port p := by cases p <;> rfl
@[simp] theorem withHold_port (x : Hold) (p : Port) : (s.withHold x).port p = s.port p := by cases p <;> rfl
@[simp] theorem withDay_port (x : Day) (p : Port) : (s.withDay x).port p = s.port p := by cases p <;> rfl
@[simp] theorem withWares_port (x : List Ware) (p : Port) : (s.withWares x).port p = s.port p := by cases p <;> rfl
@[simp] theorem withFns_port (x : List Fn) (p : Port) : (s.withFns x).port p = s.port p := by cases p <;> rfl
@[simp] theorem withCourses_port (x : List Course) (p : Port) : (s.withCourses x).port p = s.port p := by cases p <;> rfl
@[simp] theorem withFire_port (x : Fire) (p : Port) : (s.withFire x).port p = s.port p := by cases p <;> rfl
@[simp] theorem withEarmarks_port (x : List Earmark) (p : Port) : (s.withEarmarks x).port p = s.port p := by cases p <;> rfl
@[simp] theorem withCabs_port (x : List Cab) (p : Port) : (s.withCabs x).port p = s.port p := by cases p <;> rfl
@[simp] theorem withLines_port (x : List Line) (p : Port) : (s.withLines x).port p = s.port p := by cases p <;> rfl
@[simp] theorem withPower_port (x : Power) (p : Port) : (s.withPower x).port p = s.port p := by cases p <;> rfl
@[simp] theorem withPaging_port (x : Paging) (p : Port) : (s.withPaging x).port p = s.port p := by cases p <;> rfl
@[simp] theorem withBus_port (x : Bus) (p : Port) : (s.withBus x).port p = s.port p := by cases p <;> rfl
@[simp] theorem withCalls_port (x : Calls) (p : Port) : (s.withCalls x).port p = s.port p := by cases p <;> rfl
@[simp] theorem withFreeCount_port (x : Nat) (p : Port) : (s.withFreeCount x).port p = s.port p := by cases p <;> rfl
@[simp] theorem withPending_now (x : List Instr) : (s.withPending x).now = s.now := rfl
@[simp] theorem withPorts_now (x : Ports) : (s.withPorts x).now = s.now := rfl
@[simp] theorem withHold_now (x : Hold) : (s.withHold x).now = s.now := rfl
@[simp] theorem withWares_now (x : List Ware) : (s.withWares x).now = s.now := rfl
@[simp] theorem withFns_now (x : List Fn) : (s.withFns x).now = s.now := rfl
@[simp] theorem withCourses_now (x : List Course) : (s.withCourses x).now = s.now := rfl
@[simp] theorem withFire_now (x : Fire) : (s.withFire x).now = s.now := rfl
@[simp] theorem withEarmarks_now (x : List Earmark) : (s.withEarmarks x).now = s.now := rfl
@[simp] theorem withCabs_now (x : List Cab) : (s.withCabs x).now = s.now := rfl
@[simp] theorem withLines_now (x : List Line) : (s.withLines x).now = s.now := rfl
@[simp] theorem withPower_now (x : Power) : (s.withPower x).now = s.now := rfl
@[simp] theorem withPaging_now (x : Paging) : (s.withPaging x).now = s.now := rfl
@[simp] theorem withBus_now (x : Bus) : (s.withBus x).now = s.now := rfl
@[simp] theorem withCalls_now (x : Calls) : (s.withCalls x).now = s.now := rfl
@[simp] theorem withFreeCount_now (x : Nat) : (s.withFreeCount x).now = s.now := rfl

/-! ### Writers of one entry -/

@[simp] theorem setWare_pending (c : Nat) (y : Ware) : (s.setWare c y).pending = s.pending := rfl
@[simp] theorem setWare_ports (c : Nat) (y : Ware) : (s.setWare c y).ports = s.ports := rfl
@[simp] theorem setWare_hold (c : Nat) (y : Ware) : (s.setWare c y).hold = s.hold := rfl
@[simp] theorem setWare_day (c : Nat) (y : Ware) : (s.setWare c y).day = s.day := rfl
@[simp] theorem setWare_fns (c : Nat) (y : Ware) : (s.setWare c y).fns = s.fns := rfl
@[simp] theorem setWare_courses (c : Nat) (y : Ware) : (s.setWare c y).courses = s.courses := rfl
@[simp] theorem setWare_fire (c : Nat) (y : Ware) : (s.setWare c y).fire = s.fire := rfl
@[simp] theorem setWare_earmarks (c : Nat) (y : Ware) : (s.setWare c y).earmarks = s.earmarks := rfl
@[simp] theorem setWare_cabs (c : Nat) (y : Ware) : (s.setWare c y).cabs = s.cabs := rfl
@[simp] theorem setWare_lines (c : Nat) (y : Ware) : (s.setWare c y).lines = s.lines := rfl
@[simp] theorem setWare_power (c : Nat) (y : Ware) : (s.setWare c y).power = s.power := rfl
@[simp] theorem setWare_paging (c : Nat) (y : Ware) : (s.setWare c y).paging = s.paging := rfl
@[simp] theorem setWare_bus (c : Nat) (y : Ware) : (s.setWare c y).bus = s.bus := rfl
@[simp] theorem setWare_calls (c : Nat) (y : Ware) : (s.setWare c y).calls = s.calls := rfl
@[simp] theorem setWare_freeCount (c : Nat) (y : Ware) : (s.setWare c y).freeCount = s.freeCount := rfl
@[simp] theorem setWare_wares (c : Nat) (y : Ware) : (s.setWare c y).wares = s.wares.set c y := rfl

@[simp] theorem setFn_pending (f : Nat) (y : Fn) : (s.setFn f y).pending = s.pending := rfl
@[simp] theorem setFn_ports (f : Nat) (y : Fn) : (s.setFn f y).ports = s.ports := rfl
@[simp] theorem setFn_hold (f : Nat) (y : Fn) : (s.setFn f y).hold = s.hold := rfl
@[simp] theorem setFn_day (f : Nat) (y : Fn) : (s.setFn f y).day = s.day := rfl
@[simp] theorem setFn_wares (f : Nat) (y : Fn) : (s.setFn f y).wares = s.wares := rfl
@[simp] theorem setFn_courses (f : Nat) (y : Fn) : (s.setFn f y).courses = s.courses := rfl
@[simp] theorem setFn_fire (f : Nat) (y : Fn) : (s.setFn f y).fire = s.fire := rfl
@[simp] theorem setFn_earmarks (f : Nat) (y : Fn) : (s.setFn f y).earmarks = s.earmarks := rfl
@[simp] theorem setFn_cabs (f : Nat) (y : Fn) : (s.setFn f y).cabs = s.cabs := rfl
@[simp] theorem setFn_lines (f : Nat) (y : Fn) : (s.setFn f y).lines = s.lines := rfl
@[simp] theorem setFn_power (f : Nat) (y : Fn) : (s.setFn f y).power = s.power := rfl
@[simp] theorem setFn_paging (f : Nat) (y : Fn) : (s.setFn f y).paging = s.paging := rfl
@[simp] theorem setFn_bus (f : Nat) (y : Fn) : (s.setFn f y).bus = s.bus := rfl
@[simp] theorem setFn_calls (f : Nat) (y : Fn) : (s.setFn f y).calls = s.calls := rfl
@[simp] theorem setFn_freeCount (f : Nat) (y : Fn) : (s.setFn f y).freeCount = s.freeCount := rfl
@[simp] theorem setFn_fns (f : Nat) (y : Fn) : (s.setFn f y).fns = s.fns.set f y := rfl

@[simp] theorem setCourse_pending (c : Nat) (y : Course) : (s.setCourse c y).pending = s.pending := rfl
@[simp] theorem setCourse_ports (c : Nat) (y : Course) : (s.setCourse c y).ports = s.ports := rfl
@[simp] theorem setCourse_hold (c : Nat) (y : Course) : (s.setCourse c y).hold = s.hold := rfl
@[simp] theorem setCourse_day (c : Nat) (y : Course) : (s.setCourse c y).day = s.day := rfl
@[simp] theorem setCourse_wares (c : Nat) (y : Course) : (s.setCourse c y).wares = s.wares := rfl
@[simp] theorem setCourse_fns (c : Nat) (y : Course) : (s.setCourse c y).fns = s.fns := rfl
@[simp] theorem setCourse_fire (c : Nat) (y : Course) : (s.setCourse c y).fire = s.fire := rfl
@[simp] theorem setCourse_earmarks (c : Nat) (y : Course) : (s.setCourse c y).earmarks = s.earmarks := rfl
@[simp] theorem setCourse_cabs (c : Nat) (y : Course) : (s.setCourse c y).cabs = s.cabs := rfl
@[simp] theorem setCourse_lines (c : Nat) (y : Course) : (s.setCourse c y).lines = s.lines := rfl
@[simp] theorem setCourse_power (c : Nat) (y : Course) : (s.setCourse c y).power = s.power := rfl
@[simp] theorem setCourse_paging (c : Nat) (y : Course) : (s.setCourse c y).paging = s.paging := rfl
@[simp] theorem setCourse_bus (c : Nat) (y : Course) : (s.setCourse c y).bus = s.bus := rfl
@[simp] theorem setCourse_calls (c : Nat) (y : Course) : (s.setCourse c y).calls = s.calls := rfl
@[simp] theorem setCourse_freeCount (c : Nat) (y : Course) : (s.setCourse c y).freeCount = s.freeCount := rfl
@[simp] theorem setCourse_courses (c : Nat) (y : Course) : (s.setCourse c y).courses = s.courses.set c y := rfl

@[simp] theorem setCab_pending (k : Nat) (y : Cab) : (s.setCab k y).pending = s.pending := rfl
@[simp] theorem setCab_ports (k : Nat) (y : Cab) : (s.setCab k y).ports = s.ports := rfl
@[simp] theorem setCab_hold (k : Nat) (y : Cab) : (s.setCab k y).hold = s.hold := rfl
@[simp] theorem setCab_day (k : Nat) (y : Cab) : (s.setCab k y).day = s.day := rfl
@[simp] theorem setCab_wares (k : Nat) (y : Cab) : (s.setCab k y).wares = s.wares := rfl
@[simp] theorem setCab_fns (k : Nat) (y : Cab) : (s.setCab k y).fns = s.fns := rfl
@[simp] theorem setCab_courses (k : Nat) (y : Cab) : (s.setCab k y).courses = s.courses := rfl
@[simp] theorem setCab_fire (k : Nat) (y : Cab) : (s.setCab k y).fire = s.fire := rfl
@[simp] theorem setCab_earmarks (k : Nat) (y : Cab) : (s.setCab k y).earmarks = s.earmarks := rfl
@[simp] theorem setCab_lines (k : Nat) (y : Cab) : (s.setCab k y).lines = s.lines := rfl
@[simp] theorem setCab_power (k : Nat) (y : Cab) : (s.setCab k y).power = s.power := rfl
@[simp] theorem setCab_paging (k : Nat) (y : Cab) : (s.setCab k y).paging = s.paging := rfl
@[simp] theorem setCab_bus (k : Nat) (y : Cab) : (s.setCab k y).bus = s.bus := rfl
@[simp] theorem setCab_calls (k : Nat) (y : Cab) : (s.setCab k y).calls = s.calls := rfl
@[simp] theorem setCab_freeCount (k : Nat) (y : Cab) : (s.setCab k y).freeCount = s.freeCount := rfl
@[simp] theorem setCab_cabs (k : Nat) (y : Cab) : (s.setCab k y).cabs = s.cabs.set k y := rfl

@[simp] theorem setLine_pending (l : Nat) (y : Line) : (s.setLine l y).pending = s.pending := rfl
@[simp] theorem setLine_ports (l : Nat) (y : Line) : (s.setLine l y).ports = s.ports := rfl
@[simp] theorem setLine_hold (l : Nat) (y : Line) : (s.setLine l y).hold = s.hold := rfl
@[simp] theorem setLine_day (l : Nat) (y : Line) : (s.setLine l y).day = s.day := rfl
@[simp] theorem setLine_wares (l : Nat) (y : Line) : (s.setLine l y).wares = s.wares := rfl
@[simp] theorem setLine_fns (l : Nat) (y : Line) : (s.setLine l y).fns = s.fns := rfl
@[simp] theorem setLine_courses (l : Nat) (y : Line) : (s.setLine l y).courses = s.courses := rfl
@[simp] theorem setLine_fire (l : Nat) (y : Line) : (s.setLine l y).fire = s.fire := rfl
@[simp] theorem setLine_earmarks (l : Nat) (y : Line) : (s.setLine l y).earmarks = s.earmarks := rfl
@[simp] theorem setLine_cabs (l : Nat) (y : Line) : (s.setLine l y).cabs = s.cabs := rfl
@[simp] theorem setLine_power (l : Nat) (y : Line) : (s.setLine l y).power = s.power := rfl
@[simp] theorem setLine_paging (l : Nat) (y : Line) : (s.setLine l y).paging = s.paging := rfl
@[simp] theorem setLine_bus (l : Nat) (y : Line) : (s.setLine l y).bus = s.bus := rfl
@[simp] theorem setLine_calls (l : Nat) (y : Line) : (s.setLine l y).calls = s.calls := rfl
@[simp] theorem setLine_freeCount (l : Nat) (y : Line) : (s.setLine l y).freeCount = s.freeCount := rfl
@[simp] theorem setLine_lines (l : Nat) (y : Line) : (s.setLine l y).lines = s.lines.set l y := rfl

@[simp] theorem setMeter_pending (m : Nat) (y : Meter) : (s.setMeter m y).pending = s.pending := rfl
@[simp] theorem setMeter_ports (m : Nat) (y : Meter) : (s.setMeter m y).ports = s.ports := rfl
@[simp] theorem setMeter_hold (m : Nat) (y : Meter) : (s.setMeter m y).hold = s.hold := rfl
@[simp] theorem setMeter_day (m : Nat) (y : Meter) : (s.setMeter m y).day = s.day := rfl
@[simp] theorem setMeter_wares (m : Nat) (y : Meter) : (s.setMeter m y).wares = s.wares := rfl
@[simp] theorem setMeter_fns (m : Nat) (y : Meter) : (s.setMeter m y).fns = s.fns := rfl
@[simp] theorem setMeter_courses (m : Nat) (y : Meter) : (s.setMeter m y).courses = s.courses := rfl
@[simp] theorem setMeter_fire (m : Nat) (y : Meter) : (s.setMeter m y).fire = s.fire := rfl
@[simp] theorem setMeter_earmarks (m : Nat) (y : Meter) : (s.setMeter m y).earmarks = s.earmarks := rfl
@[simp] theorem setMeter_cabs (m : Nat) (y : Meter) : (s.setMeter m y).cabs = s.cabs := rfl
@[simp] theorem setMeter_lines (m : Nat) (y : Meter) : (s.setMeter m y).lines = s.lines := rfl
@[simp] theorem setMeter_paging (m : Nat) (y : Meter) : (s.setMeter m y).paging = s.paging := rfl
@[simp] theorem setMeter_bus (m : Nat) (y : Meter) : (s.setMeter m y).bus = s.bus := rfl
@[simp] theorem setMeter_calls (m : Nat) (y : Meter) : (s.setMeter m y).calls = s.calls := rfl
@[simp] theorem setMeter_freeCount (m : Nat) (y : Meter) : (s.setMeter m y).freeCount = s.freeCount := rfl

@[simp] theorem setNode_pending (a : Nat) (y : Node) : (s.setNode a y).pending = s.pending := rfl
@[simp] theorem setNode_ports (a : Nat) (y : Node) : (s.setNode a y).ports = s.ports := rfl
@[simp] theorem setNode_hold (a : Nat) (y : Node) : (s.setNode a y).hold = s.hold := rfl
@[simp] theorem setNode_day (a : Nat) (y : Node) : (s.setNode a y).day = s.day := rfl
@[simp] theorem setNode_wares (a : Nat) (y : Node) : (s.setNode a y).wares = s.wares := rfl
@[simp] theorem setNode_fns (a : Nat) (y : Node) : (s.setNode a y).fns = s.fns := rfl
@[simp] theorem setNode_courses (a : Nat) (y : Node) : (s.setNode a y).courses = s.courses := rfl
@[simp] theorem setNode_fire (a : Nat) (y : Node) : (s.setNode a y).fire = s.fire := rfl
@[simp] theorem setNode_earmarks (a : Nat) (y : Node) : (s.setNode a y).earmarks = s.earmarks := rfl
@[simp] theorem setNode_cabs (a : Nat) (y : Node) : (s.setNode a y).cabs = s.cabs := rfl
@[simp] theorem setNode_lines (a : Nat) (y : Node) : (s.setNode a y).lines = s.lines := rfl
@[simp] theorem setNode_power (a : Nat) (y : Node) : (s.setNode a y).power = s.power := rfl
@[simp] theorem setNode_paging (a : Nat) (y : Node) : (s.setNode a y).paging = s.paging := rfl
@[simp] theorem setNode_calls (a : Nat) (y : Node) : (s.setNode a y).calls = s.calls := rfl
@[simp] theorem setNode_freeCount (a : Nat) (y : Node) : (s.setNode a y).freeCount = s.freeCount := rfl

@[simp] theorem setPort_pending (p : Port) (y : PortRec) : (s.setPort p y).pending = s.pending := by cases p <;> rfl
@[simp] theorem setPort_hold (p : Port) (y : PortRec) : (s.setPort p y).hold = s.hold := by cases p <;> rfl
@[simp] theorem setPort_day (p : Port) (y : PortRec) : (s.setPort p y).day = s.day := by cases p <;> rfl
@[simp] theorem setPort_wares (p : Port) (y : PortRec) : (s.setPort p y).wares = s.wares := by cases p <;> rfl
@[simp] theorem setPort_fns (p : Port) (y : PortRec) : (s.setPort p y).fns = s.fns := by cases p <;> rfl
@[simp] theorem setPort_courses (p : Port) (y : PortRec) : (s.setPort p y).courses = s.courses := by cases p <;> rfl
@[simp] theorem setPort_fire (p : Port) (y : PortRec) : (s.setPort p y).fire = s.fire := by cases p <;> rfl
@[simp] theorem setPort_earmarks (p : Port) (y : PortRec) : (s.setPort p y).earmarks = s.earmarks := by cases p <;> rfl
@[simp] theorem setPort_cabs (p : Port) (y : PortRec) : (s.setPort p y).cabs = s.cabs := by cases p <;> rfl
@[simp] theorem setPort_lines (p : Port) (y : PortRec) : (s.setPort p y).lines = s.lines := by cases p <;> rfl
@[simp] theorem setPort_power (p : Port) (y : PortRec) : (s.setPort p y).power = s.power := by cases p <;> rfl
@[simp] theorem setPort_paging (p : Port) (y : PortRec) : (s.setPort p y).paging = s.paging := by cases p <;> rfl
@[simp] theorem setPort_bus (p : Port) (y : PortRec) : (s.setPort p y).bus = s.bus := by cases p <;> rfl
@[simp] theorem setPort_calls (p : Port) (y : PortRec) : (s.setPort p y).calls = s.calls := by cases p <;> rfl
@[simp] theorem setPort_freeCount (p : Port) (y : PortRec) : (s.setPort p y).freeCount = s.freeCount := by cases p <;> rfl

@[simp] theorem port_setPort (p : Port) (y : PortRec) : (s.setPort p y).port p = y := by cases p <;> rfl

theorem port_setPort_other (p q : Port) (y : PortRec) (h : q ≠ p) : (s.setPort p y).port q = s.port q := by
  cases p <;> cases q <;> first | rfl | exact absurd rfl h

/-- A record put back over itself. -/
@[simp] theorem withHold_self : s.withHold s.hold = s := rfl

theorem ware_setWare (c : Nat) (y : Ware) (h : c < s.wares.length) : (s.setWare c y).ware c = y := by
  simp [ware, setWare, withWares, List.getD_eq_getElem?_getD, h]

theorem ware_setWare_other (c j : Nat) (y : Ware) (h : j ≠ c) : (s.setWare c y).ware j = s.ware j := by
  simp [ware, setWare, withWares, List.getD_eq_getElem?_getD, Ne.symm h]

theorem fn_setFn (f : Nat) (y : Fn) (h : f < s.fns.length) : (s.setFn f y).fn f = y := by
  simp [fn, setFn, withFns, List.getD_eq_getElem?_getD, h]

theorem fn_setFn_other (f j : Nat) (y : Fn) (h : j ≠ f) : (s.setFn f y).fn j = s.fn j := by
  simp [fn, setFn, withFns, List.getD_eq_getElem?_getD, Ne.symm h]

theorem course_setCourse (c : Nat) (y : Course) (h : c < s.courses.length) : (s.setCourse c y).course c = y := by
  simp [course, setCourse, withCourses, List.getD_eq_getElem?_getD, h]

theorem course_setCourse_other (c j : Nat) (y : Course) (h : j ≠ c) : (s.setCourse c y).course j = s.course j := by
  simp [course, setCourse, withCourses, List.getD_eq_getElem?_getD, Ne.symm h]

theorem cab_setCab (k : Nat) (y : Cab) (h : k < s.cabs.length) : (s.setCab k y).cab k = y := by
  simp [cab, setCab, withCabs, List.getD_eq_getElem?_getD, h]

theorem cab_setCab_other (k j : Nat) (y : Cab) (h : j ≠ k) : (s.setCab k y).cab j = s.cab j := by
  simp [cab, setCab, withCabs, List.getD_eq_getElem?_getD, Ne.symm h]

theorem setCab_setCab (k : Nat) (x y : Cab) : (s.setCab k x).setCab k y = s.setCab k y := by
  simp [setCab, withCabs]

theorem setLine_setLine (l : Nat) (x y : Line) : (s.setLine l x).setLine l y = s.setLine l y := by
  simp [setLine, withLines]

theorem line_setLine (l : Nat) (y : Line) (h : l < s.lines.length) : (s.setLine l y).line l = y := by
  simp [line, setLine, withLines, List.getD_eq_getElem?_getD, h]

theorem line_setLine_other (l j : Nat) (y : Line) (h : j ≠ l) : (s.setLine l y).line j = s.line j := by
  simp [line, setLine, withLines, List.getD_eq_getElem?_getD, Ne.symm h]

end Sys2Proof.Machine.State
end

