-- ==== Sys2Proof/Laws/Keeps.lean ====
section
/-! SUPPORT. What the end of a step, and the operations it is made of, can do to the state, said once: a property that
the primitive changes named in `Stable` keep is kept by every operation that `finish` calls. `Floor` is the largest such
property that starts from a state: what every one of those operations leaves as it was. -/

namespace Sys2Proof.Machine

/-- The changes that notices, pages, SET claims, earmarks and readiness are made of all keep `P`: none of them touches a
cabinet, a line, a function or a consumer. -/
structure Hush (P : State → Prop) : Prop where
  calls : ∀ {s} x, P s → P (s.withCalls x)
  freeCount : ∀ {s} x, P s → P (s.withFreeCount x)
  offer : ∀ {s} q n, P s → P (offerWhere q n s)
  course : ∀ {s} c x, CourseKeeps (s.course c) x → P s → P (s.setCourse c x)
  earmarks : ∀ {s} x, P s → P (s.withEarmarks x)
  paging : ∀ {s} x, PagingKeeps s.paging x → P s → P (s.withPaging x)
  bus : ∀ {s} x, BusKeeps s.bus x → P s → P (s.withBus x)

/-- And those of the operations of a step's end, where no close completes. -/
structure Quiet (P : State → Prop) : Prop extends Hush P where
  round : ∀ {s} f k, P s → P (s.setFn f { s.fn f with round := k })
  cab : ∀ {s} k x, CabKeeps (s.cab k) x → P s → P (s.setCab k x)
  line : ∀ {s} l x, LineKeeps (s.line l) x → x.stops.power = (s.line l).stops.power → P s → P (s.setLine l x)
  consumer : ∀ {s : State} c x, P s → P (s.setConsumer c x)
  power : ∀ {s} x, PowerKeeps s.power x → x.consumers = s.power.consumers → P s → P (s.withPower x)

/-- And those of a close that completes: plates move, and the day returns to OPENING. -/
structure Stable (P : State → Prop) : Prop extends Quiet P where
  transfer : ∀ {s : State} cls a b n, s.day.state = .closing → P s → P (transfer cls a b n s)
  opening : ∀ {s : State}, s.day.state = .closing → P s → P (s.withDay { s.day with state := .opening, ret := none })

theorem NodeKeeps.refl (n : Node) : NodeKeeps n n := by constructor <;> rfl
theorem CabKeeps.refl (c : Cab) : CabKeeps c c := by constructor <;> first | rfl | exact Nat.le_refl _ | exact .inl rfl
theorem LineKeeps.refl (l : Line) : LineKeeps l l := by
  constructor <;> first | rfl | exact id

/-- A consumer's record, and the POWER stop reason that follows it (R96), where records and lines may be written. -/
theorem setConsumer_keeps {P : State → Prop}
    (power : ∀ {s : State} x, PowerKeeps s.power x → P s → P (s.withPower x))
    (line : ∀ {s : State} l x, LineKeeps (s.line l) x → P s → P (s.setLine l x)) {s : State} (c : Nat) (x : Consumer)
    (hs : P s) : P (s.setConsumer c x) := by
  have h1 : P (s.withPower { s.power with consumers := s.power.consumers.set c x }) :=
    power _ (by constructor <;> first | rfl | simp) hs
  unfold State.setConsumer
  dsimp only
  split
  · exact h1
  · exact line _ _ (by constructor <;> first | rfl | exact id) h1

variable {P : State → Prop} {s : State}

namespace Hush

variable (h : Hush P)
include h

/-! ### Notices and calls -/

theorem raise (k : NoticeKind) (a b c : Nat) (hs : P s) : P (raise k a b c s) := h.offer _ _ hs
theorem raiseTo (p : Port) (k : NoticeKind) (a b c : Nat) (hs : P s) : P (raiseTo p k a b c s) := h.offer _ _ hs
theorem callAdmission (hs : P s) : P (callAdmission s) := h.calls _ hs
theorem callRestore (hs : P s) : P (callRestore s) := h.calls _ hs
theorem callCheck (hs : P s) : P (callCheck s) := h.calls _ hs
theorem callRoutes (hs : P s) : P (callRoutes s) := h.calls _ hs
theorem callClose (hs : P s) : P (callClose s) := h.calls _ hs
theorem callRoute (l : Nat) (hs : P s) : P (callRoute l s) := by
  unfold Machine.callRoute; split <;> exact h.calls _ hs

omit h in
theorem forEach {f : Nat → State → State} (hf : ∀ k {s}, P s → P (f k s)) :
    ∀ (l : List Nat) {s : State}, P s → P (forEach l f s)
  | [], _, hs => hs
  | k :: l, _, hs => forEach hf l (hf k hs)

omit h in
theorem foldl {α : Type} {f : State → α → State} (hf : ∀ a {s}, P s → P (f s a)) :
    ∀ (l : List α) {s : State}, P s → P (l.foldl f s)
  | [], _, hs => hs
  | a :: l, _, hs => foldl hf l (hf a hs)

/-! ### The bus -/

/-- A change of the list parts, the discovery timer or the pointer's neighbours: the nodes stay. -/
theorem busLists (x : Bus) (hn : x.nodes = s.bus.nodes) (hp : x.discPtr = s.bus.discPtr) (hb : x.btx = s.bus.btx)
    (hi : s.bus.inflight = none → x.inflight = none ∧ x.guard = s.bus.guard) (hs : P s) : P (s.withBus x) :=
  h.bus x ⟨fun i => by rw [hn]; exact NodeKeeps.refl _, by rw [hn], hp, hb, hi⟩ hs

theorem setNode (a : Nat) (x : Node) (hx : NodeKeeps (s.node a) x) (hs : P s) : P (s.setNode a x) := by
  refine h.bus _ ⟨fun i => ?_, by simp, rfl, rfl, fun h => ⟨h, rfl⟩⟩ hs
  simp only [List.getD_eq_getElem?_getD, List.getElem?_set]
  split
  · subst_vars
    by_cases hl : State.nodeIdx a < s.bus.nodes.length
    · simpa [hl, State.node, List.getD_eq_getElem?_getD] using hx
    · simp [hl, NodeKeeps.refl]
  · exact NodeKeeps.refl _

theorem keepTx (q : Tx → Bool) (hs : P s) : P (keepTx q s) := h.busLists _ rfl rfl rfl (fun e => ⟨e, rfl⟩) hs
theorem removeNodeTx (a : Nat) (hs : P s) : P (removeNodeTx a s) := h.keepTx _ hs
theorem removeSet (a : Nat) (hs : P s) : P (removeSet a s) := h.keepTx _ hs
theorem removeDelivers (hs : P s) : P (removeDelivers s) :=
  h.busLists _ rfl rfl rfl
    (fun (e : s.bus.inflight = none) => ⟨by rw [show (Machine.keepTx _ s).bus.inflight = none from e]; rfl, rfl⟩) (h.keepTx _ hs)
theorem queueOrdinary (t : Tx) (hs : P s) : P (queueOrdinary t s) := h.busLists _ rfl rfl rfl (fun e => ⟨e, rfl⟩) hs

theorem queuePoll (a : Nat) (hs : P s) : P (queuePoll a s) := by
  unfold Machine.queuePoll
  split
  · exact hs
  · split
    · exact h.busLists _ rfl rfl rfl (fun e => ⟨e, rfl⟩) hs
    · exact h.queueOrdinary _ hs

theorem preempt (a : Nat) (hs : P s) : P (preempt a s) := by
  unfold Machine.preempt
  split
  · exact hs
  · rename_i f hf
    split
    · exact hs
    · exact h.busLists _ rfl rfl rfl (fun e => by rw [hf] at e; cases e) hs

theorem queueSet (a : Nat) (u : Bool) (hs : P s) : P (queueSet a u s) := by
  unfold Machine.queueSet
  split
  · exact hs
  · split
    · exact h.preempt _ (h.busLists _ rfl rfl rfl (fun e => ⟨e, rfl⟩) hs)
    · split
      · exact hs
      · exact h.queueOrdinary _ hs

theorem claimSet (addr : Option Nat) (who : Binding) (w : Wanted) (u : Bool) (hs : P s) :
    P (claimSet addr who w u s) := by
  unfold Machine.claimSet
  split
  · exact hs
  · dsimp only
    split
    · exact h.queueSet _ _ (h.setNode _ _ (by constructor <;> rfl) hs)
    · exact hs

theorem restartPoll (a : Nat) (hs : P s) : P (restartPoll a s) := by
  unfold Machine.restartPoll
  dsimp only
  split
  · exact h.setNode _ _ (by constructor <;> rfl) hs
  · exact hs

theorem refreshPoll (a : Nat) (hs : P s) : P (refreshPoll a s) := by
  unfold Machine.refreshPoll
  dsimp only
  split
  · exact h.setNode _ _ (by constructor <;> rfl) hs
  · exact hs

theorem refreshPolls (hs : P s) : P (refreshPolls s) := forEach (fun k _ => h.refreshPoll k) _ hs

theorem matchDiscovery (hs : P s) : P (matchDiscovery s) := h.busLists _ rfl rfl rfl (fun e => ⟨e, rfl⟩) hs

/-! ### Paging -/

/-- A change of the queue of pages, the next id, the count or the rush timers. -/
theorem pagingQueue (x : Paging) (h1 : x.settings = s.paging.settings) (h2 : x.ageJudged = s.paging.ageJudged)
    (h3 : x.dir = s.paging.dir) (h4 : x.dirFull = s.paging.dirFull) (h5 : x.rates = s.paging.rates)
    (h6 : x.baseFull = s.paging.baseFull) (h7 : x.rush.length = s.paging.rush.length) (hs : P s) : P (s.withPaging x) :=
  h.paging x ⟨h1, h2, h3, h4, h5, h6, h7⟩ hs

theorem withPages (l : List Page) (hs : P s) : P (withPages l s) := h.pagingQueue _ rfl rfl rfl rfl rfl rfl rfl hs
theorem updPage (id : Nat) (f : Page → Page) (hs : P s) : P (updPage id f s) := h.withPages _ hs
theorem withAnti (n : Nat) (hs : P s) : P (withAnti n s) := h.pagingQueue _ rfl rfl rfl rfl rfl rfl rfl hs
theorem clearRelated (c : Nat) (hs : P s) : P (clearRelated c s) := h.withPages _ hs

theorem setRush (t : Nat) (e : Option Nat) (hs : P s) : P (setRush t e s) := by
  unfold Machine.setRush
  split
  · exact hs
  · exact h.pagingQueue _ rfl rfl rfl rfl rfl rfl (by simp) hs

theorem endPage (id : Nat) (out : PageState) (hs : P s) : P (endPage id out s) := by
  unfold Machine.endPage
  split
  · exact hs
  · dsimp only
    split
    · exact h.withPages _ (h.raiseTo _ _ _ _ _ hs)
    · exact h.withPages _ (h.raise _ _ _ _ hs)

theorem handOff (p : Page) (hs : P s) : P (handOff p s) := h.queueOrdinary _ (h.updPage _ _ hs)

theorem dropInfo (hs : P s) : P (dropInfo s) := forEach (fun k _ => h.endPage k _) _ hs

theorem selectUpTo : ∀ (n : Nat) {s : State}, P s → P (selectUpTo n s)
  | 0, _, hs => h.dropInfo hs
  | n + 1, s, hs => by
    unfold Machine.selectUpTo
    dsimp only
    split
    · split
      · exact h.dropInfo hs
      · exact selectUpTo n (h.handOff _ (h.withAnti _ (h.dropInfo hs)))
    · exact h.dropInfo hs

theorem selectPass (hs : P s) : P (selectPass s) := h.selectUpTo _ hs

theorem addPage (t : Target) (c a : Nat) (r : Prio) (o : Origin) (k : Option Nat) (hs : P s) :
    P (addPage t c a r o k s) := h.pagingQueue _ rfl rfl rfl rfl rfl rfl rfl hs

theorem makeRoom (r : Prio) (hs : P s) {t : State} (ht : makeRoom r s = some t) : P t := by
  unfold Machine.makeRoom at ht
  split at ht
  · cases ht; exact hs
  · obtain ⟨q, _, rfl⟩ := Option.map_eq_some_iff.mp ht
    exact h.endPage _ _ hs

theorem claimPage (t : Target) (c a : Nat) (r : Prio) (k : Option Nat) (hs : P s) : P (claimPage t c a r k s) := by
  unfold Machine.claimPage
  split
  · exact h.raise _ _ _ _ hs
  · split
    · exact h.raise _ _ _ _ hs
    · rename_i ht
      exact h.selectPass (h.addPage _ _ _ _ _ _ (h.makeRoom _ hs ht))

theorem pageKitchen (c a : Nat) (r : Prio) (k : Option Nat) (hs : P s) : P (pageKitchen c a r k s) :=
  h.claimPage _ _ _ _ _ hs

theorem pageDish (c a : Nat) (r : Prio) (k : Option Nat) (hs : P s) : P (pageDish c a r k s) := h.claimPage _ _ _ _ _ hs

theorem startRush (t : Nat) (hs : P s) : P (startRush t s) := by
  unfold Machine.startRush
  split
  · exact h.selectPass (h.setRush _ _ hs)
  · exact hs

theorem cancelPage (id : Nat) (b : Bool) (hs : P s) : P (cancelPage id b s) := by
  unfold Machine.cancelPage
  split
  · exact hs
  · split
    · exact h.updPage _ _ hs
    · split
      · exact hs
      · exact h.endPage _ _ hs

theorem cancelCoursePages (c : Nat) (b : Bool) (hs : P s) : P (cancelCoursePages c b s) :=
  h.selectPass (forEach (fun k _ => h.cancelPage k false) _ hs)

/-! ### Courses and earmarks -/

theorem setEarmark (c k n : Nat) (hs : P s) : P (setEarmark c k n s) := h.earmarks _ hs

theorem setOwed (c n : Nat) (hs : P s) : P (setOwed c n s) :=
  h.course _ _ (by constructor <;> first | rfl | exact .inl rfl) hs

theorem takeEarmark (c k : Nat) (hs : P s) : P (takeEarmark c k s) := by
  unfold Machine.takeEarmark
  dsimp only
  split
  · exact hs
  · exact h.setOwed _ _ (h.setEarmark _ _ _ hs)

theorem dropEarmark (c k : Nat) (hs : P s) : P (dropEarmark c k s) := h.setEarmark _ _ _ hs

theorem takeEarmarks (c : Nat) (hs : P s) : P (takeEarmarks c s) := by
  unfold Machine.takeEarmarks
  exact forEach (fun k s hs => by split; exacts [h.takeEarmark _ _ hs, hs]) _ hs

theorem walkOwing (k : Nat) (hs : P s) : P (walkOwing k s) := by
  unfold Machine.walkOwing
  split
  · exact hs
  · exact forEach (fun c s hs => by split; exacts [h.takeEarmark _ _ hs, hs]) _ hs

theorem refill (cls : Nat) (hs : P s) : P (refill cls s) := by
  unfold Machine.refill
  exact forEach (f := Machine.takeEarmarks) (fun c _ hc => h.takeEarmarks c hc) _ hs

theorem becomeReady (c : Nat) (hc : (s.course c).state = .fired) (hs : P s) : P (becomeReady c s) :=
  h.raise _ _ _ _ (h.claimPage _ _ _ _ _ (h.startRush _
    (h.course _ _ (by constructor <;> first | rfl | exact .inr (.inl ⟨hc, rfl⟩)) hs)))

theorem revert (c : Nat) (hc : (s.course c).state = .ready) (hs : P s) : P (revert c s) :=
  h.cancelCoursePages _ _ (h.raise _ _ _ _
    (h.course _ _ (by constructor <;> first | rfl | exact .inr (.inr ⟨hc, rfl⟩)) hs))

theorem evaluate (c : Nat) (hs : P s) : P (evaluate c s) := by
  unfold Machine.evaluate
  split
  · rename_i hc
    split
    · exact h.becomeReady c hc hs
    · exact hs
  · rename_i hc
    split
    · exact hs
    · exact h.revert c hc hs
  · exact hs

theorem pageShort (c : Nat) (hs : P s) : P (pageShort c s) := by
  unfold Machine.pageShort
  dsimp only
  split
  · exact h.pageDish _ _ _ _ (h.course _ _ (by constructor <;> first | rfl | exact .inl rfl) hs)
  · exact hs

theorem evaluateAll (hs : P s) : P (evaluateAll s) :=
  forEach (fun c _ => h.pageShort c) _ (forEach (fun c _ => h.evaluate c) _ hs)

theorem releaseEntry (e : Earmark) (hs : P s) : P (releaseEntry e s) := h.setOwed _ _ (h.setEarmark _ _ _ hs)

theorem releaseEntries (l : List Earmark) (hs : P s) : P (releaseEntries l s) :=
  foldl (fun e _ => h.releaseEntry e) _ hs

theorem releaseWarmer (k : Nat) (hs : P s) : P (releaseWarmer k s) := by
  unfold Machine.releaseWarmer
  split
  · exact hs
  · dsimp only
    split
    · exact h.evaluateAll (h.releaseEntries _ hs)
    · exact h.evaluateAll (h.refill _ (h.releaseEntries _ hs))

theorem releaseAllEarmarks (hs : P s) : P (releaseAllEarmarks s) := h.evaluateAll (h.releaseEntries _ hs)

theorem claimCab (k : Nat) (u : Bool) (hs : P s) : P (claimCab k u s) := by
  unfold Machine.claimCab
  dsimp only
  split
  · exact hs
  · exact h.claimSet _ _ _ _ hs

end Hush

namespace Quiet

variable (h : Quiet P)
include h

omit h in
theorem refreshBatches_booking (c : Cab) :
    c.refreshBatches.batches.map Batch.booking = c.batches.map Batch.booking := by
  simp only [Cab.refreshBatches, List.map_map]
  refine List.map_congr_left fun b _ => ?_
  simp only [Function.comp_apply]
  repeat' split
  all_goals rfl

omit h in
theorem pauseBatches_booking (c : Cab) : c.pauseBatches.batches.map Batch.booking = c.batches.map Batch.booking := by
  simp only [Cab.pauseBatches, List.map_map]
  refine List.map_congr_left fun b _ => ?_
  simp only [Function.comp_apply]
  split <;> rfl

/-! ### Power claims and lines -/

theorem setConsumer (c : Nat) (x : Consumer) (hs : P s) : P (s.setConsumer c x) := h.consumer c x hs

theorem lowerTo (c n : Nat) (hs : P s) : P (lowerTo c n s) := h.callRestore (h.setConsumer _ _ hs)

theorem request (c n : Nat) (hs : P s) : P (request c n s) := by
  unfold Machine.request
  dsimp only
  split
  · exact h.callAdmission (h.setConsumer _ _ hs)
  · exact h.lowerTo _ _ hs

theorem release (c : Nat) (hs : P s) : P (release c s) := h.callRestore (h.setConsumer _ _ hs)
theorem clearMeasured (c : Nat) (hs : P s) : P (clearMeasured c s) := h.callCheck (h.setConsumer _ _ hs)

theorem withExits (l : Nat) (x : List Rack) (hx : (x.map (·.tag)).Sublist ((s.line l).exits.map (·.tag))) (hs : P s) :
    P (withExits l x s) :=
  h.line _ _ (by constructor <;> first | rfl | exact id | exact hx) rfl hs

theorem updExit (l tag : Nat) (f : Rack → Rack) (hf : ∀ r, (f r).tag = r.tag) (hs : P s) : P (updExit l tag f s) := by
  refine h.withExits _ _ ?_ hs
  rw [List.map_map]
  have e : ((s.line l).exits.map ((·.tag) ∘ fun r => if r.tag = tag then f r else r)) = (s.line l).exits.map (·.tag) :=
    List.map_congr_left fun r _ => by
      simp only [Function.comp_apply]
      split
      · exact hf r
      · rfl
  rw [e]

theorem withStops (l : Nat) (x : StopSet) (h1 : x.operator = (s.line l).stops.operator)
    (h2 : x.lockout = (s.line l).stops.lockout) (h3 : (s.line l).stops.day = true → x.day = true)
    (h4 : x.power = (s.line l).stops.power) (hs : P s) : P (withStops l x s) :=
  h.line _ _ (by constructor <;> first | rfl | exact h1 | exact h2 | exact h3) h4 hs

theorem backpressure (l : Nat) (hs : P s) : P (backpressure l s) := by
  unfold Machine.backpressure
  dsimp only
  split
  · exact h.withStops _ _ rfl rfl id rfl hs
  · split
    · exact h.withStops _ _ rfl rfl id rfl hs
    · exact hs

theorem leaveExit (l tag why : Nat) (hs : P s) : P (leaveExit l tag why s) :=
  h.backpressure _ (h.raise _ _ _ _ (h.withExits _ _ (List.Sublist.map _ List.filter_sublist) hs))

theorem unrouteRack (l tag : Nat) (hs : P s) : P (unrouteRack l tag s) :=
  h.callRoute _ (h.updExit _ _ _ (fun _ => rfl) hs)

theorem loadRack (l tag n : Nat) (hs : P s) : P (loadRack l tag n s) := h.updExit _ _ _ (fun _ => rfl) hs

theorem boosterSync (l : Nat) (hs : P s) : P (boosterSync l s) := by
  unfold Machine.boosterSync
  dsimp only
  split
  · split
    · exact h.request _ _ hs
    · exact hs
  · split
    · exact h.release _ hs
    · exact hs

theorem conveyorSync (u : Bool) (l : Nat) (hs : P s) : P (conveyorSync u l s) := by
  unfold Machine.conveyorSync
  dsimp only
  split
  · exact hs
  · exact h.claimSet _ _ _ _
      (h.line _ _ (by constructor <;> first | rfl | exact id) rfl hs)

/-! ### Cabinets -/

omit h in
theorem enter_keeps (c : Cab) (st : CabState) (hst : st = .waitPower ∨ st = .heating) : CabKeeps c (c.enter st) := by
  rcases hst with rfl | rfl <;>
    constructor <;>
      first
      | rfl
      | exact refreshBatches_booking _
      | exact Nat.le_refl _
      | exact .inr (.inl rfl)
      | exact .inr (.inr rfl)

/-- What follows a change of state of cabinet `k` once its record is entered. -/
theorem changeState_of (k : Nat) (st : CabState) (u : Bool)
    (hc : (s.cab k).state ≠ st → P (s.setCab k ((s.cab k).enter st))) (hs : P s) : P (changeState k st u s) := by
  unfold Machine.changeState
  dsimp only
  split
  · exact hs
  · rename_i hne
    have h1 := h.claimCab k u (h.raise .cabinetState k st.code (s.cab k).state.code (hc hne))
    refine h.callClose (h.callRoutes ?_)
    split
    · exact h.releaseWarmer _ h1
    · split
      · exact h.evaluateAll (h.walkOwing _ h1)
      · exact h1

theorem changeState (k : Nat) (st : CabState) (u : Bool) (hst : st = .waitPower ∨ st = .heating) (hs : P s) :
    P (changeState k st u s) :=
  h.changeState_of k st u (fun _ => h.cab _ _ (enter_keeps _ _ hst) hs) hs

theorem requestHeat (k : Nat) (hs : P s) : P (requestHeat k s) := by
  unfold Machine.requestHeat
  dsimp only
  have h1 := h.request k (((Machine.changeState k .waitPower false s).cab k).heat)
    (h.changeState k .waitPower false (.inl rfl) hs)
  split
  · exact h.changeState _ _ _ (.inr rfl) h1
  · exact h1

theorem acceptRoute (k l tag n : Nat) (hs : P s) : P (acceptRoute k l tag n s) := by
  unfold Machine.acceptRoute
  dsimp only
  have h1 : P (s.setCab k { s.cab k with routes := (s.cab k).routes ++ [⟨l, tag, n, 0⟩], sleepT := none }) :=
    h.cab _ _ (by constructor <;> first | rfl | exact Nat.le_refl _ | exact .inl rfl) hs
  split
  · exact h.requestHeat _ h1
  · exact h1

theorem dropRoute (k l tag : Nat) (hs : P s) : P (dropRoute k l tag s) :=
  h.cab _ _ (by constructor <;> first | rfl | exact Nat.le_refl _ | exact .inl rfl) hs

theorem sleepSync (k : Nat) (hs : P s) : P (sleepSync k s) := by
  unfold Machine.sleepSync
  dsimp only
  repeat' split
  all_goals
    first
    | exact hs
    | exact h.cab _ _ (by constructor <;> first | rfl | exact Nat.le_refl _ | exact .inl rfl) hs

/-! ### Grants -/

theorem giveGrant (c : Nat) (hs : P s) : P (giveGrant c s) := h.setConsumer _ _ hs

theorem admitWalk : ∀ (l : List Nat) {s : State}, P s → P (admitWalk l s)
  | [], _, hs => hs
  | c :: cs, s, hs => by
    unfold Machine.admitWalk
    split
    · dsimp only
      split
      · exact admitWalk cs (h.changeState _ _ _ (.inr rfl) (h.giveGrant _ hs))
      · exact admitWalk cs (h.giveGrant _ hs)
    · exact hs

theorem admission (hs : P s) : P (admission s) := h.admitWalk _ hs

theorem withSettle (t : Option Nat) (hs : P s) : P (withSettle t s) := h.power _ (by constructor <;> rfl) rfl hs

theorem restoreCheck (hs : P s) : P (restoreCheck s) := by
  unfold Machine.restoreCheck
  split
  · split
    · exact hs
    · split
      · dsimp only
        split
        · exact h.withSettle _ (h.raise _ _ _ _
            (h.changeState _ _ _ (.inr rfl) (h.changeState _ _ _ (.inl rfl) (h.giveGrant _ hs))))
        · exact h.withSettle _ (h.raise _ _ _ _ (h.giveGrant _ hs))
      · exact hs
  · exact hs

theorem powerTry (hs : P s) : P (powerTry s) := by
  have h0 : P (s.withCalls { s.calls with admission := false, restore := false }) := h.calls _ hs
  unfold Machine.powerTry
  dsimp only
  split
  · split
    · exact h.restoreCheck (h.admission h0)
    · exact h.restoreCheck h0
  · split
    · exact h.admission h0
    · exact h0

/-! ### Routing -/

theorem routeRack (l : Nat) (r : Rack) (hs : P s) : P (routeRack l r s) := by
  unfold Machine.routeRack
  dsimp only
  split
  · split
    · exact hs
    · exact h.raise _ _ _ _ (h.updExit _ _ _ (fun _ => rfl) hs)
  · refine h.raise _ _ _ _ (h.updExit _ _ _ (fun _ => rfl) (h.acceptRoute _ _ _ _ ?_))
    split
    · exact h.round _ _ hs
    · exact hs

theorem routingPass (l : Nat) (hs : P s) : P (routingPass l s) := Hush.foldl (fun r _ => h.routeRack l r) _ hs

end Quiet

/-- The day is no part of what these operations change. -/
theorem Quiet.day (d : Day) : Quiet fun t => t.day = d := by
  constructor
  · constructor
    all_goals intros
    all_goals assumption
  case consumer =>
    exact fun c x hs => setConsumer_keeps (P := fun t => t.day = d) (fun _ _ h => h) (fun _ _ _ h => h) c x hs
  all_goals intros
  all_goals assumption

/-- What notices, pages, SET claims, earmarks and readiness leave as it was. -/
structure Beside (s t : State) : Prop where
  pending : t.pending = s.pending
  hold : t.hold = s.hold
  day : t.day = s.day
  wares : t.wares = s.wares
  fns : t.fns = s.fns
  fire : t.fire = s.fire
  cabs : t.cabs = s.cabs
  lines : t.lines = s.lines
  power : t.power = s.power

theorem Beside.refl (s : State) : Beside s s := by constructor <;> rfl

theorem Beside.hush (s : State) : Hush (Beside s) := by
  constructor
  all_goals intros
  all_goals rename_i hs
  all_goals exact ⟨hs.pending, hs.hold, hs.day, hs.wares, hs.fns, hs.fire, hs.cabs, hs.lines, hs.power⟩

/-- A change of state writes the cabinet's record, and beside it only what `Beside` leaves open. -/
theorem changeState_beside (k : Nat) (st : CabState) (u : Bool) (s : State) :
    Beside (if (s.cab k).state = st then s else s.setCab k ((s.cab k).enter st)) (changeState k st u s) := by
  unfold Machine.changeState
  dsimp only
  split
  · exact Beside.refl _
  · have h := Beside.hush (s.setCab k ((s.cab k).enter st))
    have h1 := h.claimCab k u (h.raise .cabinetState k st.code (s.cab k).state.code (Beside.refl _))
    refine h.callClose (h.callRoutes ?_)
    split
    · exact h.releaseWarmer _ h1
    · split
      · exact h.evaluateAll (h.walkOwing _ h1)
      · exact h1

namespace Stable

variable (h : Stable P)
include h

/-! ### Close completion -/

/-- Both `P` and the day state CLOSING, through an operation that leaves the day alone. -/
theorem and_day {f : State → State} (hf : ∀ {Q : State → Prop}, Quiet Q → ∀ {s}, Q s → Q (f s)) {d : Day}
    (hs : P s ∧ s.day = d) : P (f s) ∧ (f s).day = d :=
  ⟨hf h.toQuiet hs.1, hf (Quiet.day d) hs.2⟩

theorem transfer_day (cls : Nat) (a b : Place) (n : Nat) {d : Day} (hd : d.state = .closing) (hs : P s ∧ s.day = d) :
    P (Machine.transfer cls a b n s) ∧ (Machine.transfer cls a b n s).day = d :=
  ⟨h.transfer _ _ _ _ (by rw [hs.2]; exact hd) hs.1, hs.2⟩

theorem closeRack (l : Nat) (r : Rack) {d : Day} (hd : d.state = .closing) (hs : P s ∧ s.day = d) :
    P (closeRack l r s) ∧ (closeRack l r s).day = d := by
  unfold Machine.closeRack
  dsimp only
  refine h.and_day (fun hq _ => hq.leaveExit l r.tag leftClosed) ?_
  split
  · exact h.transfer_day _ _ _ _ hd hs
  · exact h.and_day (fun hq _ => hq.dropRoute _ _ _) hs
  · exact hs

theorem closeLine (l : Nat) {d : Day} (hd : d.state = .closing) (hs : P s ∧ s.day = d) :
    P (closeLine l s) ∧ (closeLine l s).day = d := by
  have h1 : ∀ (rs : List Rack) {t : State}, (P t ∧ t.day = d) →
      P (rs.foldl (fun t r => Machine.closeRack l r t) t) ∧ (rs.foldl (fun t r => Machine.closeRack l r t) t).day = d :=
    fun rs _ ht => Hush.foldl (P := fun t => P t ∧ t.day = d) (fun r _ ht => h.closeRack l r hd ht) rs ht
  unfold Machine.closeLine
  dsimp only
  exact h.and_day (f := fun s => Machine.withStops l { (s.line l).stops with day := true } s)
    (fun hq _ hs => hq.withStops _ _ rfl rfl (fun _ => rfl) rfl hs)
    (h.and_day (fun hq _ => hq.release (24 + l)) (h1 _ hs))

theorem unload (k : Nat) {d : Day} (hd : d.state = .closing) (hs : P s ∧ s.day = d) :
    P (unload k s) ∧ (unload k s).day = d := by
  unfold Machine.unload
  dsimp only
  split
  · exact hs
  · exact h.transfer_day _ _ _ _ hd (h.and_day (f := fun s => s.setCab k { s.cab k with lots := [] })
      (fun hq _ hs => hq.cab _ _
        (by constructor <;> first | rfl | exact Nat.zero_le _ | exact .inl rfl) hs) hs)

theorem unloadOffline {d : Day} (hd : d.state = .closing) (hs : P s ∧ s.day = d) :
    P (unloadOffline s) ∧ (unloadOffline s).day = d :=
  Hush.forEach (P := fun t => P t ∧ t.day = d)
    (fun k _ ht => by
      split
      · exact h.unload k hd ht
      · exact ht) _ hs

theorem dayToOpening (hc : s.day.state = .closing) (hs : P s) : P (dayToOpening s) :=
  h.matchDiscovery (h.power _ (by constructor <;> rfl) rfl (h.opening hc hs))

theorem completeClose (hc : s.day.state = .closing) (hs : P s) : P (completeClose s) := by
  have h1 := h.closeLine 1 hc (h.closeLine 0 hc ⟨hs, rfl⟩)
  have h2 := h.unloadOffline hc h1
  exact h.raise _ _ _ _ (h.dayToOpening (by rw [h2.2]; exact hc) h2.1)

theorem closeTest (hs : P s) : P (closeTest s) := by
  have h0 : P (s.withCalls { s.calls with close := false }) := h.calls _ hs
  unfold Machine.closeTest
  dsimp only
  split
  · rename_i hc
    simp only [Bool.and_eq_true, decide_eq_true_eq] at hc
    exact h.completeClose hc.1.2 h0
  · exact h0

/-! ### The end of a step -/

theorem settle : ∀ (n : Nat) {s : State}, P s → P (settle n s)
  | 0, _, hs => hs
  | n + 1, s, hs => by
    unfold Machine.settle
    split
    · exact settle n (h.powerTry hs)
    · split
      · exact settle n (h.closeTest hs)
      · split
        · exact settle n (h.routingPass 0 (h.calls _ hs))
        · split
          · exact settle n (h.routingPass 1 (h.calls _ hs))
          · exact hs

/-- The end of a step keeps what its operations keep. -/
theorem finish (hs : P s) : P (finish s) :=
  h.calls _ (h.refreshPolls (Hush.forEach (fun k _ => h.sleepSync k) _
    (h.conveyorSync false 1 (h.conveyorSync false 0 (h.settle _ hs)))))

end Stable

end Sys2Proof.Machine
end

