-- ==== Sys2Proof/Laws/Floor.lean ====
section
/-! SUPPORT. `Floor s t`: everything that stands in `t` as it stood in `s` after the end of a step, or after any of the
operations of Laws/Keeps. -/

namespace Sys2Proof.Machine

theorem CourseKeeps.refl (c : Course) : CourseKeeps c c := by constructor <;> first | rfl | exact .inl rfl

theorem CourseKeeps.trans {a b c : Course} (h : CourseKeeps a b) (g : CourseKeeps b c) : CourseKeeps a c := by
  refine ⟨g.fn.trans h.fn, g.cls.trans h.cls, g.covers.trans h.covers, g.batch.trans h.batch,
    g.station.trans h.station, g.fireTime.trans h.fireTime, g.fireSeq.trans h.fireSeq, g.plated.trans h.plated,
    g.returned.trans h.returned, g.ovenFault.trans h.ovenFault, g.overHoldPaged.trans h.overHoldPaged, ?_⟩
  rcases h.state with h1 | ⟨h1, h2⟩ | ⟨h1, h2⟩ <;> rcases g.state with g1 | ⟨g1, g2⟩ | ⟨g1, g2⟩ <;> simp_all

theorem CabKeeps.trans {a b c : Cab} (h : CabKeeps a b) (g : CabKeeps b c) : CabKeeps a c := by
  refine ⟨g.kind.trans h.kind, g.addr.trans h.addr, g.wantedOn.trans h.wantedOn, g.setpoint.trans h.setpoint,
    g.band.trans h.band, g.heat.trans h.heat, g.hold.trans h.hold, g.standby.trans h.standby, g.idle.trans h.idle,
    g.temp.trans h.temp, g.level.trans h.level, g.draw.trans h.draw, g.live.trans h.live,
    g.latchedSet.trans h.latchedSet, g.latched.trans h.latched, g.reported.trans h.reported, g.cls.trans h.cls,
    g.capacity.trans h.capacity, g.shelves.trans h.shelves, g.batches.trans h.batches, g.lots.trans h.lots, ?_⟩
  rcases g.state with g1 | g1
  · rw [g1]; exact h.state
  · exact .inr g1

theorem LineKeeps.trans {a b c : Line} (h : LineKeeps a b) (g : LineKeeps b c) : LineKeeps a c :=
  ⟨g.addr.trans h.addr, g.defFn.trans h.defFn, g.strict.trans h.strict, g.sanMin.trans h.sanMin, g.high.trans h.high,
    g.low.trans h.low, g.transitLimit.trans h.transitLimit, g.routeTimeout.trans h.routeTimeout,
    g.booster.trans h.booster, g.opRun.trans h.opRun, g.running.trans h.running, g.rinse.trans h.rinse,
    g.rinseLow.trans h.rinseLow, g.lastEvent.trans h.lastEvent, g.transitJudged.trans h.transitJudged,
    g.staged.trans h.staged, g.inside.trans h.inside, g.operator.trans h.operator, g.lockout.trans h.lockout,
    fun e => g.day (h.day e), g.exits.trans h.exits⟩

theorem PowerKeeps.refl (w : Power) : PowerKeeps w w := by constructor <;> rfl

theorem PowerKeeps.trans {a b c : Power} (h : PowerKeeps a b) (g : PowerKeeps b c) : PowerKeeps a c :=
  ⟨g.budget.trans h.budget, g.shedHigh.trans h.shedHigh, g.shedLow.trans h.shedLow, g.unresolved.trans h.unresolved,
    g.saturate.trans h.saturate, g.nearestEven.trans h.nearestEven, g.protected0.trans h.protected0,
    g.protected1.trans h.protected1, g.meters.trans h.meters, g.length.trans h.length⟩

theorem PagingKeeps.refl (g : Paging) : PagingKeeps g g := by constructor <;> rfl

theorem PagingKeeps.trans {a b c : Paging} (h : PagingKeeps a b) (g : PagingKeeps b c) : PagingKeeps a c :=
  ⟨g.settings.trans h.settings, g.ageJudged.trans h.ageJudged, g.dir.trans h.dir, g.dirFull.trans h.dirFull,
    g.rates.trans h.rates, g.baseFull.trans h.baseFull, g.length.trans h.length⟩

theorem NodeKeeps.trans {a b c : Node} (h : NodeKeeps a b) (g : NodeKeeps b c) : NodeKeeps a c :=
  ⟨g.type.trans h.type, g.serial.trans h.serial, g.presence.trans h.presence, g.misses.trans h.misses,
    g.silence.trans h.silence, g.lastResp.trans h.lastResp, g.loadBase.trans h.loadBase, g.drawBase.trans h.drawBase,
    g.binding.trans h.binding, g.fetchAhead.trans h.fetchAhead, g.lastEvent.trans h.lastEvent⟩

theorem BusKeeps.refl (b : Bus) : BusKeeps b b := ⟨fun _ => NodeKeeps.refl _, rfl, rfl, rfl, fun e => ⟨e, rfl⟩⟩

theorem BusKeeps.trans {a b c : Bus} (h : BusKeeps a b) (g : BusKeeps b c) : BusKeeps a c :=
  ⟨fun i => (h.nodes i).trans (g.nodes i), g.length.trans h.length, g.discPtr.trans h.discPtr, g.btx.trans h.btx,
    fun e => ⟨(g.idle (h.idle e).1).1, (g.idle (h.idle e).1).2.trans (h.idle e).2⟩⟩

theorem PortKeeps.refl (r : PortRec) : PortKeeps r r := by
  constructor <;> first | rfl | exact id

theorem PortKeeps.trans {a b c : PortRec} (h : PortKeeps a b) (g : PortKeeps b c) : PortKeeps a c :=
  ⟨g.slot.trans h.slot, g.unread.trans h.unread, g.subs.trans h.subs, g.lineOn.trans h.lineOn, g.perms.trans h.perms,
    g.miso.trans h.miso, h.queue.trans g.queue, fun e => g.overflow (h.overflow e), fun e => g.bound (h.bound e)⟩

/-- R171: a notice joins the tail of a queue of fewer than 24, and otherwise sets the overflow flag. -/
theorem PortRec.offer_keeps (r : PortRec) (n : Notice) : PortKeeps r (r.offer n) := by
  unfold PortRec.offer
  split
  · rename_i hl
    have hl' : r.queue.length < 24 := hl
    constructor <;> first | rfl | exact id | skip
    · exact List.prefix_append _ _
    · intro _
      simp only [List.length_append, List.length_singleton]
      omega
  · constructor <;> first | rfl | exact id | exact fun _ => rfl

theorem offerWhere_port (q : Port → Bool) (n : Notice) (s : State) (p : Port) :
    (offerWhere q n s).port p =
      if q p || (s.port p).takes n.kind.category then (s.port p).offer n else s.port p := by
  cases p <;> rfl

theorem offerWhere_keeps (q : Port → Bool) (n : Notice) (s : State) (p : Port) :
    PortKeeps (s.port p) ((offerWhere q n s).port p) := by
  rw [offerWhere_port]
  split
  · exact PortRec.offer_keeps _ _
  · exact PortKeeps.refl _

theorem Floor.refl (s : State) : Floor s s :=
  ⟨rfl, rfl, rfl, fun _ => PortKeeps.refl _, .inl rfl, fun _ => rfl, id, fun _ => rfl, fun _ => CourseKeeps.refl _,
    fun _ => CabKeeps.refl _, fun _ => LineKeeps.refl _, PowerKeeps.refl _, PagingKeeps.refl _, BusKeeps.refl _, id⟩

/-! ### One entry written -/

theorem State.ware_setWare_ite (s : State) (c j : Nat) (x : Ware) :
    (s.setWare c x).ware j = if j = c ∧ c < s.wares.length then x else s.ware j := by
  simp only [State.ware, State.setWare, State.withWares, List.getD_eq_getElem?_getD, List.getElem?_set]
  by_cases h : c = j
  · subst h
    by_cases hl : c < s.wares.length <;> simp [hl]
  · simp [h, Ne.symm h]

theorem State.fn_setFn_ite (s : State) (c j : Nat) (x : Fn) :
    (s.setFn c x).fn j = if j = c ∧ c < s.fns.length then x else s.fn j := by
  simp only [State.fn, State.setFn, State.withFns, List.getD_eq_getElem?_getD, List.getElem?_set]
  by_cases h : c = j
  · subst h
    by_cases hl : c < s.fns.length <;> simp [hl]
  · simp [h, Ne.symm h]

theorem State.course_setCourse_ite (s : State) (c j : Nat) (x : Course) :
    (s.setCourse c x).course j = if j = c ∧ c < s.courses.length then x else s.course j := by
  simp only [State.course, State.setCourse, State.withCourses, List.getD_eq_getElem?_getD, List.getElem?_set]
  by_cases h : c = j
  · subst h
    by_cases hl : c < s.courses.length <;> simp [hl]
  · simp [h, Ne.symm h]

theorem State.cab_setCab_ite (s : State) (c j : Nat) (x : Cab) :
    (s.setCab c x).cab j = if j = c ∧ c < s.cabs.length then x else s.cab j := by
  simp only [State.cab, State.setCab, State.withCabs, List.getD_eq_getElem?_getD, List.getElem?_set]
  by_cases h : c = j
  · subst h
    by_cases hl : c < s.cabs.length <;> simp [hl]
  · simp [h, Ne.symm h]

theorem State.line_setLine_ite (s : State) (c j : Nat) (x : Line) :
    (s.setLine c x).line j = if j = c ∧ c < s.lines.length then x else s.line j := by
  simp only [State.line, State.setLine, State.withLines, List.getD_eq_getElem?_getD, List.getElem?_set]
  by_cases h : c = j
  · subst h
    by_cases hl : c < s.lines.length <;> simp [hl]
  · simp [h, Ne.symm h]

theorem State.node_setNode_ite (s : State) (a b : Nat) (x : Node) :
    (s.setNode a x).node b =
      if State.nodeIdx b = State.nodeIdx a ∧ State.nodeIdx a < s.bus.nodes.length then x else s.node b := by
  simp only [State.node, State.setNode, State.withBus, List.getD_eq_getElem?_getD, List.getElem?_set]
  by_cases h : State.nodeIdx a = State.nodeIdx b
  · by_cases hl : State.nodeIdx b < s.bus.nodes.length <;> simp [h, hl]
  · simp [h, Ne.symm h]

/-! ### Conservation -/

theorem Ware.move_sum (w : Ware) (a b : Place) (n : Nat) : (w.move a b n).sum = w.sum := by
  cases a <;> cases b <;> simp only [Ware.move, Ware.put, Ware.holds, Ware.sum] <;> omega

theorem Ware.move_stock (w : Ware) (a b : Place) (n : Nat) : (w.move a b n).stock = w.stock := by
  cases a <;> cases b <;> rfl

/-- A class whose new record holds its stock keeps the law of R2. -/
theorem Conserves.setWare {s : State} (hs : Conserves s) (c : Nat) (x : Ware)
    (hx : c < s.wares.length → x.sum = x.stock) : Conserves (s.setWare c x) := by
  intro w hw
  by_cases hl : c < s.wares.length
  · rcases List.mem_or_eq_of_mem_set hw with hw | rfl
    · exact hs w hw
    · exact hx hl
  · have e : (s.setWare c x).wares = s.wares := by
      simp only [State.setWare_wares]
      exact List.set_eq_of_length_le (by omega)
    rw [e] at hw
    exact hs w hw

theorem Conserves.ware {s : State} (hs : Conserves s) {c : Nat} (hc : c < s.wares.length) :
    (s.ware c).sum = (s.ware c).stock := by
  refine hs _ ?_
  simp only [State.ware, List.getD_eq_getElem?_getD, List.getElem?_eq_getElem hc, Option.getD_some]
  exact List.getElem_mem hc

theorem Conserves.transfer {s : State} (hs : Conserves s) (c : Nat) (a b : Place) (n : Nat) :
    Conserves (transfer c a b n s) :=
  hs.setWare _ _ fun hc => by rw [Ware.move_sum, Ware.move_stock]; exact hs.ware hc

theorem Conserves.addHouse {s : State} (hs : Conserves s) (c n : Nat) : Conserves (addHouse c n s) :=
  hs.setWare _ _ fun hc => hs.ware hc

theorem Conserves.subHouse {s : State} (hs : Conserves s) (c n : Nat) : Conserves (subHouse c n s) :=
  hs.setWare _ _ fun hc => hs.ware hc

/-! ### The end of a step -/

theorem Sized.of {s t : State} (h : Sized s) (h1 : t.wares.length = s.wares.length) (h2 : t.fns.length = s.fns.length)
    (h3 : t.courses.length = s.courses.length) (h4 : t.cabs.length = s.cabs.length)
    (h5 : t.lines.length = s.lines.length) (h6 : t.power.consumers.length = s.power.consumers.length)
    (h7 : t.power.meters.length = s.power.meters.length) (h8 : t.paging.dir.length = s.paging.dir.length)
    (h9 : t.paging.rush.length = s.paging.rush.length) (h10 : t.paging.rates.length = s.paging.rates.length)
    (h11 : t.bus.nodes.length = s.bus.nodes.length) (h12 : t.day.confirm.length = s.day.confirm.length) : Sized t :=
  ⟨h1.trans h.wares, h2.trans h.fns, h3.trans h.courses, h4.trans h.cabs, h5.trans h.lines, h6.trans h.consumers,
    h7.trans h.meters, h8.trans h.dir, h9.trans h.rush, h10.trans h.rates, h11.trans h.nodes, h12.trans h.confirm⟩

theorem CabStays.refl (c : Cab) : CabStays c c := CabKeeps.refl c

theorem CabStays.trans {a b c : Cab} (h : CabStays a b) (g : CabKeeps b c) : CabStays a c :=
  ⟨g.kind.trans h.kind, g.addr.trans h.addr, g.wantedOn.trans h.wantedOn, g.setpoint.trans h.setpoint,
    g.band.trans h.band, g.heat.trans h.heat, g.hold.trans h.hold, g.standby.trans h.standby, g.idle.trans h.idle,
    g.temp.trans h.temp, g.level.trans h.level, g.draw.trans h.draw, g.live.trans h.live,
    g.latchedSet.trans h.latchedSet, g.latched.trans h.latched, g.reported.trans h.reported, g.cls.trans h.cls,
    g.capacity.trans h.capacity, g.shelves.trans h.shelves, g.batches.trans h.batches, g.lots.trans h.lots, .inl rfl⟩

theorem FloorBy.setLine {R : Cab → Cab → Prop} {s t : State} (c : Nat) (x : Line) (hx : LineKeeps (t.line c) x)
    (hs : FloorBy R s t) : FloorBy R s (t.setLine c x) :=
  { hs with
    line := fun j => by
      rw [State.line_setLine_ite]
      split
      · rename_i hj
        obtain ⟨rfl, _⟩ := hj
        exact (hs.line j).trans hx
      · exact hs.line j
    sizes := fun h => (hs.sizes h).of rfl rfl rfl rfl (by simp) rfl rfl rfl rfl rfl rfl rfl }

theorem FloorBy.withPower {R : Cab → Cab → Prop} {s t : State} (x : Power) (hx : PowerKeeps t.power x)
    (hs : FloorBy R s t) : FloorBy R s (t.withPower x) :=
  { hs with
    power := hs.power.trans hx
    sizes := fun h => (hs.sizes h).of rfl rfl rfl rfl rfl hx.length (congrArg _ hx.meters) rfl rfl rfl rfl rfl }

theorem FloorBy.stable {R : Cab → Cab → Prop} (hR : ∀ {a b c}, R a b → CabKeeps b c → R a c) (s : State) :
    Stable (FloorBy R s) where
  calls _ hs := { hs with sizes := fun h => (hs.sizes h).of rfl rfl rfl rfl rfl rfl rfl rfl rfl rfl rfl rfl }
  freeCount _ hs := { hs with sizes := fun h => (hs.sizes h).of rfl rfl rfl rfl rfl rfl rfl rfl rfl rfl rfl rfl }
  offer q n hs :=
    { hs with
      port := fun p => (hs.port p).trans (offerWhere_keeps q n _ p)
      sizes := fun h => (hs.sizes h).of rfl rfl rfl rfl rfl rfl rfl rfl rfl rfl rfl rfl }
  round {t} f k hs :=
    { hs with
      fn := fun j => by
        rw [State.fn_setFn_ite]
        split
        · rename_i hj
          obtain ⟨rfl, _⟩ := hj
          rw [hs.fn j]
        · exact hs.fn j
      sizes := fun h => (hs.sizes h).of rfl (by simp) rfl rfl rfl rfl rfl rfl rfl rfl rfl rfl }
  course {t} c x hx hs :=
    { hs with
      course := fun j => by
        rw [State.course_setCourse_ite]
        split
        · rename_i hj
          obtain ⟨rfl, _⟩ := hj
          exact (hs.course j).trans hx
        · exact hs.course j
      sizes := fun h => (hs.sizes h).of rfl rfl (by simp) rfl rfl rfl rfl rfl rfl rfl rfl rfl }
  earmarks _ hs := { hs with sizes := fun h => (hs.sizes h).of rfl rfl rfl rfl rfl rfl rfl rfl rfl rfl rfl rfl }
  cab {t} c x hx hs :=
    { hs with
      cab := fun j => by
        rw [State.cab_setCab_ite]
        split
        · rename_i hj
          obtain ⟨rfl, _⟩ := hj
          exact hR (hs.cab j) hx
        · exact hs.cab j
      sizes := fun h => (hs.sizes h).of rfl rfl rfl (by simp) rfl rfl rfl rfl rfl rfl rfl rfl }
  line c x hx _ hs := FloorBy.setLine c x hx hs
  consumer c x hs := setConsumer_keeps FloorBy.withPower FloorBy.setLine c x hs
  power x hx _ hs := FloorBy.withPower x hx hs
  paging x hx hs :=
    { hs with
      paging := hs.paging.trans hx
      sizes := fun h =>
        (hs.sizes h).of rfl rfl rfl rfl rfl rfl rfl (congrArg _ hx.dir) hx.length (congrArg _ hx.rates) rfl rfl }
  bus x hx hs :=
    { hs with
      bus := hs.bus.trans hx
      sizes := fun h => (hs.sizes h).of rfl rfl rfl rfl rfl rfl rfl rfl rfl rfl hx.length rfl }
  transfer {t} c a b n hc hs :=
    { hs with
      wares := fun h => by
        rcases hs.day with e | ⟨e, _⟩
        · rw [e] at hc; exact absurd hc h
        · exact absurd e h
      conserves := fun h => (hs.conserves h).transfer c a b n
      sizes := fun h =>
        (hs.sizes h).of (by simp [Machine.transfer]) rfl rfl rfl rfl rfl rfl rfl rfl rfl rfl rfl }
  opening {t} hc hs :=
    { hs with
      day := by
        rcases hs.day with e | ⟨e, e'⟩
        · refine .inr ⟨by rw [← e]; exact hc, ?_⟩
          simp [e]
        · rw [e'] at hc; cases hc
      sizes := fun h => (hs.sizes h).of rfl rfl rfl rfl rfl rfl rfl rfl rfl rfl rfl rfl }

theorem Floor.stable (s : State) : Stable (Floor s) := FloorBy.stable (R := CabKeeps) CabKeeps.trans s
theorem Still.stable (s : State) : Stable (Still s) := FloorBy.stable (R := CabStays) CabStays.trans s

theorem Still.refl (s : State) : Still s s :=
  ⟨rfl, rfl, rfl, fun _ => PortKeeps.refl _, .inl rfl, fun _ => rfl, id, fun _ => rfl, fun _ => CourseKeeps.refl _,
    fun _ => CabStays.refl _, fun _ => LineKeeps.refl _, PowerKeeps.refl _, PagingKeeps.refl _, BusKeeps.refl _, id⟩

theorem Floor.still {s t : State} (h : Floor s t) : Still s t :=
  { h with cab := fun k => CabStays.trans (CabStays.refl _) (h.cab k) }

theorem enter_stays (c : Cab) (st : CabState) : CabStays c (c.enter st) := by
  have hb : (c.enter st).batches.map Batch.booking = c.batches.map Batch.booking := by
    cases st <;> first | exact Quiet.refreshBatches_booking _ | exact Quiet.pauseBatches_booking _
  cases st <;> exact ⟨rfl, rfl, rfl, rfl, rfl, rfl, rfl, rfl, rfl, rfl, rfl, rfl, rfl, rfl, rfl, rfl, rfl, rfl, rfl, hb,
    Nat.le_refl _, .inl rfl⟩

/-- Any change of a cabinet's state. -/
theorem Still.changeState {s u : State} (k : Nat) (st : CabState) (b : Bool) (hs : Still s u) :
    Still s (changeState k st b u) := by
  refine (Still.stable s).toQuiet.changeState_of k st b (fun _ => ?_) hs
  refine { hs with cab := fun j => ?_, sizes := fun h => (hs.sizes h).of rfl rfl rfl (by simp) rfl rfl rfl rfl rfl rfl rfl rfl }
  rw [State.cab_setCab_ite]
  split
  · rename_i hj
    obtain ⟨rfl, _⟩ := hj
    have g := enter_stays (u.cab j) st
    have h := hs.cab j
    exact ⟨g.kind.trans h.kind, g.addr.trans h.addr, g.wantedOn.trans h.wantedOn, g.setpoint.trans h.setpoint,
      g.band.trans h.band, g.heat.trans h.heat, g.hold.trans h.hold, g.standby.trans h.standby, g.idle.trans h.idle,
      g.temp.trans h.temp, g.level.trans h.level, g.draw.trans h.draw, g.live.trans h.live,
      g.latchedSet.trans h.latchedSet, g.latched.trans h.latched, g.reported.trans h.reported, g.cls.trans h.cls,
      g.capacity.trans h.capacity, g.shelves.trans h.shelves, g.batches.trans h.batches, g.lots.trans h.lots, .inl rfl⟩
  · exact hs.cab j

/-- A cabinet's temperature judged (R56). -/
theorem Still.judgeNow {s u : State} (k : Nat) (hs : Still s u) : Still s (judgeNow k u) := by
  unfold Machine.judgeNow
  dsimp only
  repeat' split
  all_goals
    first
    | exact hs
    | exact Still.changeState _ _ _ ((Still.stable s).toQuiet.lowerTo _ _ hs)
    | exact (Still.stable s).toQuiet.requestHeat _ hs

/-- What the end of a step leaves. -/
theorem finish_floor (s : State) : Floor s (finish s) := (Floor.stable s).finish (Floor.refl s)

end Sys2Proof.Machine
end

