-- ==== Sys2Proof/Laws/Wide.lean ====
section
/-! SUPPORT. What an answer of a node, a timer or any other event can do, said once: a property that the changes named
in `Wide` keep is kept by every operation that such a row calls; `Calm` leaves out a lockout entry, and `Work` the
changes of the bus that `BusKeeps` does not allow. The configuration of the day is no part of these changes. -/

namespace Sys2Proof.Machine

theorem CabSettings.refl (c : Cab) : CabSettings c c := by constructor <;> rfl
theorem CabConfig.refl (c : Cab) : CabConfig c c := by constructor <;> rfl
theorem refreshBatches_config (c : Cab) : CabConfig c c.refreshBatches := by constructor <;> rfl
theorem LineConfig.refl (c : Line) : LineConfig c c := by constructor <;> rfl

/-- The changes that the blocks behind the service bus make of one event, a lockout aside, all keep `P`. -/
structure Work (P : State → Prop) : Prop extends Stable P where
  plates : ∀ {s} cls a b n, P s → P (Machine.transfer cls a b n s)
  house : ∀ {s} cls n, P s → P (addHouse cls n s)
  anyCourse : ∀ {s : State} c x, P s → P (s.setCourse c x)
  anyFire : ∀ {s : State} x, P s → P (s.withFire x)
  anyCabs : ∀ {s : State} l, l.length = s.cabs.length → (∀ k, CabConfig (s.cab k) (l.getD k Cab.initial)) → P s →
    P (s.withCabs l)
  anyLines : ∀ {s : State} l, l.length = s.lines.length → (∀ k, LineConfig (s.line k) (l.getD k Line.initial)) →
    (∀ k, (l.getD k Line.initial).stops.power = (s.line k).stops.power) → P s → P (s.withLines l)
  anyPower : ∀ {s : State} x, PowerConfig s.power x →
    (∀ c, (x.consumers.getD c Consumer.initial).grant = (s.consumer c).grant ∧
      (x.consumers.getD c Consumer.initial).request = (s.consumer c).request) → P s → P (s.withPower x)
  anyPaging : ∀ {s : State} x, PagingConfig s.paging x → P s → P (s.withPaging x)
  confirm : ∀ {s} k t, P s → P (setConfirm k t s)
  noHold : ∀ {s : State}, P s → P (s.withHold Hold.initial)
  clocks : ∀ {s : State} c m sm, P s → P (s.withDay { s.day with clock := c, ms := m, secMs := sm })

/-- And those of the bus itself. -/
structure Calm (P : State → Prop) : Prop extends Work P where
  anyBus : ∀ {s : State} x, x.nodes.length = s.bus.nodes.length → P s → P (s.withBus x)
  measured : ∀ {s : State} k (t : Int) (m : ElementMode) (d : Nat), P s →
    P (s.setCab k { s.cab k with temp := t, level := m, draw := d, reported := true })

/-- And the day of a lockout entry. -/
structure Wide (P : State → Prop) : Prop extends Calm P where
  lockout : ∀ {s : State} c, s.day.state ≠ .lockout → P s →
    P (s.withDay { s.day with
      ret := some s.day.state, cause := some c, state := .lockout, feedcut := true, confirm := List.replicate 24 none })

variable {P : State → Prop} {s : State}

namespace Work

variable (h : Work P)
include h

/-! ### Entries of the tables -/

theorem setCab (k : Nat) (x : Cab) (hx : CabConfig (s.cab k) x) (hs : P s) : P (s.setCab k x) := by
  refine h.anyCabs _ (by simp) (fun j => ?_) hs
  have e := s.cab_setCab_ite k j x
  simp only [State.cab, State.setCab_cabs] at e
  rw [e]
  split
  · rename_i hj
    obtain ⟨rfl, _⟩ := hj
    exact hx
  · exact CabConfig.refl _

theorem setLine (k : Nat) (x : Line) (hx : LineConfig (s.line k) x) (hp : x.stops.power = (s.line k).stops.power)
    (hs : P s) : P (s.setLine k x) := by
  have e := fun j => s.line_setLine_ite k j x
  simp only [State.line, State.setLine_lines] at e
  refine h.anyLines _ (by simp) (fun j => ?_) (fun j => ?_) hs
  · rw [e]
    split
    · rename_i hj
      obtain ⟨rfl, _⟩ := hj
      exact hx
    · exact LineConfig.refl _
  · rw [e]
    split
    · rename_i hj
      obtain ⟨rfl, _⟩ := hj
      exact hp
    · rfl

theorem mapCabs (f : Cab → Cab) (hf : ∀ c, CabConfig c (f c)) (h0 : f Cab.initial = Cab.initial) (hs : P s) :
    P (s.withCabs (s.cabs.map f)) := by
  refine h.anyCabs _ (by simp) (fun j => ?_) hs
  have e : (s.cabs.map f).getD j Cab.initial = f (s.cab j) := by
    simp only [State.cab, List.getD_eq_getElem?_getD, List.getElem?_map]
    cases s.cabs[j]? <;> simp [h0]
  rw [e]
  exact hf _

theorem mapLines (f : Line → Line) (hf : ∀ c, LineConfig c (f c)) (hp : ∀ c, (f c).stops.power = c.stops.power)
    (hs : P s) : P (s.withLines (s.lines.map f)) := by
  refine h.anyLines _ (by simp) (fun j => ?_) (fun j => ?_) hs <;>
    simp only [State.line, List.getD_eq_getElem?_getD, List.getElem?_map]
  · cases s.lines[j]? with
    | none => simpa using LineConfig.refl _
    | some x => simpa using hf x
  · cases s.lines[j]? with
    | none => rfl
    | some x => simpa using hp x

/-! ### Paging -/

theorem setRate (t : Nat) (r : Rate) (hs : P s) : P (setRate t r s) := by
  unfold Machine.setRate
  split
  · exact hs
  · exact h.anyPaging _ (by constructor <;> first | rfl | simp) hs

theorem countRate (p : Page) (hs : P s) : P (countRate p s) := by
  unfold Machine.countRate
  split
  · exact hs
  · split
    · exact hs
    · dsimp only
      split
      · exact h.setRate _ _ hs
      · split
        · exact h.setRate _ _ hs
        · exact h.setRate _ _ (h.freeCount _ hs)

theorem applyTransmitted (id : Nat) (hs : P s) : P (applyTransmitted id s) := by
  unfold Machine.applyTransmitted
  split
  · exact hs
  · split
    · split
      · exact h.endPage _ _ hs
      · exact h.countRate _ (h.updPage _ _ hs)
    · exact hs

theorem applyAck (id : Nat) (hs : P s) : P (applyAck id s) := by
  unfold Machine.applyAck
  split
  · exact hs
  · split
    · split
      · exact h.endPage _ _ hs
      · exact h.endPage _ _ (h.countRate _ hs)
    · exact h.endPage _ _ hs

theorem returnPage (id : Nat) (hs : P s) : P (returnPage id s) := by
  unfold Machine.returnPage
  split
  · exact hs
  · split
    · exact h.endPage _ _ hs
    · dsimp only
      split
      · exact h.endPage _ _ (h.updPage _ _ hs)
      · exact h.updPage _ _ hs

theorem withBaseFull (b : Bool) (hs : P s) : P (withBaseFull b s) := h.anyPaging _ (by constructor <;> rfl) hs

theorem answerDeliver (id : Nat) (b : Bool) (hs : P s) : P (answerDeliver id b s) := by
  unfold Machine.answerDeliver
  split
  · exact hs
  · split
    · split
      · exact h.updPage _ _ hs
      · exact h.selectPass (h.withBaseFull _ (h.returnPage _ hs))
    · exact hs

theorem missDeliver (id : Nat) (hs : P s) : P (missDeliver id s) := by
  unfold Machine.missDeliver
  split
  · exact hs
  · split
    · exact h.selectPass (h.returnPage _ hs)
    · exact hs

theorem baseLost (hs : P s) : P (baseLost s) :=
  h.selectPass (h.withBaseFull _ (h.removeDelivers
    (Hush.forEach (f := Machine.returnPage) (fun k _ hs => h.returnPage k hs) _ hs)))

theorem setDir (i : Nat) (g : Pager) (hs : P s) : P (setDir i g s) :=
  h.anyPaging _ (by constructor <;> first | rfl | simp) hs

theorem refreshPager (a : Nat) (hs : P s) : P (refreshPager a s) := by
  unfold Machine.refreshPager
  split
  · exact hs
  · exact h.setDir _ _ hs

theorem applyCheckIn (a : Nat) (hs : P s) : P (applyCheckIn a s) := by
  unfold Machine.applyCheckIn
  split
  · split
    · exact h.refreshPager _ hs
    · split
      · exact h.setDir _ _ hs
      · split
        · exact h.setDir _ _ hs
        · split
          · exact hs
          · exact h.anyPaging _ (by constructor <;> rfl) (h.raise _ _ _ _ hs)
  · exact hs

theorem applyBaseReport (r : BaseRep) (hs : P s) : P (applyBaseReport r s) := by
  unfold Machine.applyBaseReport
  dsimp only
  exact h.selectPass (h.withBaseFull _
    (Hush.forEach (f := Machine.applyCheckIn) (fun k _ hs => h.applyCheckIn k hs) _
      (Hush.foldl (f := fun t (x : Nat × Nat) => Machine.refreshPager x.1 (Machine.applyAck x.2 t))
        (fun x _ hs => h.refreshPager _ (h.applyAck _ hs)) _
        (Hush.forEach (f := Machine.applyTransmitted) (fun k _ hs => h.applyTransmitted k hs) _ hs))))

theorem agePagers (age : Option Nat) (hs : P s) : P (agePagers age s) := by
  unfold Machine.agePagers
  split
  · exact hs
  · dsimp only
    split
    · exact h.anyPaging _ (by constructor <;> rfl) (h.anyPaging _ (by constructor <;> first | rfl | simp) hs)
    · exact hs

/-! ### Courses -/

theorem removeBatch (c : Nat) (hs : P s) : P (removeBatch c s) := by
  unfold Machine.removeBatch
  split
  · exact hs
  · exact h.setCab _ _ (by constructor <;> rfl) hs

theorem startBatch (c : Nat) (hs : P s) : P (startBatch c s) := by
  unfold Machine.startBatch
  split
  · exact hs
  · exact h.setCab _ _ (by constructor <;> rfl) hs

theorem enterCourse (c : Nat) (st : CourseState) (hs : P s) : P (enterCourse c st s) :=
  h.raise _ _ _ _ (h.anyCourse _ _ hs)

theorem startPlating (c : Nat) (hs : P s) : P (startPlating c s) := by
  unfold Machine.startPlating
  split
  · exact h.enterCourse _ _ (h.removeBatch _ hs)
  · exact hs

theorem robYoungest (k : Nat) (hs : P s) : P (robYoungest k s) := by
  unfold Machine.robYoungest
  split
  · exact hs
  · exact h.setOwed _ _ (h.dropEarmark _ _ hs)

theorem settleDraw (c k cls free : Nat) (hs : P s) : P (settleDraw c k cls free s) := by
  unfold Machine.settleDraw
  split
  · exact h.dropEarmark _ _ hs
  · split
    · exact h.setOwed _ _ hs
    · split
      · dsimp only
        split
        · exact h.walkOwing _ (h.dropEarmark _ _ hs)
        · exact h.refill _ (h.walkOwing _ (h.robYoungest _ (h.dropEarmark _ _ hs)))
      · exact h.refill _ (h.robYoungest _ (h.setOwed _ _ hs))

theorem singleDraw (k cls : Nat) (o : Option Nat) (hs : P s) : P (singleDraw k cls o s) := by
  have take : ∀ {t : State}, P t → P (t.setCab k { t.cab k with lots := takeLots (t.cab k).lots 1 }) :=
    fun ht => h.setCab _ _ (by constructor <;> rfl) ht
  unfold Machine.singleDraw
  dsimp only
  split
  · rename_i c
    have h1 := h.settleDraw c k cls (s.freePlates k) (h.anyCourse c
      { ((Machine.startPlating c s).setCab k
          { (Machine.startPlating c s).cab k with lots := takeLots ((Machine.startPlating c s).cab k).lots 1 }).course c with
        plated := (((Machine.startPlating c s).setCab k
          { (Machine.startPlating c s).cab k with
            lots := takeLots ((Machine.startPlating c s).cab k).lots 1 }).course c).plated + 1 }
      (take (h.startPlating c hs)))
    refine h.evaluateAll ?_
    split
    · exact h.enterCourse _ _ h1
    · exact h1
  · have h1 := h.house cls 1 (take hs)
    refine h.evaluateAll ?_
    split
    · exact h1
    · exact h.refill _ (h.robYoungest _ h1)

theorem drawPlates (k cls : Nat) : ∀ (n : Nat) (o : Option Nat) {s : State}, P s → P (drawPlates k cls n o s)
  | 0, _, _, hs => hs
  | n + 1, o, s, hs => by
    unfold Machine.drawPlates
    exact drawPlates k cls n _ (h.singleDraw k cls o hs)

theorem fireCourse (c : Nat) (hs : P s) : P (fireCourse c s) := by
  unfold Machine.fireCourse
  dsimp only
  refine h.evaluate _ (h.raise _ _ _ _ (h.takeEarmarks _ (h.startBatch _ (h.anyCourse _ _ ?_))))
  exact h.anyFire _ hs

theorem cancelCourse (c : Nat) (hs : P s) : P (cancelCourse c s) := by
  unfold Machine.cancelCourse
  dsimp only
  refine h.raise _ _ _ _ (h.cancelCoursePages _ _ ?_)
  have h1 := Hush.forEach (f := Machine.walkOwing) (fun k _ hs => h.walkOwing k hs)
    (((Machine.removeBatch c s).earmarks.filter (·.course = c)).map (·.cab))
    (h.anyCourse c { ((Machine.removeBatch c s).withEarmarks
        ((Machine.removeBatch c s).earmarks.filter (·.course ≠ c))).course c with
      state := .cancelled, owed := 0, fireTime := none }
      (h.earmarks ((Machine.removeBatch c s).earmarks.filter (·.course ≠ c)) (h.removeBatch c hs)))
  split
  · exact h1
  · exact h.evaluateAll h1

/-! ### Racks and lines -/

theorem withExits (l : Nat) (x : List Rack) (hs : P s) : P (withExits l x s) := h.setLine _ _ (by constructor <;> rfl) rfl hs
theorem withInside (l : Nat) (x : List Rack) (hs : P s) : P (withInside l x s) := h.setLine _ _ (by constructor <;> rfl) rfl hs
theorem withStaged (l : Nat) (x : List Rack) (hs : P s) : P (withStaged l x s) := h.setLine _ _ (by constructor <;> rfl) rfl hs
theorem withStops (l : Nat) (x : StopSet) (hp : x.power = (s.line l).stops.power) (hs : P s) : P (withStops l x s) :=
  h.setLine _ _ (by constructor <;> rfl) hp hs

theorem holdRack (l : Nat) (r : Rack) (why : HoldReason) (hs : P s) : P (holdRack l r why s) := by
  unfold Machine.holdRack
  dsimp only
  refine h.callClose ?_
  have h1 := h.raise .rackHeld l r.tag why.code (h.plates r.cls .washing .held r.count
    (h.withExits l ((s.line l).exits ++ [{ r with reason := some why }]) hs))
  split
  · exact h.pageDish _ _ _ _ h1
  · exact h.pageDish _ _ _ _ h1

theorem setRunning (l : Nat) (run : Bool) (hs : P s) : P (setRunning l run s) := by
  unfold Machine.setRunning
  dsimp only
  split
  · exact hs
  · exact h.raise _ _ _ _ (h.setLine _ _ (by constructor <;> rfl) rfl hs)

/-! ### Cabinets -/

omit h in
theorem enter_config (c : Cab) (st : CabState) : CabConfig c (c.enter st) := by
  cases st <;> constructor <;> rfl

theorem changeState (k : Nat) (st : CabState) (u : Bool) (hs : P s) : P (changeState k st u s) :=
  h.changeState_of k st u (fun _ => h.setCab _ _ (enter_config _ _) hs) hs

theorem cancelRoutes (k : Nat) (hs : P s) : P (cancelRoutes k s) := by
  unfold Machine.cancelRoutes
  exact Hush.foldl (f := fun t (r : Route) => unrouteRack r.line r.tag t) (fun r _ ht => h.unrouteRack _ _ ht) _
    (h.setCab _ _ (by constructor <;> rfl) hs)

theorem unload (k : Nat) (hs : P s) : P (unload k s) := by
  unfold Machine.unload
  dsimp only
  split
  · exact hs
  · exact h.plates _ _ _ _ (h.setCab _ _ (by constructor <;> rfl) hs)

theorem enterOff (k : Nat) (u : Bool) (hs : P s) : P (enterOff k u s) :=
  h.unload _ (h.cancelRoutes _ (h.setCab _ _ (by constructor <;> rfl) (h.changeState _ _ _ (h.release _ hs))))

theorem enterOffline (k : Nat) (hs : P s) : P (enterOffline k s) :=
  h.setCab _ _ (by constructor <;> rfl)
    (h.cancelRoutes _ (h.changeState _ _ _ (h.clearMeasured _ (h.release _ hs))))

theorem cabLost (k : Nat) (hs : P s) : P (cabLost k s) := by
  unfold Machine.cabLost
  split
  · exact h.setCab _ _ (by constructor <;> rfl) hs
  · exact h.enterOffline _ hs

theorem setOvenFault (k : Nat) (b : Batch) (hs : P s) : P (setOvenFault k b s) := by
  unfold Machine.setOvenFault
  dsimp only
  split
  · exact hs
  · exact h.raise _ _ _ _ (h.anyCourse _ _ hs)

theorem enterFault (k : Nat) (hs : P s) : P (enterFault k s) := by
  unfold Machine.enterFault
  dsimp only
  exact h.pageKitchen _ _ _ _
    (Hush.foldl (f := fun t b => Machine.setOvenFault k b t) (fun b _ ht => h.setOvenFault k b ht) _
      (h.cancelRoutes _ (h.changeState _ _ _ (h.release _ (h.setCab _ _ (by constructor <;> rfl) hs)))))

theorem enterSleep (k : Nat) (hs : P s) : P (enterSleep k s) := h.changeState _ _ _ (h.lowerTo _ _ hs)

theorem switchOff (k : Nat) (u : Bool) (hs : P s) : P (switchOff k u s) := by
  unfold Machine.switchOff
  dsimp only
  split
  · exact h.enterOff _ _ (h.setCab _ _ (by constructor <;> rfl) hs)
  · exact h.setCab _ _ (by constructor <;> rfl) hs

theorem switchOn (k : Nat) (hs : P s) : P (switchOn k s) := by
  unfold Machine.switchOn
  dsimp only
  split
  · exact h.requestHeat _ hs
  · exact hs

theorem judgeNow (k : Nat) (hs : P s) : P (judgeNow k s) := by
  unfold Machine.judgeNow
  dsimp only
  split
  · split
    · exact h.changeState _ _ _ (h.lowerTo _ _ hs)
    · exact hs
  · split
    · exact h.requestHeat _ hs
    · exact hs
  · exact hs

theorem judgeReport (k : Nat) (hs : P s) : P (judgeReport k s) := by
  unfold Machine.judgeReport
  dsimp only
  split
  · split
    · exact h.changeState _ _ _ (h.lowerTo _ _ hs)
    · exact hs
  · exact h.judgeNow _ hs

theorem applySetpoint (k : Nat) (t : Int) (b : Nat) (hs : P s) : P (applySetpoint k t b s) :=
  h.judgeNow _ (h.claimCab _ _ (h.setCab _ _ (by constructor <;> rfl) hs))

theorem latch (k : Nat) (set : CondSet) (hs : P s) : P (latch k set s) := by
  unfold Machine.latch
  dsimp only
  split
  · exact hs
  · split
    · exact h.setCab _ _ (by constructor <;> rfl) hs
    · exact h.raise _ _ _ _ (h.setCab _ _ (by constructor <;> rfl) hs)

theorem startConfirm (k : Nat) (hs : P s) : P (startConfirm k s) := by
  unfold Machine.startConfirm
  split
  · exact hs
  · split
    · exact hs
    · exact h.confirm _ _ hs

theorem applyConditions (k : Nat) (set : CondSet) (hs : P s) : P (applyConditions k set s) := by
  have h1 := h.latch k set hs
  have h2 : ∀ {t : State} (q : Prop) [Decidable q], P t → P (if q then Machine.enterFault k t else t) := by
    intro t q _ ht
    split
    · exact h.enterFault _ ht
    · exact ht
  have h3 : ∀ {t : State} (q : Prop) [Decidable q], P t → P (if q then Machine.startConfirm k t else t) := by
    intro t q _ ht
    split
    · exact h.startConfirm _ ht
    · exact ht
  unfold Machine.applyConditions
  extract_lets old s1 newFault s2 s3 c
  have h4 : P s3 := h3 _ (h2 _ h1)
  split
  · exact h.setCab _ _ (by constructor <;> rfl) h4
  · split
    · exact h.setCab _ _ (by constructor <;> rfl) h4
    · exact h4

theorem cancelRoute (k : Nat) (r : Route) (hs : P s) : P (cancelRoute k r s) := h.unrouteRack _ _ (h.dropRoute _ _ _ hs)

theorem settleRoute (k : Nat) (a b : Route) (hs : P s) : P (settleRoute k a b s) := by
  have h1 : P (if b.loaded = a.loaded then s else loadRack b.line b.tag (b.loaded - a.loaded) s) := by
    split
    · exact hs
    · exact h.loadRack _ _ _ hs
  unfold Machine.settleRoute
  extract_lets s1
  split
  · exact h.leaveExit _ _ _ (h.dropRoute _ _ _ h1)
  · exact h1

theorem mismatch (k a b : Nat) (hs : P s) : P (mismatch k a b s) := h.raise _ _ _ _ hs

omit h in
theorem addLot_config (c : Cab) (n now : Nat) : CabConfig c (c.addLot n now) := by
  unfold Cab.addLot
  dsimp only
  split
  · constructor <;> rfl
  · split <;> constructor <;> rfl

theorem loadPlates (k n : Nat) (hs : P s) : P (loadPlates k n s) := by
  unfold Machine.loadPlates
  extract_lets c routed rest filled used excess gone s1 kept room taken s2 claim
  have h1 : P s1 := Hush.foldl (f := fun t r => Machine.cancelRoute k r t) (fun r _ ht => h.cancelRoute k r ht) _ hs
  have h2 : P s2 := by
    show P (if taken < rest then _ else _)
    split
    · exact h.mismatch _ _ _ h1
    · exact h1
  split
  · exact h2
  · rename_i cls _
    extract_lets applied s3 s4 after src s5 s6 s7
    have h3 : P s3 := h.plates _ _ _ _ h2
    have h4 : P s4 := by
      show P (if applied < claim then _ else _)
      split
      · exact h.mismatch _ _ _ h3
      · exact h3
    split
    · exact h4
    · have h5 : P s5 := by
        refine h.setCab k _ ?_ h4
        have g := addLot_config (s4.cab k) applied s4.now
        exact ⟨g.kind, g.addr, g.heat, g.hold, g.standby, g.idle, g.cls, g.capacity, g.shelves, g.temp, g.level, g.draw⟩
      have h6 : P s6 := by
        show P (if (s5.cab k).state = .sleep then _ else _)
        split
        · exact h.requestHeat _ h5
        · exact h5
      exact h.callRoutes (Hush.foldl (f := fun t (x : Route × Route) => Machine.settleRoute k x.1 x.2 t)
        (fun x _ ht => h.settleRoute k x.1 x.2 ht) _ (h.evaluateAll (h.walkOwing _ h6)))

theorem applyLoad (k n : Nat) (hs : P s) : P (applyLoad k n s) := by
  unfold Machine.applyLoad
  split
  · exact hs
  · split
    · exact h.mismatch _ _ _ hs
    · exact h.loadPlates _ _ hs

theorem applyDraw (k n : Nat) (hs : P s) : P (applyDraw k n s) := by
  unfold Machine.applyDraw
  split
  · exact hs
  · extract_lets lots s1
    have h1 : P s1 := by
      show P (if lots < n then _ else _)
      split
      · exact h.mismatch _ _ _ hs
      · exact hs
    split
    · exact h1
    · extract_lets m
      split
      · exact h1
      · exact h.callRoutes (h.drawPlates _ _ _ _ (h.plates _ _ _ _ h1))

/-! ### Power -/

theorem setConsumer (c : Nat) (x : Consumer) (hs : P s) : P (s.setConsumer c x) := h.toQuiet.setConsumer c x hs

theorem shedOne (c why : Nat) (hs : P s) : P (shedOne c why s) := by
  unfold Machine.shedOne
  extract_lets x lv s1 s2
  have h1 : P s1 := h.setConsumer _ _ hs
  refine h.raise _ _ _ _ ?_
  show P (if c < 24 then _ else _)
  split
  · exact h.changeState _ _ _ h1
  · exact h1

theorem shedCheck (hs : P s) : P (shedCheck s) := by
  unfold Machine.shedCheck
  split
  · split
    · exact h.withSettle _ (h.shedOne _ _ hs)
    · split
      · exact hs
      · exact h.raise _ _ _ _ (h.anyPower _ (by constructor <;> rfl) (fun _ => ⟨rfl, rfl⟩) hs)
  · exact hs

theorem revoke : ∀ (k n : Nat) {s : State}, P s → P (revoke k n s).1
  | 0, _, _, hs => hs
  | k + 1, n, s, hs => by
    unfold Machine.revoke
    split
    · split
      · exact hs
      · exact revoke k (n + 1) (h.shedOne _ _ hs)
    · exact hs

theorem addMeter (m e : Nat) (hs : P s) : P (addMeter m e s) := by
  have h1 : ∀ x : Meter, P (s.setMeter m x) := fun x =>
    h.anyPower _ (by constructor <;> first | rfl | simp) (fun _ => ⟨rfl, rfl⟩) hs
  unfold Machine.addMeter
  dsimp only
  split
  · exact h.raise _ _ _ _ (h1 _)
  · exact h1 _

theorem powerReport (c d : Nat) (hs : P s) : P (powerReport c d s) := by
  unfold Machine.powerReport
  extract_lets e s1 src s2 s3
  have h2 : P s2 := h.setConsumer _ _ (h.addMeter _ _ (h.addMeter _ _ hs))
  refine h.restoreCheck (h.shedCheck ?_)
  show P (if s2.measuredTotal ≤ s2.power.shedHigh then _ else _)
  split
  · exact h.anyPower _ (by constructor <;> rfl) (fun _ => ⟨rfl, rfl⟩) h2
  · exact h2

/-- One consumer at lockout entry. -/
theorem clearConsumers (l : List Nat) (hs : P s) :
    P (Machine.forEach l (fun c t =>
      t.setConsumer c { t.consumer c with grant := 0, request := 0, mark := false, reqTime := none }) s) :=
  Hush.forEach (fun _ _ ht => h.setConsumer _ _ ht) l hs

theorem clearSettle (hs : P s) : P (s.withPower { s.power with settle := none, unresolved := false }) :=
  h.anyPower _ (by constructor <;> rfl) (fun _ => ⟨rfl, rfl⟩) hs

theorem powerLockout (hs : P s) : P (powerLockout s) := h.clearSettle (h.clearConsumers (List.range 26) hs)

/-! ### Rack events -/

theorem enterEvent (l tag : Nat) (hs : P s) : P (enterEvent l tag s) := by
  unfold Machine.enterEvent
  dsimp only
  split
  · exact h.raise _ _ _ _ hs
  · exact h.setLine _ _ (by constructor <;> rfl) rfl hs

theorem exitEvent (l tag : Nat) (t : Int) (hs : P s) : P (exitEvent l tag t s) := by
  unfold Machine.exitEvent
  dsimp only
  split
  · exact h.raise _ _ _ _ hs
  · rename_i r _
    have h1 := Hush.foldl (f := fun t y => Machine.holdRack l y .skipped t) (fun y _ ht => h.holdRack l y _ ht)
      ((s.line l).inside.takeWhile (·.tag ≠ tag))
      (h.withInside l ((s.line l).inside.filter fun y =>
        y.tag ≠ tag ∧ y ∉ (s.line l).inside.takeWhile (·.tag ≠ tag)) hs)
    split
    · exact h.backpressure _ (h.holdRack _ _ _ h1)
    · exact h.routingPass _ (h.backpressure _ (h.callClose (h.plates _ _ _ _ (h.withExits _ _ h1))))

theorem applyEvent (l : Nat) (e : RackEvent) (hs : P s) : P (applyEvent l e s) := by
  have h1 : P (s.setLine l { s.line l with lastEvent := some (RackEvent.seq e) }) :=
    h.setLine _ _ (by constructor <;> rfl) rfl hs
  unfold Machine.applyEvent
  dsimp only
  split
  · exact h.enterEvent _ _ h1
  · exact h.exitEvent _ _ _ h1

theorem windowEvent (l : Nat) (e : RackEvent) (hs : P s) : P (windowEvent l e s) := by
  unfold Machine.windowEvent
  split
  · exact h.applyEvent _ _ hs
  · dsimp only
    split
    · refine h.applyEvent _ _ ?_
      split
      · exact h.raise _ _ _ _ hs
      · exact hs
    · exact hs

theorem applyEvents (l : Nat) (es : List RackEvent) (hs : P s) : P (applyEvents l es s) := by
  unfold Machine.applyEvents
  split
  · exact Hush.foldl (f := fun t e => Machine.applyEvent l e t) (fun e _ ht => h.applyEvent l e ht) _ hs
  · exact Hush.foldl (f := fun t e => Machine.windowEvent l e t) (fun e _ ht => h.windowEvent l e ht) _ hs

theorem applyRinse (l : Nat) (t : Int) (hs : P s) : P (applyRinse l t s) := by
  have h1 : P (s.setLine l { s.line l with rinse := t }) := h.setLine _ _ (by constructor <;> rfl) rfl hs
  unfold Machine.applyRinse
  dsimp only
  split
  · exact h.setLine _ _ (by constructor <;> rfl) rfl h1
  · split
    · exact h.raise _ _ _ _ (h.setLine _ _ (by constructor <;> rfl) rfl h1)
    · exact h1

theorem transitHold (l : Nat) (r : Rack) (hs : P s) : P (transitHold l r s) :=
  h.backpressure _ (h.holdRack _ _ _ (h.withInside _ _ hs))

theorem lineLost (l : Nat) (hs : P s) : P (lineLost l s) := h.clearMeasured _ (h.setRunning _ _ hs)

theorem lineJoined (l : Nat) (hs : P s) : P (lineJoined l s) :=
  h.claimSet _ _ _ _ (h.setLine _ _ (by constructor <;> rfl) rfl hs)

theorem removeStaged (l : Nat) (hs : P s) : P (removeStaged l s) := by
  unfold Machine.removeStaged
  exact Hush.foldl
    (f := fun t (r : Rack) => Machine.raise .rackLeft l r.tag leftClosed (Machine.transfer r.cls .washing .soiled r.count t))
    (fun r _ ht => h.raise _ _ _ _ (h.plates _ _ _ _ ht)) _ (h.withStaged _ _ hs)

/-! ### Hold and lockout -/

theorem endHold (k : Option NoticeKind) (d : Nat) (hs : P s) : P (endHold k d s) := by
  unfold Machine.endHold
  dsimp only
  split
  · exact h.noHold (h.raiseTo _ _ _ _ _ hs)
  · exact h.noHold hs

theorem lockoutCab (k : Nat) (hs : P s) : P (lockoutCab k s) := h.claimCab _ _ (h.switchOff _ _ hs)

theorem lockoutLine (l : Nat) (hs : P s) : P (lockoutLine l s) :=
  h.conveyorSync _ _ (h.boosterSync _ (h.withStops _ _ rfl hs))

theorem lockoutPage (hs : P s) : P (lockoutPage s) := h.claimPage _ _ _ _ _ (h.freeCount _ hs)

/-! ### Nodes -/

theorem tellBack (b : Binding) (hs : P s) : P (tellBack b s) := by
  unfold Machine.tellBack
  split
  · exact h.setCab _ _ (by constructor <;> rfl) hs
  · exact h.selectPass hs
  · exact hs

theorem tellSilent (b : Binding) (hs : P s) : P (tellSilent b s) := by
  unfold Machine.tellSilent
  split
  · exact h.setCab _ _ (by constructor <;> rfl) hs
  · exact hs

theorem tellLost (b : Binding) (hs : P s) : P (tellLost b s) := by
  unfold Machine.tellLost
  split
  · exact h.cabLost _ hs
  · exact h.lineLost _ hs
  · exact h.baseLost hs
  · exact hs

theorem cabJoined (k : Nat) (hs : P s) : P (cabJoined k s) := by
  unfold Machine.cabJoined
  extract_lets src s1
  have h1 : P s1 := h.setCab _ _ (by constructor <;> rfl) hs
  split
  · exact h.claimCab _ _ (h.setConsumer _ _ h1)
  · split
    · exact h.requestHeat _ h1
    · exact h.enterOff _ _ h1
  · exact h1

theorem tellJoined (b : Binding) (hs : P s) : P (tellJoined b s) := by
  unfold Machine.tellJoined
  split
  · exact h.cabJoined _ hs
  · exact h.lineJoined _ hs
  · exact h.selectPass hs
  · exact hs

theorem bandTest (k : Nat) (hs : P s) : P (bandTest k s) := by
  unfold Machine.bandTest
  dsimp only
  split
  · split
    · exact h.evaluateAll (h.setCab _ _ (by constructor <;> rfl) hs)
    · split
      · exact h.setCab _ _ (by constructor <;> rfl) hs
      · exact hs
  · exact hs

theorem confirmLevel (k : Nat) (b : Bool) (m : ElementMode) (hs : P s) : P (confirmLevel k b m s) := by
  unfold Machine.confirmLevel
  split
  · exact h.confirm _ _ hs
  · exact hs

theorem applyWasherReport (l : Nat) (r : WasherRep) (hs : P s) : P (applyWasherReport l r s) :=
  h.conveyorSync _ _ (h.powerReport _ _ (h.powerTry (h.setRunning _ _
    (h.conveyorSync _ _ (h.applyEvents _ _ (h.applyRinse _ _ hs))))))

theorem reconcile (a : Nat) (b : RespBody) (hs : P s) : P (reconcile a b s) := by
  unfold Machine.reconcile
  extract_lets n differs
  split
  · exact h.queueSet _ _ hs
  · exact hs

/-! ### The rows of the bus -/

theorem reachMs (t : Nat) (hs : P s) : P (reachMs t s) := h.clocks s.day.clock (max s.day.ms t) s.day.secMs hs

/-! ### The rows of time -/

theorem settleTimerExpiry (hs : P s) : P (settleTimerExpiry s) := by
  unfold Machine.settleTimerExpiry
  split
  · exact h.finish (h.powerTry (h.callRestore (h.shedCheck (h.withSettle _ hs))))
  · exact hs

theorem holdTimerExpiry (hs : P s) : P (holdTimerExpiry s) := by
  unfold Machine.holdTimerExpiry
  split
  · exact hs
  · exact h.endHold _ _ (h.reachMs _ hs)

omit h in
theorem second_config (c : Cab) : CabConfig c c.second := by constructor <;> rfl

theorem plannedFire (c : Nat) (hs : P s) : P (plannedFire c s) := by
  unfold Machine.plannedFire
  dsimp only
  split
  · exact hs
  · split
    · exact hs
    · split
      · exact h.finish (h.fireCourse _ hs)
      · exact h.raise _ _ _ _ (h.anyCourse _ _ hs)

theorem cookTimeComplete (c : Nat) (hs : P s) : P (cookTimeComplete c s) := by
  unfold Machine.cookTimeComplete
  split
  · exact hs
  · exact h.finish (h.evaluateAll (h.raise _ _ _ _ (h.setCab _ _ (by constructor <;> rfl) hs)))

theorem overHoldLimit (c : Nat) (hs : P s) : P (overHoldLimit c s) := by
  unfold Machine.overHoldLimit
  split
  · exact h.finish (h.pageKitchen _ _ _ _ (h.anyCourse _ _ hs))
  · exact hs

theorem lotWarm (k : Nat) (hs : P s) : P (lotWarm k s) := by
  unfold Machine.lotWarm
  split
  · exact h.finish (h.evaluateAll hs)
  · exact hs

theorem outOfBandExpiry (k : Nat) (hs : P s) : P (outOfBandExpiry k s) := by
  unfold Machine.outOfBandExpiry
  dsimp only
  split
  · exact h.finish (h.evaluateAll (h.setCab _ _ (by constructor <;> rfl) hs))
  · exact hs

theorem sleepTimerExpiry (k : Nat) (hs : P s) : P (sleepTimerExpiry k s) := by
  unfold Machine.sleepTimerExpiry
  dsimp only
  split
  · exact h.finish (h.enterSleep _ hs)
  · exact hs

theorem doorTimerExpiry (k : Nat) (hs : P s) : P (doorTimerExpiry k s) := by
  unfold Machine.doorTimerExpiry
  dsimp only
  split
  · exact h.finish (h.pageKitchen _ _ _ _ (h.setCab _ _ (by constructor <;> rfl) hs))
  · exact hs

theorem transitExpiry (l tag : Nat) (hs : P s) : P (transitExpiry l tag s) := by
  unfold Machine.transitExpiry
  split
  · exact hs
  · split
    · exact h.finish (h.transitHold _ _ hs)
    · exact hs

theorem routeTimeout (l tag : Nat) (hs : P s) : P (routeTimeout l tag s) := by
  unfold Machine.routeTimeout
  split
  · exact hs
  · exact h.finish (h.unrouteRack _ _ (h.raise _ _ _ _ (h.dropRoute _ _ _ hs)))

theorem rushTimerEnd (t : Nat) (hs : P s) : P (rushTimerEnd t s) := by
  unfold Machine.rushTimerEnd
  split
  · exact h.finish (h.selectPass (h.setRush _ _ hs))
  · exact hs

theorem rateWindowClose (t : Nat) (hs : P s) : P (rateWindowClose t s) := by
  unfold Machine.rateWindowClose
  split
  · exact h.finish (h.selectPass (h.setRate _ _ hs))
  · exact hs

theorem resendDue (g : Page) (hs : P s) : P (resendDue g s) := by
  unfold Machine.resendDue
  refine h.selectPass ?_
  split
  · exact h.updPage _ _ hs
  · exact h.endPage _ _ hs

theorem resendTimerExpiry (id : Nat) (hs : P s) : P (resendTimerExpiry id s) := by
  unfold Machine.resendTimerExpiry
  split
  · exact hs
  · split
    · exact h.finish (h.resendDue _ hs)
    · exact hs

theorem pageLifetimeExpiry (id : Nat) (hs : P s) : P (pageLifetimeExpiry id s) := by
  unfold Machine.pageLifetimeExpiry
  split
  · exact hs
  · split
    · exact h.finish (h.selectPass (h.endPage _ _ hs))
    · exact hs

end Work

namespace Calm

variable (h : Calm P)
include h

/-! ### Entries of the tables -/

theorem setNode (a : Nat) (x : Node) (hs : P s) : P (s.setNode a x) := h.anyBus _ (by simp) hs

/-! ### The bus -/

theorem setFetchAhead (a : Nat) (hs : P s) : P (setFetchAhead a s) := by
  unfold Machine.setFetchAhead
  dsimp only
  split
  · exact h.setNode _ _ hs
  · exact h.anyBus _ rfl (h.setNode _ _ hs)

theorem discoveryStep (hs : P s) : P (discoveryStep s) := by
  unfold Machine.discoveryStep
  split
  · exact hs
  · exact h.queueOrdinary _ (h.anyBus _ rfl hs)

/-! ### Nodes -/

theorem bindNode (a : Nat) (hs : P s) : P (bindNode a s) := by
  unfold Machine.bindNode
  extract_lets n b s1
  have h1 : P s1 := by
    show P (if b = .unbound then _ else _)
    split
    · exact h.removeSet _ (h.setNode _ _ hs)
    · exact h.setNode _ _ hs
  split
  · exact h.raise _ _ _ _ h1
  · exact h1

theorem renamed (a : Option Nat) (hs : P s) : P (renamed a s) := by
  unfold Machine.renamed
  split
  · exact hs
  · split
    · exact h.bindNode _ hs
    · exact hs

theorem answered (a : Nat) (hs : P s) : P (answered a s) := by
  unfold Machine.answered
  dsimp only
  split
  · exact h.tellBack _ (h.setNode _ _ hs)
  · exact h.setNode _ _ hs

theorem goSilent (a : Nat) (hs : P s) : P (goSilent a s) := h.tellSilent _ (h.raise _ _ _ _ (h.setNode _ _ hs))

theorem goLost (a : Nat) (hs : P s) : P (goLost a s) :=
  h.tellLost _ (h.raise _ _ _ _ (h.removeNodeTx _ (h.setNode _ _ hs)))

theorem joinNode (a : Nat) (t : NodeType) (n : Nat) (hs : P s) : P (joinNode a t n s) := by
  unfold Machine.joinNode
  dsimp only
  exact h.restartPoll _ (h.queuePoll _ (h.setNode _ _ (h.tellJoined _ (h.bindNode _ (h.raise _ _ _ _ (h.setNode _ _ hs))))))

theorem applyIdent (a : Nat) (t : NodeType) (n : Nat) (hs : P s) : P (applyIdent a t n s) := by
  unfold Machine.applyIdent
  dsimp only
  split
  · split
    · exact h.answered _ hs
    · exact h.joinNode _ _ _ (h.goLost _ hs)
  · exact h.joinNode _ _ _ hs

theorem applyCounters (a k : Nat) (c : Option (Nat × Nat)) (hs : P s) : P (applyCounters a k c s) := by
  unfold Machine.applyCounters
  split
  · exact hs
  · exact h.applyDraw _ _ (h.applyLoad _ _ (h.setNode _ _ hs))

theorem applyCabinetReport (a k : Nat) (r : CabinetRep) (hs : P s) : P (applyCabinetReport a k r s) := by
  unfold Machine.applyCabinetReport
  extract_lets running src s1 s2 s3 s4 s5
  have h1 : P s1 := h.measured _ _ _ _ hs
  have h3 : P s3 := h.confirmLevel _ _ _ (h.applyConditions _ _ (h.applyCounters _ _ _ (h.bandTest _ h1)))
  have h4 : P s4 := by
    show P (if (s3.cab k).state = .fault then _ else _)
    split
    · exact h3
    · exact h.judgeReport _ h3
  have h5 : P s5 := by
    show P (if (s4.cab k).isOven = true then _ else _)
    split
    · exact h.setCab _ _ (refreshBatches_config _) h4
    · exact h4
  exact h.powerReport _ _ (h.powerTry h5)

theorem applyBody (f : InFlight) (a : Nat) (b : RespBody) (hs : P s) : P (applyBody f a b s) := by
  unfold Machine.applyBody
  split
  · exact h.applyIdent _ _ _ hs
  · exact h.applyCabinetReport _ _ _ hs
  · exact h.applyWasherReport _ _ hs
  · exact h.applyBaseReport _ hs
  · split
    · split
      · exact hs
      · exact h.answerDeliver _ _ hs
    · exact hs
  · exact hs

theorem applyResponse (f : InFlight) (a : Nat) (b : RespBody) (u : Bool) (hs : P s) : P (applyResponse f a b u s) := by
  unfold Machine.applyResponse
  extract_lets ident s1 s2 s3 s4
  split
  · exact hs
  · have h1 : P s1 := by
      show P (if ident = true then _ else _)
      split
      · exact hs
      · exact h.answered _ hs
    have h2 : P s2 := h.reconcile _ _ (h.applyBody _ _ _ h1)
    have h3 : P s3 := by
      show P (if u = true then _ else _)
      split
      · exact h.setFetchAhead _ h2
      · exact h2
    split
    · refine h.restartPoll _ (h.refreshPoll _ ?_)
      show P (if u = true then _ else _)
      split
      · exact h3
      · exact h.setNode _ _ h3
    · exact h3

theorem endTx (hs : P s) : P (endTx s) := h.anyBus _ rfl hs

theorem countMiss (a : Nat) (hs : P s) : P (countMiss a s) := by
  unfold Machine.countMiss
  dsimp only
  split
  · exact h.goSilent _ (h.setNode _ _ hs)
  · exact h.setNode _ _ hs

theorem missTx (f : InFlight) (hs : P s) : P (missTx f s) := by
  unfold Machine.missTx
  split
  · exact h.restartPoll _ (h.refreshPoll _ (h.setNode _ _ (h.countMiss _ hs)))
  · exact h.countMiss _ hs
  · dsimp only
    split
    · exact h.countMiss _ hs
    · exact h.missDeliver _ (h.countMiss _ hs)
  · split
    · exact h.countMiss _ hs
    · exact hs

theorem failAttempt (f : InFlight) (hs : P s) : P (failAttempt f s) := by
  unfold Machine.failAttempt
  split
  · exact h.anyBus _ rfl hs
  · exact h.missTx _ (h.endTx hs)

theorem receive (a : Nat) (b : RespBody) (u : Bool) (hs : P s) : P (receive a b u s) := by
  unfold Machine.receive
  split
  · exact hs
  · refine h.finish ?_
    split
    · exact h.applyResponse _ _ _ _ (h.endTx hs)
    · exact h.failAttempt _ hs

theorem transmit (t : Tx) (hs : P s) : P (transmit t s) := by
  have h1 : P (s.withBus { s.bus with btx := busFrame t.addr t.kind (s.payload t) }) := h.anyBus _ rfl hs
  unfold Machine.transmit
  dsimp only
  split
  · split
    · exact h.setNode _ _ h1
    · exact h1
  · exact h1

theorem sendTx (t : Tx) (u : Bool) (hs : P s) : P (sendTx t u s) := h.transmit _ (h.anyBus _ rfl hs)

theorem sendNext (hs : P s) : P (sendNext s) := by
  unfold Machine.sendNext
  split
  · exact h.sendTx _ _ (h.anyBus _ rfl hs)
  · exact h.sendTx _ _ (h.anyBus _ rfl hs)
  · exact h.sendTx _ _ (h.anyBus _ rfl hs)
  · exact hs

/-! ### The rows of the bus -/

theorem receiveBytes (l : List Byte) (hs : P s) : P (receiveBytes l s) := by
  unfold Machine.receiveBytes
  split
  · exact hs
  · split
    · exact h.finish (h.failAttempt _ hs)
    · exact h.receive _ _ _ hs

theorem responseTimeout (hs : P s) : P (responseTimeout s) := by
  unfold Machine.responseTimeout
  split
  · exact hs
  · exact h.finish (h.failAttempt _ hs)

theorem transactionSend (hs : P s) : P (transactionSend s) := by
  unfold Machine.transactionSend
  split
  · exact h.sendNext hs
  · exact hs

theorem busGuardEnd (hs : P s) : P (busGuardEnd s) := by
  unfold Machine.busGuardEnd
  split
  · dsimp only
    split
    · exact h.anyBus _ rfl hs
    · exact h.transmit _ (h.anyBus _ rfl hs)
  · exact hs

theorem abandonGuardEnd (hs : P s) : P (abandonGuardEnd s) := by
  unfold Machine.abandonGuardEnd
  split
  · dsimp only
    split
    · exact h.anyBus _ rfl hs
    · exact h.sendNext (h.anyBus _ rfl hs)
  · exact hs

theorem pollTimerExpiry (a : Nat) (hs : P s) : P (pollTimerExpiry a s) := by
  unfold Machine.pollTimerExpiry
  split
  · exact hs
  · rename_i e _
    have h1 := h.reachMs e (h.setNode a { s.node a with pollEnd := none } hs)
    dsimp only
    split
    · exact h1
    · exact h.queuePoll _ h1

theorem discoveryTimerExpiry (hs : P s) : P (discoveryTimerExpiry s) := by
  unfold Machine.discoveryTimerExpiry
  split
  · dsimp only
    split
    · exact h.discoveryStep (h.anyBus _ rfl hs)
    · exact h.anyBus _ rfl hs
  · exact hs

theorem openingDiscovery (hs : P s) : P (openingDiscovery s) := by
  unfold Machine.openingDiscovery
  split
  · exact h.discoveryStep hs
  · exact hs

theorem silenceTimerExpiry (a : Nat) (hs : P s) : P (silenceTimerExpiry a s) := by
  unfold Machine.silenceTimerExpiry
  split
  · exact h.finish (h.goLost _ hs)
  · exact hs

/-! ### The rows of time -/

theorem serviceSecond (hs : P s) : P (serviceSecond s) := by
  unfold Machine.serviceSecond
  dsimp only
  have h1 : P (clockSecond s) := h.clocks _ _ _ hs
  have h2 : P ((clockSecond s).withCabs (s.cabs.map Cab.second)) :=
    h.mapCabs (s := clockSecond s) Cab.second Work.second_config rfl h1
  exact h.anyPaging _ (by constructor <;> rfl) (h.anyBus _ (by simp) (h.withSettle _
    (h.mapLines Line.second (fun c => by constructor <;> rfl) (fun _ => rfl) h2)))

end Calm

namespace Wide

variable (h : Wide P)
include h

/-! ### Lockout entry -/

theorem enterLockout (c : Nat) (hn : s.day.state ≠ .lockout) (hs : P s) : P (enterLockout c s) := by
  unfold Machine.enterLockout
  dsimp only
  exact h.raise _ _ _ _ (h.lockoutPage (h.lockoutLine 1 (h.lockoutLine 0
    (Hush.forEach (f := Machine.lockoutCab) (fun k _ ht => h.lockoutCab k ht) _
      (h.releaseAllEarmarks (h.powerLockout (h.endHold _ _ (h.matchDiscovery (h.lockout c hn hs)))))))))

theorem confirmTimerExpiry (k : Nat) (hs : P s) : P (confirmTimerExpiry k s) := by
  unfold Machine.confirmTimerExpiry
  split
  · exact hs
  · split
    · exact hs
    · rename_i hn
      exact h.finish (h.enterLockout k hn (h.reachMs _ hs))

end Wide

end Sys2Proof.Machine
end

