-- ==== Sys2Proof/Laws/Ground.lean ====
section
/-! SUPPORT. `Ground` is kept by the changes of `Work`: what one event or one command of the blocks behind the service bus
leaves as it was. -/

namespace Sys2Proof.Machine

theorem CabSettings.trans {a b c : Cab} (h : CabSettings a b) (g : CabSettings b c) : CabSettings a c :=
  ⟨g.kind.trans h.kind, g.addr.trans h.addr, g.heat.trans h.heat, g.hold.trans h.hold, g.standby.trans h.standby,
    g.idle.trans h.idle, g.cls.trans h.cls, g.capacity.trans h.capacity, g.shelves.trans h.shelves⟩

theorem CabConfig.toCabSettings {a b : Cab} (h : CabConfig a b) : CabSettings a b :=
  ⟨h.kind, h.addr, h.heat, h.hold, h.standby, h.idle, h.cls, h.capacity, h.shelves⟩

theorem CabConfig.trans {a b c : Cab} (h : CabConfig a b) (g : CabConfig b c) : CabConfig a c :=
  ⟨g.kind.trans h.kind, g.addr.trans h.addr, g.heat.trans h.heat, g.hold.trans h.hold, g.standby.trans h.standby,
    g.idle.trans h.idle, g.cls.trans h.cls, g.capacity.trans h.capacity, g.shelves.trans h.shelves, g.temp.trans h.temp, g.level.trans h.level, g.draw.trans h.draw⟩

theorem LineConfig.trans {a b c : Line} (h : LineConfig a b) (g : LineConfig b c) : LineConfig a c :=
  ⟨g.addr.trans h.addr, g.defFn.trans h.defFn, g.strict.trans h.strict, g.sanMin.trans h.sanMin, g.high.trans h.high,
    g.low.trans h.low, g.transitLimit.trans h.transitLimit, g.routeTimeout.trans h.routeTimeout,
    g.booster.trans h.booster⟩

theorem PowerConfig.trans {a b c : Power} (h : PowerConfig a b) (g : PowerConfig b c) : PowerConfig a c :=
  ⟨g.budget.trans h.budget, g.shedHigh.trans h.shedHigh, g.shedLow.trans h.shedLow, g.saturate.trans h.saturate,
    g.nearestEven.trans h.nearestEven, g.protected0.trans h.protected0, g.protected1.trans h.protected1,
    g.consumers.trans h.consumers, g.meters.trans h.meters⟩

theorem PagingConfig.trans {a b c : Paging} (h : PagingConfig a b) (g : PagingConfig b c) : PagingConfig a c :=
  ⟨g.settings.trans h.settings, g.dir.trans h.dir, g.rush.trans h.rush, g.rates.trans h.rates⟩

theorem CabKeeps.config {a b : Cab} (h : CabKeeps a b) : CabConfig a b :=
  ⟨h.kind, h.addr, h.heat, h.hold, h.standby, h.idle, h.cls, h.capacity, h.shelves, h.temp, h.level, h.draw⟩

theorem LineKeeps.config {a b : Line} (h : LineKeeps a b) : LineConfig a b :=
  ⟨h.addr, h.defFn, h.strict, h.sanMin, h.high, h.low, h.transitLimit, h.routeTimeout, h.booster⟩

theorem PowerKeeps.config {a b : Power} (h : PowerKeeps a b) : PowerConfig a b :=
  ⟨h.budget, h.shedHigh, h.shedLow, h.saturate, h.nearestEven, h.protected0, h.protected1, h.length,
    congrArg _ h.meters⟩

theorem PagingKeeps.config {a b : Paging} (h : PagingKeeps a b) : PagingConfig a b :=
  ⟨h.settings, congrArg _ h.dir, h.length, congrArg _ h.rates⟩

theorem Ground.refl (s : State) : Ground s s :=
  ⟨rfl, fun _ => PortKeeps.refl _, .inl rfl, ⟨rfl, rfl, rfl, rfl⟩, fun _ => ⟨rfl, rfl⟩, id, fun _ => rfl,
    fun _ => CabSettings.refl _, fun _ => LineConfig.refl _, (PowerKeeps.refl _).config, (PagingKeeps.refl _).config, id⟩

theorem Ware.move_dwell (w : Ware) (a b : Place) (n : Nat) : (w.move a b n).dwell = w.dwell := by
  cases a <;> cases b <;> rfl

theorem transfer_ware (c : Nat) (a b : Place) (n : Nat) (s : State) (j : Nat) :
    ((transfer c a b n s).ware j).dwell = (s.ware j).dwell ∧ ((transfer c a b n s).ware j).stock = (s.ware j).stock := by
  unfold transfer
  rw [State.ware_setWare_ite]
  split
  · rename_i h
    obtain ⟨rfl, _⟩ := h
    exact ⟨Ware.move_dwell _ _ _ _, Ware.move_stock _ _ _ _⟩
  · exact ⟨rfl, rfl⟩

theorem addHouse_ware (c n : Nat) (s : State) (j : Nat) :
    ((addHouse c n s).ware j).dwell = (s.ware j).dwell ∧ ((addHouse c n s).ware j).stock = (s.ware j).stock := by
  unfold addHouse
  rw [State.ware_setWare_ite]
  split
  · rename_i h
    obtain ⟨rfl, _⟩ := h
    exact ⟨rfl, rfl⟩
  · exact ⟨rfl, rfl⟩

theorem Ground.setLine {s t : State} (c : Nat) (x : Line) (hx : LineKeeps (t.line c) x) (hs : Ground s t) :
    Ground s (t.setLine c x) :=
  { hs with
    line := fun j => by
      rw [State.line_setLine_ite]
      split
      · rename_i hj
        obtain ⟨rfl, _⟩ := hj
        exact (hs.line j).trans hx.config
      · exact hs.line j
    sizes := fun h => (hs.sizes h).of rfl rfl rfl rfl (by simp) rfl rfl rfl rfl rfl rfl rfl }

theorem Ground.withPower {s t : State} (x : Power) (hx : PowerKeeps t.power x) (hs : Ground s t) :
    Ground s (t.withPower x) :=
  { hs with
    power := hs.power.trans hx.config
    sizes := fun h => (hs.sizes h).of rfl rfl rfl rfl rfl hx.length (congrArg _ hx.meters) rfl rfl rfl rfl rfl }

theorem Ground.calm (s : State) : Calm (Ground s) where
  calls _ hs := { hs with sizes := fun h => (hs.sizes h).of rfl rfl rfl rfl rfl rfl rfl rfl rfl rfl rfl rfl }
  freeCount _ hs := { hs with sizes := fun h => (hs.sizes h).of rfl rfl rfl rfl rfl rfl rfl rfl rfl rfl rfl rfl }
  offer q n hs :=
    { hs with
      port := fun p => (hs.port p).trans (offerWhere_keeps q n _ p)
      sizes := fun h => (hs.sizes h).of rfl rfl rfl rfl rfl rfl rfl rfl rfl rfl rfl rfl }
  round {t} f k hs :=
    { hs with
      fn := fun j => by
        rw [State.fn_setFn_ite]
        split
        · rename_i hj
          obtain ⟨rfl, _⟩ := hj
          rw [hs.fn j]
        · exact hs.fn j
      sizes := fun h => (hs.sizes h).of rfl (by simp) rfl rfl rfl rfl rfl rfl rfl rfl rfl rfl }
  course _ _ _ hs :=
    { hs with sizes := fun h => (hs.sizes h).of rfl rfl (by simp) rfl rfl rfl rfl rfl rfl rfl rfl rfl }
  earmarks _ hs := { hs with sizes := fun h => (hs.sizes h).of rfl rfl rfl rfl rfl rfl rfl rfl rfl rfl rfl rfl }
  cab {t} c x hx hs :=
    { hs with
      cab := fun j => by
        rw [State.cab_setCab_ite]
        split
        · rename_i hj
          obtain ⟨rfl, _⟩ := hj
          exact (hs.cab j).trans hx.config.toCabSettings
        · exact hs.cab j
      sizes := fun h => (hs.sizes h).of rfl rfl rfl (by simp) rfl rfl rfl rfl rfl rfl rfl rfl }
  line c x hx _ hs := Ground.setLine c x hx hs
  consumer c x hs := setConsumer_keeps Ground.withPower Ground.setLine c x hs
  power x hx _ hs := Ground.withPower x hx hs
  paging x hx hs :=
    { hs with
      paging := hs.paging.trans hx.config
      sizes := fun h =>
        (hs.sizes h).of rfl rfl rfl rfl rfl rfl rfl (congrArg _ hx.dir) hx.length (congrArg _ hx.rates) rfl rfl }
  bus x hx hs :=
    { hs with
      sizes := fun h => (hs.sizes h).of rfl rfl rfl rfl rfl rfl rfl rfl rfl rfl hx.length rfl }
  transfer {t} c a b n _ hs :=
    { hs with
      ware := fun j => by
        have e := transfer_ware c a b n t j
        exact ⟨e.1.trans (hs.ware j).1, e.2.trans (hs.ware j).2⟩
      conserves := fun h => (hs.conserves h).transfer c a b n
      sizes := fun h => (hs.sizes h).of (by simp [Machine.transfer]) rfl rfl rfl rfl rfl rfl rfl rfl rfl rfl rfl }
  opening {t} hc hs :=
    { hs with
      day := by
        rcases hs.day with e | ⟨e, e'⟩
        · exact .inr ⟨e ▸ hc, rfl⟩
        · rw [e'] at hc; cases hc
      sizes := fun h => (hs.sizes h).of rfl rfl rfl rfl rfl rfl rfl rfl rfl rfl rfl rfl }
  plates {t} c a b n hs :=
    { hs with
      ware := fun j => by
        have e := transfer_ware c a b n t j
        exact ⟨e.1.trans (hs.ware j).1, e.2.trans (hs.ware j).2⟩
      conserves := fun h => (hs.conserves h).transfer c a b n
      sizes := fun h => (hs.sizes h).of (by simp [Machine.transfer]) rfl rfl rfl rfl rfl rfl rfl rfl rfl rfl rfl }
  house {t} c n hs :=
    { hs with
      ware := fun j => by
        have e := addHouse_ware c n t j
        exact ⟨e.1.trans (hs.ware j).1, e.2.trans (hs.ware j).2⟩
      conserves := fun h => (hs.conserves h).addHouse c n
      sizes := fun h => (hs.sizes h).of (by simp [Machine.addHouse]) rfl rfl rfl rfl rfl rfl rfl rfl rfl rfl rfl }
  anyCourse _ _ hs :=
    { hs with sizes := fun h => (hs.sizes h).of rfl rfl (by simp) rfl rfl rfl rfl rfl rfl rfl rfl rfl }
  anyFire _ hs := { hs with sizes := fun h => (hs.sizes h).of rfl rfl rfl rfl rfl rfl rfl rfl rfl rfl rfl rfl }
  anyCabs l hl hx hs :=
    { hs with
      cab := fun k => (hs.cab k).trans (hx k).toCabSettings
      sizes := fun h => (hs.sizes h).of rfl rfl rfl hl rfl rfl rfl rfl rfl rfl rfl rfl }
  anyLines l hl hx _ hs :=
    { hs with
      line := fun k => (hs.line k).trans (hx k)
      sizes := fun h => (hs.sizes h).of rfl rfl rfl rfl hl rfl rfl rfl rfl rfl rfl rfl }
  anyPower x hx _ hs :=
    { hs with
      power := hs.power.trans hx
      sizes := fun h => (hs.sizes h).of rfl rfl rfl rfl rfl hx.consumers hx.meters rfl rfl rfl rfl rfl }
  anyPaging x hx hs :=
    { hs with
      paging := hs.paging.trans hx
      sizes := fun h => (hs.sizes h).of rfl rfl rfl rfl rfl rfl rfl hx.dir hx.rush hx.rates rfl rfl }
  confirm k x hs :=
    { hs with sizes := fun h => (hs.sizes h).of rfl rfl rfl rfl rfl rfl rfl rfl rfl rfl rfl (by simp [setConfirm]) }
  noHold hs := { hs with sizes := fun h => (hs.sizes h).of rfl rfl rfl rfl rfl rfl rfl rfl rfl rfl rfl rfl }
  clocks _ _ _ hs := { hs with sizes := fun h => (hs.sizes h).of rfl rfl rfl rfl rfl rfl rfl rfl rfl rfl rfl rfl }
  anyBus x hx hs := { hs with sizes := fun h => (hs.sizes h).of rfl rfl rfl rfl rfl rfl rfl rfl rfl rfl hx rfl }
  measured {t} c _ _ _ hs :=
    { hs with
      cab := fun j => by
        rw [State.cab_setCab_ite]
        split
        · rename_i hj
          obtain ⟨rfl, _⟩ := hj
          have h := hs.cab j
          exact ⟨h.kind, h.addr, h.heat, h.hold, h.standby, h.idle, h.cls, h.capacity, h.shelves⟩
        · exact hs.cab j
      sizes := fun h => (hs.sizes h).of rfl rfl rfl (by simp) rfl rfl rfl rfl rfl rfl rfl rfl }

theorem Measured.work (s : State) : Work fun t => ∀ k, CabConfig (s.cab k) (t.cab k) where
  calls _ hs := hs
  freeCount _ hs := hs
  offer _ _ hs := hs
  round _ _ hs := hs
  course _ _ _ hs := hs
  earmarks _ hs := hs
  cab {t} c x hx hs := fun j => by
    rw [State.cab_setCab_ite]
    split
    · rename_i hj
      obtain ⟨rfl, _⟩ := hj
      exact (hs j).trans hx.config
    · exact hs j
  line _ _ _ _ hs := hs
  consumer _ _ hs := setConsumer_keeps (P := fun t => ∀ k, CabConfig (s.cab k) (t.cab k)) (fun _ _ h => h) (fun _ _ _ h => h) _ _ hs
  power _ _ _ hs := hs
  paging _ _ hs := hs
  bus _ _ hs := hs
  transfer _ _ _ _ _ hs := hs
  opening _ hs := hs
  plates _ _ _ _ hs := hs
  house _ _ hs := hs
  anyCourse _ _ hs := hs
  anyFire _ hs := hs
  anyCabs _ _ hx hs := fun k => (hs k).trans (hx k)
  anyLines _ _ _ _ hs := hs
  anyPower _ _ _ hs := hs
  anyPaging _ _ hs := hs
  confirm _ _ hs := hs
  noHold hs := hs
  clocks _ _ _ hs := hs

theorem BusKept.work (b : Bus) : Work fun t => BusKeeps b t.bus where
  calls _ hs := hs
  freeCount _ hs := hs
  offer _ _ hs := hs
  round _ _ hs := hs
  course _ _ _ hs := hs
  earmarks _ hs := hs
  cab _ _ _ hs := hs
  line _ _ _ _ hs := hs
  consumer _ _ hs := setConsumer_keeps (P := fun t => BusKeeps b t.bus) (fun _ _ h => h) (fun _ _ _ h => h) _ _ hs
  power _ _ _ hs := hs
  paging _ _ hs := hs
  bus _ hx hs := hs.trans hx
  transfer _ _ _ _ _ hs := hs
  opening _ hs := hs
  plates _ _ _ _ hs := hs
  house _ _ hs := hs
  anyCourse _ _ hs := hs
  anyFire _ hs := hs
  anyCabs _ _ _ hs := hs
  anyLines _ _ _ _ hs := hs
  anyPower _ _ _ hs := hs
  anyPaging _ _ hs := hs
  confirm _ _ hs := hs
  noHold hs := hs
  clocks _ _ _ hs := hs

theorem Bedrock.work (s : State) : Work (Bedrock s) where
  calls x hs := ⟨(Ground.calm s).calls x hs.toGround, hs.measured, hs.bus⟩
  freeCount x hs := ⟨(Ground.calm s).freeCount x hs.toGround, hs.measured, hs.bus⟩
  offer q n hs := ⟨(Ground.calm s).offer q n hs.toGround, hs.measured, hs.bus⟩
  round f k hs := ⟨(Ground.calm s).round f k hs.toGround, hs.measured, hs.bus⟩
  course c x hx hs := ⟨(Ground.calm s).course c x hx hs.toGround, hs.measured, hs.bus⟩
  earmarks x hs := ⟨(Ground.calm s).earmarks x hs.toGround, hs.measured, hs.bus⟩
  cab k x hx hs := ⟨(Ground.calm s).cab k x hx hs.toGround, (Measured.work s).cab k x hx hs.measured, hs.bus⟩
  line l x hx hp hs := ⟨(Ground.calm s).line l x hx hp hs.toGround, hs.measured, hs.bus⟩
  consumer c x hs :=
    ⟨(Ground.calm s).consumer c x hs.toGround, (Measured.work s).consumer c x hs.measured,
      (BusKept.work s.bus).consumer c x hs.bus⟩
  power x hx hp hs := ⟨(Ground.calm s).power x hx hp hs.toGround, hs.measured, hs.bus⟩
  paging x hx hs := ⟨(Ground.calm s).paging x hx hs.toGround, hs.measured, hs.bus⟩
  bus x hx hs := ⟨(Ground.calm s).bus x hx hs.toGround, hs.measured, hs.bus.trans hx⟩
  transfer c a b n hc hs := ⟨(Ground.calm s).transfer c a b n hc hs.toGround, hs.measured, hs.bus⟩
  opening hc hs := ⟨(Ground.calm s).opening hc hs.toGround, hs.measured, hs.bus⟩
  plates c a b n hs := ⟨(Ground.calm s).plates c a b n hs.toGround, hs.measured, hs.bus⟩
  house c n hs := ⟨(Ground.calm s).house c n hs.toGround, hs.measured, hs.bus⟩
  anyCourse c x hs := ⟨(Ground.calm s).anyCourse c x hs.toGround, hs.measured, hs.bus⟩
  anyFire x hs := ⟨(Ground.calm s).anyFire x hs.toGround, hs.measured, hs.bus⟩
  anyCabs l hl hx hs :=
    ⟨(Ground.calm s).anyCabs l hl hx hs.toGround, (Measured.work s).anyCabs l hl hx hs.measured, hs.bus⟩
  anyLines l hl hx hp hs := ⟨(Ground.calm s).anyLines l hl hx hp hs.toGround, hs.measured, hs.bus⟩
  anyPower x hx hp hs := ⟨(Ground.calm s).anyPower x hx hp hs.toGround, hs.measured, hs.bus⟩
  anyPaging x hx hs := ⟨(Ground.calm s).anyPaging x hx hs.toGround, hs.measured, hs.bus⟩
  confirm k x hs := ⟨(Ground.calm s).confirm k x hs.toGround, hs.measured, hs.bus⟩
  noHold hs := ⟨(Ground.calm s).noHold hs.toGround, hs.measured, hs.bus⟩
  clocks c m x hs := ⟨(Ground.calm s).clocks c m x hs.toGround, hs.measured, hs.bus⟩

theorem Bedrock.refl (s : State) : Bedrock s s := ⟨Ground.refl s, fun _ => CabConfig.refl _, BusKeeps.refl _⟩

end Sys2Proof.Machine
end

