-- ==== Sys2Proof/Laws/Cabinets.lean ====
section
/-! SUPPORT. What a change of a cabinet's state writes in the cabinet's own record and in its consumer's: one lemma for
entry to OFF, one for entry to OFFLINE, one for a heat request. -/

namespace Sys2Proof.Machine

variable {s : State}

theorem cab_setCab (u : State) (k : Nat) (x : Cab) (h : k < u.cabs.length) : (u.setCab k x).cab k = x := by
  rw [State.cab_setCab_ite]
  simp [h]

/-- A slot that does not stand in the table reads as an OFFLINE cabinet. -/
theorem cab_outside {k : Nat} (h : ¬k < s.cabs.length) : s.cab k = Cab.initial := by
  unfold State.cab
  rw [List.getD_eq_getElem?_getD, List.getElem?_eq_none (by omega)]
  rfl

theorem setConsumer_cabs (c : Nat) (x : Consumer) (s : State) : (s.setConsumer c x).cabs = s.cabs := by
  unfold State.setConsumer
  dsimp only
  split <;> rfl

theorem setConsumer_consumer (k : Nat) (x : Consumer) (s : State) (hk : k < s.power.consumers.length) :
    (s.setConsumer k x).consumer k = x := by
  unfold State.setConsumer
  dsimp only
  have e : ∀ l : List Consumer, k < l.length → (l.set k x).getD k Consumer.initial = x := by
    intro l hl
    rw [List.getD_eq_getElem?_getD, List.getElem?_set_self hl]
    rfl
  split <;> exact e _ hk

theorem release_cabs (c : Nat) (s : State) : (release c s).cabs = s.cabs := setConsumer_cabs _ _ _
theorem clearMeasured_cabs (c : Nat) (s : State) : (clearMeasured c s).cabs = s.cabs := setConsumer_cabs _ _ _
theorem lowerTo_cabs (c n : Nat) (s : State) : (lowerTo c n s).cabs = s.cabs := setConsumer_cabs _ _ _

theorem request_cabs (c n : Nat) (s : State) : (request c n s).cabs = s.cabs := by
  unfold request
  dsimp only
  split
  · exact setConsumer_cabs _ _ _
  · exact lowerTo_cabs _ _ _

/-- A change of state to another state: the table's new list. -/
theorem changeState_cabs {k : Nat} {st : CabState} (u : Bool) (h : (s.cab k).state ≠ st) :
    (changeState k st u s).cabs = s.cabs.set k ((s.cab k).enter st) := by
  have hb := (changeState_beside k st u s).cabs
  rw [if_neg h] at hb
  exact hb

theorem changeState_power (k : Nat) (st : CabState) (u : Bool) (s : State) : (changeState k st u s).power = s.power := by
  have hb := (changeState_beside k st u s).power
  rw [hb]
  split <;> rfl

/-- A change of state to a state it has not yet. -/
theorem changeState_cab {k : Nat} {st : CabState} (u : Bool) (hk : k < s.cabs.length) (h : (s.cab k).state ≠ st) :
    (changeState k st u s).cab k = (s.cab k).enter st := by
  unfold State.cab
  rw [changeState_cabs u h]
  rw [List.getD_eq_getElem?_getD, List.getElem?_set_self hk]
  rfl

theorem changeState_length (k : Nat) (st : CabState) (u : Bool) (s : State) :
    (changeState k st u s).cabs.length = s.cabs.length := by
  rw [(changeState_beside k st u s).cabs]
  split
  · rfl
  · simp

theorem unroutes_cabs (l : List Route) (s : State) :
    (l.foldl (fun t r => unrouteRack r.line r.tag t) s).cabs = s.cabs := by
  induction l generalizing s with
  | nil => rfl
  | cons r l ih =>
    rw [List.foldl_cons, ih]
    unfold unrouteRack callRoute
    split <;> rfl

theorem unroutes_power (l : List Route) (s : State) :
    (l.foldl (fun t r => unrouteRack r.line r.tag t) s).power = s.power := by
  induction l generalizing s with
  | nil => rfl
  | cons r l ih =>
    rw [List.foldl_cons, ih]
    unfold unrouteRack callRoute
    split <;> rfl

theorem cancelRoutes_cab (k : Nat) (s : State) (hk : k < s.cabs.length) :
    (cancelRoutes k s).cab k = { s.cab k with routes := [] } := by
  unfold cancelRoutes State.cab
  dsimp only
  rw [unroutes_cabs]
  exact cab_setCab s k _ hk

theorem cancelRoutes_length (k : Nat) (s : State) : (cancelRoutes k s).cabs.length = s.cabs.length := by
  unfold cancelRoutes
  dsimp only
  rw [unroutes_cabs]
  simp [State.setCab, State.withCabs]

theorem cancelRoutes_power (k : Nat) (s : State) : (cancelRoutes k s).power = s.power := by
  unfold cancelRoutes
  dsimp only
  rw [unroutes_power]
  rfl

theorem unload_cab (k : Nat) (s : State) (hk : k < s.cabs.length) :
    (unload k s).cab k = { s.cab k with lots := if (s.cab k).cls = none then (s.cab k).lots else [] } := by
  unfold unload
  dsimp only
  split
  · rename_i h
    rw [if_pos h]
  · rename_i c h
    rw [if_neg (by rw [h]; simp)]
    exact cab_setCab s k _ hk

theorem unload_power (k : Nat) (s : State) : (unload k s).power = s.power := by
  unfold unload
  dsimp only
  split <;> rfl

/-- Entry to OFF (R57): the cabinet's record and its consumer's. -/
theorem enterOff_records (k : Nat) (u : Bool) (s : State) (hk : k < s.cabs.length) (hc : k < s.power.consumers.length)
    (hs : (s.cab k).state ≠ .off) :
    (enterOff k u s).cab k = (s.cab k).asOff ∧ (enterOff k u s).consumer k = (s.consumer k).released := by
  have h0 : (release k s).cab k = s.cab k := by unfold State.cab; rw [release_cabs]
  have hk0 : k < (release k s).cabs.length := by rw [release_cabs]; exact hk
  have h1 : (changeState k .off u (release k s)).cab k = (s.cab k).enter .off := by
    rw [changeState_cab u hk0 (by rw [h0]; exact hs), h0]
  have hk1 : k < (changeState k .off u (release k s)).cabs.length := by rw [changeState_length]; exact hk0
  constructor
  · unfold enterOff
    extract_lets a x b
    have hb : b.cab k = { a.cab k with sleepT := none, oobT := none, doorT := none } := cab_setCab _ _ _ hk1
    have hkb : k < b.cabs.length := by
      show k < (a.cabs.set k _).length
      rw [List.length_set]
      exact hk1
    rw [unload_cab _ _ (by rw [cancelRoutes_length]; exact hkb), cancelRoutes_cab _ _ hkb, hb]
    show (fun c : Cab => _) (a.cab k) = _
    rw [h1]
    rfl
  · unfold enterOff
    extract_lets a x b
    unfold State.consumer
    rw [unload_power, cancelRoutes_power]
    show a.power.consumers.getD k Consumer.initial = _
    rw [changeState_power]
    exact setConsumer_consumer k _ s hc

/-- Entry to OFFLINE (R60): the cabinet's record. -/
theorem enterOffline_cab (k : Nat) (s : State) (hk : k < s.cabs.length) (hs : (s.cab k).state ≠ .offline) :
    (enterOffline k s).cab k = (s.cab k).asOffline := by
  have h0 : (clearMeasured k (release k s)).cab k = s.cab k := by unfold State.cab; rw [clearMeasured_cabs, release_cabs]
  have hk0 : k < (clearMeasured k (release k s)).cabs.length := by rw [clearMeasured_cabs, release_cabs]; exact hk
  have h1 : (changeState k .offline false (clearMeasured k (release k s))).cab k = (s.cab k).enter .offline := by
    rw [changeState_cab false hk0 (by rw [h0]; exact hs), h0]
  have hk1 : k < (changeState k .offline false (clearMeasured k (release k s))).cabs.length := by
    rw [changeState_length]; exact hk0
  unfold enterOffline
  extract_lets a c
  have hka : k < a.cabs.length := by
    show k < (cancelRoutes k _).cabs.length
    rw [cancelRoutes_length]
    exact hk1
  rw [cab_setCab _ _ _ hka]
  have hc : c = { (s.cab k).enter .offline with routes := [] } := by
    show (cancelRoutes k _).cab k = _
    rw [cancelRoutes_cab _ _ hk1, h1]
  rw [hc]
  rfl

/-- Entry to WAIT_POWER with the claim of the heat units (R55, R56, R58): the cabinet waits, or heats at once, and its
request stands at its heat units. -/
theorem requestHeat_records (k : Nat) (s : State) (hk : k < s.cabs.length) (hc : k < s.power.consumers.length) :
    (((requestHeat k s).cab k).state = .waitPower ∨ ((requestHeat k s).cab k).state = .heating) ∧
      ((requestHeat k s).consumer k).request = (s.cab k).heat := by
  have e1 : ((changeState k .waitPower false s).cab k).state = .waitPower ∧
      ((changeState k .waitPower false s).cab k).heat = (s.cab k).heat := by
    by_cases h : (s.cab k).state = .waitPower
    · have : (changeState k .waitPower false s) = s := by unfold changeState; dsimp only; rw [if_pos h]
      rw [this]
      exact ⟨h, rfl⟩
    · rw [changeState_cab false hk h]
      exact ⟨rfl, rfl⟩
  unfold requestHeat
  extract_lets a b
  have hb : b.cabs = a.cabs := request_cabs _ _ _
  have hbk : b.cab k = a.cab k := by unfold State.cab; rw [hb]
  have hbl : k < b.cabs.length := by rw [hb]; show k < (changeState _ _ _ _).cabs.length; rw [changeState_length]; exact hk
  have hap : a.power = s.power := changeState_power _ _ _ _
  have hreq : (b.consumer k).request = (s.cab k).heat := by
    rw [← e1.2]
    show ((request k (a.cab k).heat a).consumer k).request = (a.cab k).heat
    unfold request
    dsimp only
    have hl : k < a.power.consumers.length := by rw [hap]; exact hc
    split
    · show ((a.setConsumer k _).consumer k).request = _
      rw [setConsumer_consumer _ _ _ hl]
    · rename_i hg
      show ((a.setConsumer k _).consumer k).request = _
      rw [setConsumer_consumer _ _ _ hl]
      exact Nat.min_eq_left (Nat.le_of_not_lt hg)
  split
  · constructor
    · by_cases h : (b.cab k).state = .heating
      · have : changeState k .heating false b = b := by unfold changeState; dsimp only; rw [if_pos h]
        rw [this]
        exact .inr h
      · rw [changeState_cab false hbl h]
        exact .inr rfl
    · unfold State.consumer
      rw [changeState_power]
      exact hreq
  · exact ⟨.inl (by rw [hbk]; exact e1.1), hreq⟩

end Sys2Proof.Machine
end

