-- ==== Sys2Proof/Laws/Ports.lean ====
section
/-! SUPPORT. A port request, said once: the command at its port goes through the unread check, the common checks and its
own body, and the answer is `after` (R161–R164, R168, R169). -/

namespace Sys2Proof.Machine

/-- The gate of a port command. -/
def gateOf (i : Instr) : Gate := ⟨permission i, !isRead i, passesLockout i, isHoldCommand i, isClaimCommand i⟩

/-- The body of a port command. -/
def bodyOf : Instr → State → Result
  | .noticeFetch p n => noticeFetchBody p n
  | .noticeSubscribe p x e => noticeSubscribeBody p x e
  | .portReset p => portResetBody p
  | .portRead p => portReadBody p
  | .holdBegin p => holdBeginBody p
  | .holdEnd p => holdEndBody p
  | .configClaim p => configClaimBody p
  | .configRelease p => configReleaseBody p
  | .permitSet _ q x => permitSetBody q x
  | .dayOpen _ => dayOpenBody
  | .dayClose _ => dayCloseBody
  | .lockoutClear _ => lockoutClearBody
  | .deviceReset _ => deviceResetBody
  | .dayRead _ => dayReadBody
  | .classSet _ c d => classSetBody c d
  | .wareStock _ c n => wareStockBody c n
  | .wareAdd _ c n => wareAddBody c n
  | .wareMove _ c d n => wareMoveBody c d n
  | .wareWriteOff _ c q n => wareWriteOffBody c q n
  | .wareReturn _ t x n => wareReturnBody t x n
  | .wareRead _ c => wareReadBody c
  | .functionSet _ f a m t r => functionSetBody f a m t r
  | .courseDefine _ c a => courseDefineBody c a
  | .courseArm _ c => courseArmBody c
  | .courseFire _ c => courseFireBody c
  | .courseRebatch _ c k => courseRebatchBody c k
  | .courseCancel _ c => courseCancelBody c
  | .courseClose _ c => courseCloseBody c
  | .courseRead _ c q k => courseReadBody c q k
  | .functionRead _ f => functionReadBody f
  | .cabinetSet _ k q a => cabinetSetBody k q a
  | .cabinetMode _ k m f => cabinetModeBody k m f
  | .cabinetSetpoint _ k t b => cabinetSetpointBody k t b
  | .cabinetRearm _ k => cabinetRearmBody k
  | .cabinetRead _ k q i => cabinetReadBody k q i
  | .lineSet _ l a => lineSetBody l a
  | .lineMode _ l m => lineModeBody l m
  | .rackAnnounce _ l t c n f => rackAnnounceBody l t c n f
  | .rackRelease _ l t a => rackReleaseBody l t a
  | .rackClear _ l t => rackClearBody l t
  | .rackRead _ l q v => rackReadBody l q v
  | .lineRead _ l => lineReadBody l
  | .budgetSet _ n => budgetSetBody n
  | .powerSet _ a => powerSetBody a
  | .energyLoad _ m r => energyLoadBody m r
  | .powerRead _ q x => powerReadBody q x
  | .energyRead _ m => energyReadBody m
  | .energyReadRaw _ m => energyReadRawBody m
  | .pageSend p k v c a r => pageSendBody p k v c a r
  | .pageCancel _ i => pageCancelBody i
  | .pagingSet _ a => pagingSetBody a
  | .pageRead _ q v => pageReadBody q v
  | .pagerRead _ q v => pagerReadBody q v
  | .nodeRead _ q a => nodeReadBody q a
  | _ => okWith []

/-- Every port command is one port request. -/
theorem exec_request {i : Instr} {p : Port} (h : requestPort i = some p) (s : State) :
    exec i s = live (portRequest p (gateOf i) (bodyOf i)) s := by
  cases i <;> simp only [requestPort, Option.some.injEq, reduceCtorEq] at h <;> subst h <;> rfl

theorem firstFailure_cons (b : Bool) (st : Status) (c : List (Bool × Status)) :
    firstFailure ((b, st) :: c) = if b = false then some st else firstFailure c := by
  cases b <;> rfl

/-- A command whose checks all hold runs its effect. -/
theorem checked_of_none {c : List (Bool × Status)} {f : State → Result} {s : State} (h : firstFailure c = none) :
    checked c f s = f s := by
  simp only [checked, h]

/-- A command with a failing check is refused with the status of the first. -/
theorem checked_of_some {c : List (Bool × Status)} {f : State → Result} {s : State} {st : Status}
    (h : firstFailure c = some st) : checked c f s = refuse st s := by
  simp only [checked, h]

@[simp] theorem firstFailure_nil : firstFailure [] = none := rfl

theorem commonCheck_mk (pm : Option Nat) (r lo he ce : Bool) (p : Port) (s : State) :
    commonCheck ⟨pm, !r, lo, he, ce⟩ p s =
      if pm.all (s.port p).perms.testBit = false then some .denied
      else if s.day.state = .lockout ∧ r = false ∧ lo = false then some .lockedOut
      else if r = false ∧ he = false ∧ s.hold.owner ≠ none ∧ s.hold.owner ≠ some p then some .held
      else if s.day.state = .opening ∧ pm = some 0 ∧ ce = false ∧ s.day.claim ≠ some p then some .claimed
      else none := by
  unfold commonCheck
  rw [firstFailure_cons, firstFailure_cons, firstFailure_cons, firstFailure_cons]
  refine if_congr ?_ rfl (if_congr ?_ rfl (if_congr ?_ rfl (if_congr ?_ rfl rfl)))
  · cases pm <;> rfl
  · simp [and_assoc]
  · simp [and_assoc, Option.isSome_iff_ne_none]
  · simp [and_assoc]

/-- The common checks are those of R164. -/
theorem commonCheck_gateOf (i : Instr) (p : Port) (s : State) : commonCheck (gateOf i) p s = commonRefusal i p s :=
  commonCheck_mk _ _ _ _ _ p s

theorem endHoldAtLimit_eq (p : Port) (t : State) :
    endHoldAtLimit p t =
      if t.hold.owner = some p ∧ 4 ≤ t.hold.count then
        (raiseTo p .holdEnded p.code 1 t.hold.count t).withHold { owner := none, count := 0, start := none }
      else t := by
  unfold endHoldAtLimit
  split
  · rename_i h
    have h' : t.hold.owner = some p ∧ 4 ≤ t.hold.count := h
    simp only [h', and_self, if_true, endHold]
    rfl
  · rename_i h
    have h' : ¬ (t.hold.owner = some p ∧ 4 ≤ t.hold.count) := h
    simp only [h', if_false]

theorem counted_gateOf (i : Instr) (p : Port) (s : State) :
    ((gateOf i).counted p s = true) = (isRead i = false ∧ isHoldCommand i = false ∧ s.hold.owner = some p) := by
  simp [Gate.counted, gateOf, and_assoc]

theorem commonRefusal_withHold_count (i : Instr) (p : Port) (s : State) (n : Nat) :
    commonRefusal i p (s.withHold { s.hold with count := n }) = commonRefusal i p s := rfl

theorem commonRefusal_before (i : Instr) (p : Port) (s : State) : commonRefusal i p (before i p s) = commonRefusal i p s := by
  unfold before
  split <;> rfl

/-! ### What `before` leaves -/

/-- Counting a command changes the hold record alone. -/
theorem before_eq (i : Instr) (p : Port) (s : State) : ∃ h, before i p s = s.withHold h := by
  unfold before
  split
  · exact ⟨_, rfl⟩
  · exact ⟨s.hold, rfl⟩

@[simp] theorem before_pending (i : Instr) (p : Port) (s : State) : (before i p s).pending = s.pending := by
  obtain ⟨h, e⟩ := before_eq i p s
  rw [e]
  rfl

@[simp] theorem before_ports (i : Instr) (p : Port) (s : State) : (before i p s).ports = s.ports := by
  obtain ⟨h, e⟩ := before_eq i p s
  rw [e]
  rfl

@[simp] theorem before_day (i : Instr) (p : Port) (s : State) : (before i p s).day = s.day := by
  obtain ⟨h, e⟩ := before_eq i p s
  rw [e]
  rfl

@[simp] theorem before_wares (i : Instr) (p : Port) (s : State) : (before i p s).wares = s.wares := by
  obtain ⟨h, e⟩ := before_eq i p s
  rw [e]
  rfl

@[simp] theorem before_fns (i : Instr) (p : Port) (s : State) : (before i p s).fns = s.fns := by
  obtain ⟨h, e⟩ := before_eq i p s
  rw [e]
  rfl

@[simp] theorem before_courses (i : Instr) (p : Port) (s : State) : (before i p s).courses = s.courses := by
  obtain ⟨h, e⟩ := before_eq i p s
  rw [e]
  rfl

@[simp] theorem before_fire (i : Instr) (p : Port) (s : State) : (before i p s).fire = s.fire := by
  obtain ⟨h, e⟩ := before_eq i p s
  rw [e]
  rfl

@[simp] theorem before_earmarks (i : Instr) (p : Port) (s : State) : (before i p s).earmarks = s.earmarks := by
  obtain ⟨h, e⟩ := before_eq i p s
  rw [e]
  rfl

@[simp] theorem before_cabs (i : Instr) (p : Port) (s : State) : (before i p s).cabs = s.cabs := by
  obtain ⟨h, e⟩ := before_eq i p s
  rw [e]
  rfl

@[simp] theorem before_lines (i : Instr) (p : Port) (s : State) : (before i p s).lines = s.lines := by
  obtain ⟨h, e⟩ := before_eq i p s
  rw [e]
  rfl

@[simp] theorem before_power (i : Instr) (p : Port) (s : State) : (before i p s).power = s.power := by
  obtain ⟨h, e⟩ := before_eq i p s
  rw [e]
  rfl

@[simp] theorem before_paging (i : Instr) (p : Port) (s : State) : (before i p s).paging = s.paging := by
  obtain ⟨h, e⟩ := before_eq i p s
  rw [e]
  rfl

@[simp] theorem before_bus (i : Instr) (p : Port) (s : State) : (before i p s).bus = s.bus := by
  obtain ⟨h, e⟩ := before_eq i p s
  rw [e]
  rfl

@[simp] theorem before_calls (i : Instr) (p : Port) (s : State) : (before i p s).calls = s.calls := by
  obtain ⟨h, e⟩ := before_eq i p s
  rw [e]
  rfl

@[simp] theorem before_freeCount (i : Instr) (p : Port) (s : State) : (before i p s).freeCount = s.freeCount := by
  obtain ⟨h, e⟩ := before_eq i p s
  rw [e]
  rfl

@[simp] theorem before_port (i : Instr) (p : Port) (s : State) (q : Port) : (before i p s).port q = s.port q := by
  obtain ⟨h, e⟩ := before_eq i p s
  rw [e]
  rfl

@[simp] theorem before_ware (i : Instr) (p : Port) (s : State) (c : Nat) : (before i p s).ware c = s.ware c := by
  obtain ⟨h, e⟩ := before_eq i p s
  rw [e]
  rfl

@[simp] theorem before_fn (i : Instr) (p : Port) (s : State) (c : Nat) : (before i p s).fn c = s.fn c := by
  obtain ⟨h, e⟩ := before_eq i p s
  rw [e]
  rfl

@[simp] theorem before_course (i : Instr) (p : Port) (s : State) (c : Nat) : (before i p s).course c = s.course c := by
  obtain ⟨h, e⟩ := before_eq i p s
  rw [e]
  rfl

@[simp] theorem before_cab (i : Instr) (p : Port) (s : State) (c : Nat) : (before i p s).cab c = s.cab c := by
  obtain ⟨h, e⟩ := before_eq i p s
  rw [e]
  rfl

@[simp] theorem before_line (i : Instr) (p : Port) (s : State) (c : Nat) : (before i p s).line c = s.line c := by
  obtain ⟨h, e⟩ := before_eq i p s
  rw [e]
  rfl

@[simp] theorem before_node (i : Instr) (p : Port) (s : State) (c : Nat) : (before i p s).node c = s.node c := by
  obtain ⟨h, e⟩ := before_eq i p s
  rw [e]
  rfl

@[simp] theorem before_consumer (i : Instr) (p : Port) (s : State) (c : Nat) : (before i p s).consumer c = s.consumer c := by
  obtain ⟨h, e⟩ := before_eq i p s
  rw [e]
  rfl

@[simp] theorem before_meter (i : Instr) (p : Port) (s : State) (c : Nat) : (before i p s).meter c = s.meter c := by
  obtain ⟨h, e⟩ := before_eq i p s
  rw [e]
  rfl

@[simp] theorem before_uncommitted (i : Instr) (p : Port) (s : State) (c : Nat) : (before i p s).uncommitted c = s.uncommitted c := by
  obtain ⟨h, e⟩ := before_eq i p s
  rw [e]
  rfl

@[simp] theorem before_committed (i : Instr) (p : Port) (s : State) (c : Nat) : (before i p s).committed c = s.committed c := by
  obtain ⟨h, e⟩ := before_eq i p s
  rw [e]
  rfl

/-- A command that is taken in some day states alone and that the common checks let through is not in LOCKOUT. -/
theorem Admitted.notLockout {i : Instr} {p : Port} {s : State} (h : Admitted i p s) (h1 : isRead i = false)
    (h2 : passesLockout i = false) : s.day.state ≠ .lockout := by
  intro hl
  have h' := h.2
  unfold commonRefusal at h'
  split at h'
  · cases h'
  · rw [if_pos ⟨hl, h1, h2⟩] at h'
    cases h'

/-- Outside LOCKOUT the day state is OPENING, SERVICE or CLOSING. -/
theorem inDay_openDays {s : State} (h : s.day.state ≠ .lockout) : inDay s openDays = true := by
  unfold inDay openDays
  revert h
  cases s.day.state <;> decide

/-- What a command answers, before the hold's end and the reply's place. -/
def outcomeOf (i : Instr) (p : Port) (s : State) : Result :=
  match commonRefusal i p s with
  | some st => refuse st (before i p s)
  | none => bodyOf i (before i p s)

theorem takeRequest_eq (i : Instr) (p : Port) (s : State) :
    takeRequest p (gateOf i) (bodyOf i) s =
      ⟨(outcomeOf i p s).status, (outcomeOf i p s).data,
        if isRead i = false ∧ isHoldCommand i = false ∧ s.hold.owner = some p then
          endHoldAtLimit p (outcomeOf i p s).state
        else (outcomeOf i p s).state⟩ := by
  unfold takeRequest outcomeOf before
  simp only [counted_gateOf]
  by_cases hc : isRead i = false ∧ isHoldCommand i = false ∧ s.hold.owner = some p
  · rw [if_pos hc, if_pos hc, if_pos hc, commonCheck_gateOf]
    have e : commonRefusal i p (s.withHold { s.hold with count := s.hold.count + 1 }) = commonRefusal i p s := rfl
    rw [e]
    all_goals (cases commonRefusal i p s <;> rfl)
  · rw [if_neg hc, if_neg hc, if_neg hc, commonCheck_gateOf]
    all_goals (cases commonRefusal i p s <;> rfl)

/-- The answer of a port that takes a request. -/
theorem request_answer {i : Instr} {p : Port} (h : requestPort i = some p) {s : State} (hr : Ready p s) :
    exec i s = .next (after i p s ⟨(outcomeOf i p s).status, (outcomeOf i p s).data⟩ (outcomeOf i p s).state) := by
  rw [exec_request h]
  obtain ⟨h1, h2⟩ := hr
  simp only [live, h1, portRequest, h2, Option.isSome_none, Bool.false_eq_true, if_false, takeRequest_eq,
    placeReply, after, State.statusBytes, endHoldAtLimit_eq]
  by_cases hc : isRead i = false ∧ isHoldCommand i = false ∧ s.hold.owner = some p
  · simp only [hc.1, hc.2.1, hc.2.2, true_and, and_self, if_true]
  · have hn : ¬ (isRead i = false ∧ isHoldCommand i = false ∧ s.hold.owner = some p ∧
        (outcomeOf i p s).state.hold.owner = some p ∧ 4 ≤ (outcomeOf i p s).state.hold.count) :=
      fun hh => hc ⟨hh.1, hh.2.1, hh.2.2.1⟩
    rw [if_neg hc, if_neg hn]

/-- A request while the slot holds a reply (R162). -/
theorem request_unread {i : Instr} {p : Port} (h : requestPort i = some p) {s : State} (h1 : s.day.resetLow = false)
    (h2 : (s.port p).slot ≠ none) :
    exec i s = .next (s.setPort p { s.port p with unread := true, miso := [s.statusByte p, s.dayByte p] }) := by
  rw [exec_request h]
  have h3 : (s.port p).slot.isSome = true := Option.isSome_iff_ne_none.mpr h2
  simp [live, h1, portRequest, h3, refuseUnread, State.statusBytes]

/-- An executed command. -/
theorem Executes.of_body {i : Instr} {p : Port} {s : State} (h : requestPort i = some p) (ha : Admitted i p s)
    {data : List Byte} {t : State} (hb : bodyOf i (before i p s) = okWith data t) : Executes i p s data t := by
  have e : outcomeOf i p s = okWith data t := by simp only [outcomeOf, ha.2, hb]
  unfold Executes
  rw [request_answer h ha.1, e]
  rfl

/-- A command that its own checks refuse. -/
theorem RefusedWith.of_body {i : Instr} {p : Port} {s : State} (h : requestPort i = some p) (ha : Admitted i p s)
    {st : Status} (hb : bodyOf i (before i p s) = refuse st (before i p s)) : RefusedWith i p s st := by
  have e : outcomeOf i p s = refuse st (before i p s) := by simp only [outcomeOf, ha.2, hb]
  unfold RefusedWith
  rw [request_answer h ha.1, e]
  rfl

/-- A command that a common check refuses (R164). -/
theorem RefusedWith.of_common {i : Instr} {p : Port} {s : State} (h : requestPort i = some p) (hr : Ready p s)
    {st : Status} (hc : commonRefusal i p s = some st) : RefusedWith i p s st := by
  have e : outcomeOf i p s = refuse st (before i p s) := by simp only [outcomeOf, hc]
  unfold RefusedWith
  rw [request_answer h hr, e]
  rfl

/-! ### Reads -/

/-- A read of class READ is let through wherever it is taken (R164). -/
theorem Admitted.of_read {i : Instr} {p : Port} {s : State} (h : Ready p s) (h1 : isRead i = true)
    (h2 : permission i = none) : Admitted i p s := by
  refine ⟨h, ?_⟩
  simp [commonRefusal, h1, h2]

/-- A read is not counted (R168). -/
theorem before_read {i : Instr} {p : Port} {s : State} (h : isRead i = true) : before i p s = s := by
  simp [before, h]

end Sys2Proof.Machine
end

