-- ==== Sys2Proof/Laws/Commands.lean ====
section
/-! SUPPORT. What a port command can do, said once: a property that the changes named in `Full` keep is kept by the body
of every command that port `p` sends. -/

namespace Sys2Proof.Machine

/-- The changes that port commands are made of all keep `P`. -/
structure Full (p : Port) (P : State → Prop) : Prop extends Wide P where
  ware : ∀ {s : State} c x, ((s.ware c).sum = (s.ware c).stock → x.sum = x.stock) → P s → P (s.setWare c x)
  anyFn : ∀ {s : State} f x, P s → P (s.setFn f x)
  rounds : ∀ {s : State}, P s → P (s.withFns (s.fns.map fun f => { f with round := 23 }))
  setCab' : ∀ {s : State} k x, P s → P (s.setCab k x)
  setLine' : ∀ {s : State} l x, x.stops.power = (s.line l).stops.power → P s → P (s.setLine l x)
  settings : ∀ {s : State} x, x.consumers = s.power.consumers → x.meters.length = s.power.meters.length →
    P s → P (s.withPower x)
  pageSettings : ∀ {s : State} x, P s → P (withSettings x s)
  pageOpen : ∀ {s : State} d, d.length = s.paging.dir.length → P s → P (s.withPaging { s.paging with
    pages := [], baseFull := false, rush := List.replicate 14 none, rates := List.replicate 14 Rate.initial, anti := 0,
    dir := d })
  anyPort : ∀ {s : State} q x, x.queue.length ≤ (s.port q).queue.length → P s → P (s.setPort q x)
  claim : ∀ {s : State} c, P s → P (withClaim c s)
  service : ∀ {s : State}, s.day.state = .opening → P s →
    P (s.withDay { s.day with claim := none, state := .service, ret := none, cause := none })
  closing : ∀ {s : State}, s.day.state = .service → P s → P (dayToClosing s)
  cleared : ∀ {s : State}, s.day.state = .lockout → P s → P (clearLockoutDay s)
  begin : ∀ {s : State}, s.hold.owner = none → P s → P (s.withHold ⟨some p, 0, some s.day.ms⟩)
  reset : ∀ {s : State} b, P s → P (powerOnState b s)

variable {p : Port} {P : State → Prop} {s : State}

/-- A check that refuses changes nothing. -/
theorem checked_keeps {c : List (Bool × Status)} {f : State → Result} (hs : P s)
    (hf : firstFailure c = none → P (f s).state) : P (checked c f s).state := by
  unfold checked
  split
  · exact hs
  · rename_i h
    exact hf h

theorem okWith_keeps {d : List Byte} (hs : P s) : P (okWith d s).state := hs

theorem firstFailure_none {b : Bool} {st : Status} {c : List (Bool × Status)} :
    firstFailure ((b, st) :: c) = none ↔ b = true ∧ firstFailure c = none := by
  rw [firstFailure_cons]
  cases b <;> simp

namespace Full

variable (h : Full p P)
include h

/-! ### The ports -/

theorem noticeFetch (q : Port) (n : Nat) (hs : P s) : P (noticeFetchBody q n s).state :=
  checked_keeps hs fun _ => h.anyPort _ _ (by simp) hs

theorem noticeSubscribe (q : Port) (a b : Nat) (hs : P s) : P (noticeSubscribeBody q a b s).state :=
  checked_keeps hs fun _ => h.anyPort _ _ (Nat.le_refl _) hs

theorem portReset (q : Port) (hs : P s) : P (portResetBody q s).state := by
  unfold portResetBody
  extract_lets s1
  refine h.anyPort _ _ (Nat.zero_le _) ?_
  show P (if s.hold.owner = some q then _ else _)
  split
  · exact h.endHold _ _ hs
  · exact hs

theorem holdBegin (hs : P s) : P (holdBeginBody p s).state := by
  unfold holdBeginBody
  split
  · rename_i e
    exact h.begin e hs
  · split <;> exact hs

theorem holdEnd (q : Port) (hs : P s) : P (holdEndBody q s).state := by
  unfold holdEndBody
  split
  · exact hs
  · split
    · exact h.endHold _ _ hs
    · exact hs

theorem configClaim (q : Port) (hs : P s) : P (configClaimBody q s).state := checked_keeps hs fun _ => h.claim _ hs
theorem configRelease (q : Port) (hs : P s) : P (configReleaseBody q s).state := checked_keeps hs fun _ => h.claim _ hs

theorem permitSet (a b : Nat) (hs : P s) : P (permitSetBody a b s).state := by
  unfold permitSetBody
  split
  · exact hs
  · rename_i q _
    refine checked_keeps hs fun _ => ?_
    have h1 : P (s.setPort q { s.port q with perms := b }) := h.anyPort _ _ (Nat.le_refl _) hs
    show P (if _ then _ else _)
    split
    · exact h.raiseTo _ _ _ _ _ (h.claim _ (h.freeCount _ (h.freeCount _ h1)))
    · exact h1

/-! ### The day -/

theorem emptyCourse (c : Nat) (hs : P s) : P (emptyCourse c s) := h.anyCourse _ _ (h.house _ _ hs)

theorem emptyCourses (l : List Nat) (hs : P s) :
    P (forEach l (fun c t => if (t.course c).state = .empty then t else Machine.emptyCourse c t) s) :=
  Hush.forEach (fun c t ht => by
    split
    · exact ht
    · exact h.emptyCourse _ ht) l hs

theorem openCourses (hs : P s) : P (openCourses s) := by
  unfold Machine.openCourses
  dsimp only
  exact h.rounds (h.anyFire _ (h.earmarks _ (h.emptyCourses (List.range 32) hs)))

omit h in
theorem emptyCourses_day (d : Day) : ∀ (l : List Nat) {s : State}, s.day = d →
    (forEach l (fun c t => if (t.course c).state = .empty then t else Machine.emptyCourse c t) s).day = d :=
  fun l {_} hs => Hush.forEach (P := fun t => t.day = d) (fun c t ht => by
    split
    · exact ht
    · exact ht) l hs

omit h in
theorem openCourses_day (s : State) : (Machine.openCourses s).day = s.day := by
  unfold Machine.openCourses
  simp only [State.withFns_day, State.withFire_day, State.withEarmarks_day]
  exact emptyCourses_day s.day _ rfl

omit h in
theorem pagingOpen_day (s : State) : (Machine.pagingOpen s).day = s.day := rfl

omit h in
theorem openRecords_day (s : State) : (Machine.openRecords s).day = s.day := rfl

theorem pagingOpen (hs : P s) : P (pagingOpen s) := h.pageOpen _ (by simp) (h.removeDelivers hs)

theorem openRecords (hs : P s) : P (openRecords s) := by
  have h1 : P (powerOpen s) := h.anyPower _ (by constructor <;> first | rfl | simp)
    (fun c => by
      simp only [State.consumer, List.getD_eq_getElem?_getD, List.getElem?_map]
      cases s.power.consumers[c]? <;> exact ⟨rfl, rfl⟩) hs
  have h2 : P ((powerOpen s).withBus { (powerOpen s).bus with
      nodes := (powerOpen s).bus.nodes.map fun n => { n with lastResp := n.lastResp.map fun _ => 0 } }) :=
    h.anyBus _ (by simp) h1
  exact h.mapLines Line.openDay (fun _ => by constructor <;> rfl) (fun _ => rfl)
    (h.mapCabs Cab.openDay (fun _ => by constructor <;> rfl) rfl h2)

theorem switchOns (l : List Nat) (hs : P s) : P (forEach l switchOn s) :=
  Hush.forEach (fun k _ ht => h.switchOn k ht) l hs

theorem openRequests (hs : P s) : P (openRequests s) := h.boosterSync 1 (h.boosterSync 0 (h.switchOns (List.range 24) hs))

theorem openDay (ho : s.day.state = .opening) (hs : P s) : P (openDay s) := by
  have hd : (Machine.openRecords (Machine.pagingOpen (Machine.openCourses (zeroClock s)))).day.state = .opening := by
    rw [openRecords_day, pagingOpen_day, openCourses_day]
    exact ho
  have h0 : P (zeroClock s) := h.clocks 0 s.day.ms s.day.ms hs
  have h1 := h.openRecords (h.pagingOpen (h.openCourses h0))
  have h2 : P (dayToService (Machine.openRecords (Machine.pagingOpen (Machine.openCourses (zeroClock s))))) :=
    h.matchDiscovery (h.service hd h1)
  exact h.raise _ _ _ _ (h.powerTry (h.openRequests h2))

theorem dayOpen (hs : P s) : P (dayOpenBody s).state :=
  checked_keeps hs fun e => by
    have e1 := (firstFailure_none.mp e).1
    simp only [inDay, Bool.and_eq_true, decide_eq_true_eq, List.mem_singleton] at e1
    exact okWith_keeps (h.finish (h.openDay e1.1 hs))

omit h in
/-- The day state SERVICE stays through everything but a lockout, a close and the commands of the day. -/
theorem service_calm : Calm fun t => t.day.state = .service where
  calls _ hs := hs
  freeCount _ hs := hs
  offer _ _ hs := hs
  round _ _ hs := hs
  course _ _ _ hs := hs
  earmarks _ hs := hs
  cab _ _ _ hs := hs
  line _ _ _ _ hs := hs
  consumer _ _ hs := setConsumer_keeps (P := fun t => t.day.state = .service) (fun _ _ h => h) (fun _ _ _ h => h) _ _ hs
  power _ _ _ hs := hs
  paging _ _ hs := hs
  bus _ _ hs := hs
  transfer _ _ _ _ _ hs := hs
  opening hc hs := by rw [hs] at hc; cases hc
  plates _ _ _ _ hs := hs
  house _ _ hs := hs
  anyCourse _ _ hs := hs
  anyFire _ hs := hs
  anyCabs _ _ _ hs := hs
  anyLines _ _ _ _ hs := hs
  anyPower _ _ _ hs := hs
  anyPaging _ _ hs := hs
  anyBus _ _ hs := hs
  measured _ _ _ _ hs := hs
  confirm _ _ hs := hs
  noHold hs := hs
  clocks _ _ _ hs := hs

omit h in
/-- DAY_CLOSE up to its day state. -/
theorem closeDay_calm {Q : State → Prop} (hq : Calm Q) (cs ks : List Nat) (hs : Q s) :
    Q (powerTry (removeStaged 1 (removeStaged 0 (forEach ks (fun k t => switchOff k false t)
      (forEach cs cancelCourse s))))) := by
  have h1 := Hush.forEach (f := cancelCourse) (fun k _ ht => hq.cancelCourse k ht) cs hs
  have h2 := Hush.forEach (f := fun k t => switchOff k false t) (fun k _ ht => hq.switchOff k false ht) ks h1
  exact hq.powerTry (hq.removeStaged 1 (hq.removeStaged 0 h2))

theorem closeDay (ho : s.day.state = .service) (hs : P s) : P (closeDay s) := by
  have h1 := closeDay_calm h.toCalm s.unfired (List.range 24) hs
  have h2 := closeDay_calm service_calm s.unfired (List.range 24) ho
  unfold Machine.closeDay
  dsimp only
  exact h.callClose (h.raise _ _ _ _ (h.closing h2 h1))

theorem dayClose (hs : P s) : P (dayCloseBody s).state :=
  checked_keeps hs fun e => by
    have e1 := (firstFailure_none.mp e).1
    simp only [inDay, Bool.and_eq_true, decide_eq_true_eq, List.mem_singleton] at e1
    exact okWith_keeps (h.finish (h.closeDay e1.1 hs))

theorem clearLockoutLine (l : Nat) (hs : P s) : P (clearLockoutLine l s) := h.boosterSync _ (h.toWork.withStops _ _ rfl hs)

theorem lockoutClear (hs : P s) : P (lockoutClearBody s).state :=
  checked_keeps hs fun e => by
    have e1 := (firstFailure_none.mp e).1
    simp only [inDay, Bool.and_eq_true, decide_eq_true_eq, List.mem_singleton] at e1
    exact okWith_keeps (h.finish (h.callClose (h.raise _ _ _ _ (h.matchDiscovery
      (h.clearLockoutLine _ (h.clearLockoutLine _ (h.cleared e1.1.1 hs)))))))

theorem deviceReset (hs : P s) : P (deviceResetBody s).state := checked_keeps hs fun _ => h.reset _ hs

/-! ### Ware -/

omit h in
theorem Ware.bringIn_sum (w : Ware) (q : Place) (n : Nat) (e : w.sum = w.stock) : (w.bringIn q n).sum = (w.bringIn q n).stock := by
  cases q <;> simp only [Ware.bringIn, Ware.put, Ware.holds, Ware.sum] at e ⊢ <;> omega

omit h in
theorem Ware.takeOut_sum (w : Ware) (q : Place) (n : Nat) (e : w.sum = w.stock) : (w.takeOut q n).sum = (w.takeOut q n).stock := by
  cases q <;> simp only [Ware.takeOut, Ware.put, Ware.holds, Ware.sum] at e ⊢ <;> omega

theorem classSet (c d : Nat) (hs : P s) : P (classSetBody c d s).state :=
  checked_keeps hs fun _ => h.ware _ _ (fun e => e) hs

theorem wareStock (c n : Nat) (hs : P s) : P (wareStockBody c n s).state :=
  checked_keeps hs fun _ => h.ware _ _ (fun _ => by simp [Ware.sum, Ware.initial]) hs

theorem wareAdd (c n : Nat) (hs : P s) : P (wareAddBody c n s).state :=
  checked_keeps hs fun _ => h.ware _ _ (Ware.bringIn_sum _ _ _) hs

theorem wareMove (c d n : Nat) (hs : P s) : P (wareMoveBody c d n s).state :=
  checked_keeps hs fun _ => by
    show P (if _ then _ else _)
    split
    · exact h.plates _ _ _ _ hs
    · exact h.plates _ _ _ _ hs

theorem subHouse (c n : Nat) (hs : P s) : P (subHouse c n s) := h.ware _ _ (fun e => e) hs

theorem wareWriteOff (c q n : Nat) (hs : P s) : P (wareWriteOffBody c q n s).state :=
  checked_keeps hs fun _ => by
    have h1 : ∀ q, P (s.setWare c ((s.ware c).takeOut q n)) := fun q => h.ware _ _ (Ware.takeOut_sum _ _ _) hs
    dsimp only
    split
    · exact h1 _
    · exact h1 _
    · exact h.subHouse _ _ (h1 _)

theorem wareReturn (t x n : Nat) (hs : P s) : P (wareReturnBody t x n s).state :=
  checked_keeps hs fun _ => by
    dsimp only
    split
    · exact h.anyCourse _ _ (h.plates _ _ _ _ hs)
    · exact h.subHouse _ _ (h.plates _ _ _ _ hs)

/-! ### Functions and courses -/

theorem functionSet (f a m t r : Nat) (hs : P s) : P (functionSetBody f a m t r s).state := by
  unfold functionSetBody
  split
  · exact hs
  · refine checked_keeps hs fun _ => ?_
    show P (if _ then _ else _)
    split
    · exact h.anyFn _ _ hs
    · split
      · exact h.anyFn _ _ hs
      · exact h.anyFn _ _ hs

theorem courseDefine (c : Nat) (a : CourseArgs) (hs : P s) : P (courseDefineBody c a s).state :=
  checked_keeps hs fun _ => h.raise _ _ _ _ (h.anyCourse _ _ hs)

theorem bookBatch (k : Nat) (b : Batch) (hs : P s) : P (bookBatch k b s) := by
  unfold Machine.bookBatch
  dsimp only
  refine h.setCab' _ _ ?_
  split
  · exact h.applySetpoint _ _ _ (h.setCab' _ _ hs)
  · exact h.setCab' _ _ hs

theorem courseArm (c : Nat) (hs : P s) : P (courseArmBody c s).state := by
  unfold courseArmBody
  dsimp only
  refine checked_keeps hs fun _ => okWith_keeps (h.finish (h.enterCourse _ _ ?_))
  split
  · exact hs
  · exact h.bookBatch _ _ hs

theorem courseFire (c : Nat) (hs : P s) : P (courseFireBody c s).state :=
  checked_keeps hs fun _ => okWith_keeps (h.finish (h.fireCourse _ hs))

theorem courseRebatch (c k : Nat) (hs : P s) : P (courseRebatchBody c k s).state :=
  checked_keeps hs fun _ => by
    split
    · exact hs
    · exact okWith_keeps (h.finish (h.bookBatch _ _ (h.anyCourse _ _ (h.removeBatch _ hs))))

theorem courseCancel (c : Nat) (hs : P s) : P (courseCancelBody c s).state := by
  unfold courseCancelBody
  exact checked_keeps hs fun _ => okWith_keeps (h.finish (h.cancelCourse _ hs))

theorem courseClose (c : Nat) (hs : P s) : P (courseCloseBody c s).state :=
  checked_keeps hs fun _ => okWith_keeps (h.emptyCourse _ (h.clearRelated _ hs))

/-! ### Cabinets -/

theorem renameFrom (a b : Option Nat) (hs : P s) : P (renameFrom a b s) := by
  unfold Machine.renameFrom
  split
  · exact h.renamed _ hs
  · exact h.renamed _ (h.renamed _ hs)

theorem unsetBaselines (a : Option Nat) (hs : P s) : P (unsetBaselines a s) := by
  unfold Machine.unsetBaselines
  split
  · exact hs
  · exact h.toCalm.setNode _ _ hs

theorem placeCab (k : Nat) (o : CabState) (hs : P s) : P (placeCab k o s) := by
  unfold Machine.placeCab
  extract_lets c silent s1 st
  have h1 : P s1 := by
    show P (if _ then _ else _)
    split
    · exact h.setCab' _ _ hs
    · exact h.clearMeasured _ hs
  refine h.claimCab _ _ ?_
  split
  · exact h1
  · exact h.callRoutes (h.raise _ _ _ _ h1)

theorem configureCab (k : Nat) (q : CabKind) (a : CabinetArgs) (hs : P s) : P (configureCab k q a s) := by
  unfold Machine.configureCab
  dsimp only
  refine h.placeCab _ _ (h.unsetBaselines _ ?_)
  split
  · exact h.setCab' _ _ (h.unload _ hs)
  · exact h.renameFrom _ _ (h.setCab' _ _ (h.unload _ hs))

theorem cabinetSet (k q : Nat) (a : CabinetArgs) (hs : P s) : P (cabinetSetBody k q a s).state := by
  unfold cabinetSetBody
  split
  · exact hs
  · exact checked_keeps hs fun _ =>
      okWith_keeps (h.finish (h.configureCab _ _ _ hs))

theorem cabinetMode (k m f : Nat) (hs : P s) : P (cabinetModeBody k m f s).state :=
  checked_keeps hs fun _ => by
    refine okWith_keeps (h.finish ?_)
    split
    · exact h.switchOn _ (h.setCab' _ _ hs)
    · exact h.switchOff _ _ hs

theorem cabinetSetpoint (k : Nat) (t : Int) (b : Nat) (hs : P s) : P (cabinetSetpointBody k t b s).state := by
  unfold cabinetSetpointBody
  exact checked_keeps hs fun _ => okWith_keeps (h.finish (h.applySetpoint _ _ _ hs))

theorem relatch (k : Nat) (hs : P s) : P (relatch k s) := by
  unfold Machine.relatch
  dsimp only
  split
  · exact h.setCab' _ _ hs
  · exact h.raise _ _ _ _ (h.setCab' _ _ hs)

theorem rearm (k : Nat) (hs : P s) : P (rearm k s) := by
  unfold Machine.rearm
  dsimp only
  split
  · split
    · exact h.enterOff _ _ (h.relatch _ hs)
    · exact h.enterOffline _ (h.relatch _ hs)
  · exact h.relatch _ hs

theorem cabinetRearm (k : Nat) (hs : P s) : P (cabinetRearmBody k s).state :=
  checked_keeps hs fun _ => okWith_keeps (h.finish (h.rearm _ hs))

/-! ### Lines -/

theorem configureLine (l : Nat) (a : LineArgs) (hs : P s) : P (configureLine l a s) := by
  unfold Machine.configureLine
  extract_lets old s1 x s2 s3 s4 s5
  have h1 : P s1 := h.setLine' _ _ rfl hs
  have h4 : P s4 := by
    show P (if _ then _ else _)
    split
    · exact h1
    · exact h.claimSet _ _ _ _ (h.renameFrom _ _ (h.setRunning _ _ (h.setLine' _ _ rfl h1)))
  have h5 : P s5 := h.backpressure _ h4
  split
  · exact h.clearMeasured _ h5
  · exact h5

theorem lineSet (l : Nat) (a : LineArgs) (hs : P s) : P (lineSetBody l a s).state :=
  checked_keeps hs fun _ => okWith_keeps (h.finish (h.configureLine _ _ hs))

theorem lineMode (l m : Nat) (hs : P s) : P (lineModeBody l m s).state :=
  checked_keeps hs fun _ => by
    show P (if _ then _ else _)
    split
    · exact hs
    · exact h.finish (h.boosterSync _ (h.setLine' _ _ rfl hs))

theorem rackAnnounce (l t c n : Nat) (f : OptArg Nat) (hs : P s) : P (rackAnnounceBody l t c n f s).state :=
  checked_keeps hs fun _ => h.toWork.withStaged _ _ (h.plates _ _ _ _ hs)

theorem restage (l : Nat) (r : Rack) (hs : P s) : P (restage l r s) :=
  h.toWork.withStaged _ _ (h.toWork.withExits _ _ (h.plates _ _ _ _ hs))

theorem rackRelease (l t a : Nat) (hs : P s) : P (rackReleaseBody l t a s).state :=
  checked_keeps hs fun _ => by
    split
    · exact hs
    · refine okWith_keeps (h.finish (h.callRoute _ ?_))
      split
      · exact h.backpressure _ (h.restage _ _ hs)
      · exact h.leaveExit _ _ _ (h.plates _ _ _ _ hs)

theorem rackClear (l t : Nat) (hs : P s) : P (rackClearBody l t s).state :=
  checked_keeps hs fun _ => by
    split
    · exact hs
    · refine okWith_keeps (h.finish (h.callRoute _ (h.leaveExit _ _ _ ?_)))
      split
      · exact hs
      · exact h.dropRoute _ _ _ hs

/-! ### Power and paging -/

theorem budgetSet (n : Nat) (hs : P s) : P (budgetSetBody n s).state :=
  checked_keeps hs fun _ =>
    have h1 : P (s.withPower { s.power with budget := n }) := h.settings _ rfl rfl hs
    okWith_keeps (h.finish (h.raise _ _ _ _ (h.powerTry (h.callRestore (h.revoke 26 0 h1)))))

theorem powerSet (a : PowerArgs) (hs : P s) : P (powerSetBody a s).state :=
  checked_keeps hs fun _ =>
    have h1 : P (s.withPower { s.power with
        shedHigh := a.high, shedLow := a.low, saturate := decide (a.saturation = 0),
        nearestEven := decide (a.rounding = 1), protected0 := decide (a.prot0 = 0),
        protected1 := decide (a.prot1 = 0) }) := h.settings _ rfl rfl hs
    okWith_keeps (h.finish (h.powerTry (h.callRestore (h.shedCheck h1))))

theorem energyLoad (m r : Nat) (hs : P s) : P (energyLoadBody m r s).state :=
  checked_keeps hs fun _ => h.settings _ rfl (by simp) hs

theorem pageSend (q : Port) (k v c a r : Nat) (hs : P s) : P (pageSendBody q k v c a r s).state := by
  unfold pageSendBody
  split
  · split
    · exact hs
    · split
      · exact hs
      · rename_i hu
        exact okWith_keeps (h.finish (h.selectPass (h.addPage _ _ _ _ _ _ (h.makeRoom _ hs hu))))
  · exact hs

theorem pageCancel (i : Nat) (hs : P s) : P (pageCancelBody i s).state := by
  unfold pageCancelBody
  split
  · exact hs
  · exact okWith_keeps (h.finish (h.selectPass (h.cancelPage _ _ hs)))

theorem configurePaging (a : PagingArgs) (g : Option Nat) (hs : P s) : P (configurePaging a g s) := by
  unfold Machine.configurePaging
  extract_lets old s1 s2
  refine h.selectPass ?_
  have h1 : P s1 := h.pageSettings _ hs
  show P (if _ then _ else _)
  split
  · exact h1
  · refine h.renameFrom _ _ ?_
    split
    · exact h.baseLost h1
    · exact h1

theorem pagingSet (a : PagingArgs) (hs : P s) : P (pagingSetBody a s).state := by
  unfold pagingSetBody
  split
  · exact hs
  · exact checked_keeps hs fun _ => okWith_keeps (h.finish (h.configurePaging _ _ hs))

/-! ### Reads -/

omit h in
theorem rackRead (l q v : Nat) (hs : P s) : P (rackReadBody l q v s).state :=
  checked_keeps hs fun _ => by
    split
    · exact hs
    · exact hs

omit h in
theorem pageRead (q v : Nat) (hs : P s) : P (pageReadBody q v s).state :=
  checked_keeps hs fun _ => by
    split
    · exact hs
    · exact hs

omit h in
theorem pagerRead (q v : Nat) (hs : P s) : P (pagerReadBody q v s).state := by
  unfold pagerReadBody
  split
  · exact checked_keeps hs fun _ => hs
  · exact checked_keeps hs fun _ => hs
  · exact checked_keeps hs fun _ => hs
  · exact hs

omit h in
theorem wareRead (c : Nat) (hs : P s) : P (wareReadBody c s).state := checked_keeps hs fun _ => okWith_keeps hs

omit h in
theorem courseRead (c q k : Nat) (hs : P s) : P (courseReadBody c q k s).state := checked_keeps hs fun _ => okWith_keeps hs

omit h in
theorem functionRead (f : Nat) (hs : P s) : P (functionReadBody f s).state := checked_keeps hs fun _ => okWith_keeps hs

omit h in
theorem cabinetRead (k q i : Nat) (hs : P s) : P (cabinetReadBody k q i s).state := checked_keeps hs fun _ => okWith_keeps hs

omit h in
theorem lineRead (l : Nat) (hs : P s) : P (lineReadBody l s).state := checked_keeps hs fun _ => okWith_keeps hs

omit h in
theorem powerRead (q x : Nat) (hs : P s) : P (powerReadBody q x s).state := checked_keeps hs fun _ => okWith_keeps hs

omit h in
theorem energyRead (m : Nat) (hs : P s) : P (energyReadBody m s).state := checked_keeps hs fun _ => okWith_keeps hs

omit h in
theorem energyReadRaw (m : Nat) (hs : P s) : P (energyReadRawBody m s).state := checked_keeps hs fun _ => okWith_keeps hs

omit h in
theorem nodeRead (q a : Nat) (hs : P s) : P (nodeReadBody q a s).state := checked_keeps hs fun _ => okWith_keeps hs

/-- The body of every command of port `p` keeps `P`. -/
theorem body {i : Instr} (hi : requestPort i = some p) (hs : P s) : P (bodyOf i s).state := by
  cases i <;> simp only [requestPort, Option.some.injEq, reduceCtorEq] at hi <;> subst hi
  case noticeFetch => exact h.noticeFetch _ _ hs
  case noticeSubscribe => exact h.noticeSubscribe _ _ _ hs
  case portReset => exact h.portReset _ hs
  case holdBegin => exact h.holdBegin hs
  case holdEnd => exact h.holdEnd _ hs
  case configClaim => exact h.configClaim _ hs
  case configRelease => exact h.configRelease _ hs
  case permitSet => exact h.permitSet _ _ hs
  case dayOpen => exact h.dayOpen hs
  case dayClose => exact h.dayClose hs
  case lockoutClear => exact h.lockoutClear hs
  case deviceReset => exact h.deviceReset hs
  case classSet => exact h.classSet _ _ hs
  case wareStock => exact h.wareStock _ _ hs
  case wareAdd => exact h.wareAdd _ _ hs
  case wareMove => exact h.wareMove _ _ _ hs
  case wareWriteOff => exact h.wareWriteOff _ _ _ hs
  case wareReturn => exact h.wareReturn _ _ _ hs
  case functionSet => exact h.functionSet _ _ _ _ _ hs
  case courseDefine => exact h.courseDefine _ _ hs
  case courseArm => exact h.courseArm _ hs
  case courseFire => exact h.courseFire _ hs
  case courseRebatch => exact h.courseRebatch _ _ hs
  case courseCancel => exact h.courseCancel _ hs
  case courseClose => exact h.courseClose _ hs
  case cabinetSet => exact h.cabinetSet _ _ _ hs
  case cabinetMode => exact h.cabinetMode _ _ _ hs
  case cabinetSetpoint => exact h.cabinetSetpoint _ _ _ hs
  case cabinetRearm => exact h.cabinetRearm _ hs
  case lineSet => exact h.lineSet _ _ hs
  case lineMode => exact h.lineMode _ _ hs
  case rackAnnounce => exact h.rackAnnounce _ _ _ _ _ hs
  case rackRelease => exact h.rackRelease _ _ _ hs
  case rackClear => exact h.rackClear _ _ hs
  case budgetSet => exact h.budgetSet _ hs
  case powerSet => exact h.powerSet _ hs
  case energyLoad => exact h.energyLoad _ _ hs
  case pageSend => exact h.pageSend _ _ _ _ _ _ hs
  case pageCancel => exact h.pageCancel _ hs
  case pagingSet => exact h.pagingSet _ hs
  case portRead => exact hs
  case dayRead => exact hs
  case wareRead => exact wareRead _ hs
  case courseRead => exact courseRead _ _ _ hs
  case functionRead => exact functionRead _ hs
  case cabinetRead => exact cabinetRead _ _ _ hs
  case lineRead => exact lineRead _ hs
  case powerRead => exact powerRead _ _ hs
  case energyRead => exact energyRead _ hs
  case energyReadRaw => exact energyReadRaw _ hs
  case nodeRead => exact nodeRead _ _ hs
  case rackRead => exact rackRead _ _ _ hs
  case pageRead => exact pageRead _ _ hs
  case pagerRead => exact pagerRead _ _ hs

end Full

end Sys2Proof.Machine
end

