-- ==== Sys2Proof/Laws/Effects.lean ====
section
/-! SUPPORT. The model's operations in the words of Safety.lean: what a page's end, a booking, a fire and a hold make of the
state, each said once. -/

namespace Sys2Proof.Machine

variable {s : State}

/-! ### Pages -/

theorem page_id {id : Nat} {g : Page} (h : s.page id = some g) : g.id = id := by
  simpa using List.find?_some h

theorem updPage_eq_paged (id : Nat) (f : Page → Page) (s : State) : updPage id f s = paged id f s := rfl

/-- A page is found under its id after a change that keeps ids. -/
theorem page_updPage {id : Nat} {g : Page} (f : Page → Page) (hf : ∀ q, (f q).id = q.id) (h : s.page id = some g) :
    (updPage id f s).page id = some (f g) := by
  unfold State.page updPage withPages at *
  simp only [State.withPaging_paging]
  generalize s.paging.pages = l at *
  induction l with
  | nil => simp at h
  | cons x xs ih =>
    simp only [List.map_cons, List.find?_cons] at *
    by_cases e : x.id = id <;> simp_all

theorem endPage_eq_ended {id : Nat} {g : Page} (h : s.page id = some g) (o : PageState) :
    endPage id o s = ended g (o.code - 3) s := by
  have e := page_id h
  unfold endPage ended
  rw [h]
  subst e
  rfl

/-! ### Batches and fires -/

theorem removeBatch_eq_unbooked (c : Nat) (s : State) : removeBatch c s = unbooked c s := rfl

theorem bookBatch_eq_bookedAndRun (k : Nat) (b : Batch) (u : State) (hk : k < u.cabs.length) :
    bookBatch k b u = bookedAndRun k b u := by
  unfold bookBatch bookedAndRun booked applySetpoint
  dsimp only
  by_cases h : (u.cab k).batches = [] ∧ (u.cab k).setpoint ≠ b.setpoint
  · simp only [if_pos h, List.isEmpty_iff, Bool.and_eq_true, decide_eq_true_eq, cab_setCab _ _ _ hk, State.setCab_setCab]
    rw [if_pos h.1]
  · simp only [if_neg h, List.isEmpty_iff, Bool.and_eq_true, decide_eq_true_eq]
    by_cases h1 : (u.cab k).batches = []
    · have : (u.cab k).setpoint = b.setpoint := by
        by_contra h2
        exact h ⟨h1, h2⟩
      simp only [h1, this, if_true]
    · simp only [h1, if_false]

theorem fireCourse_eq_fired (c : Nat) (u : State) :
    fireCourse c u =
      evaluate c (raise .courseFired c u.fire.next ((takeEarmarks c (startBatch c (fired c u))).course c).owed
        (takeEarmarks c (startBatch c (fired c u)))) := rfl

theorem fired_cabs (c : Nat) (u : State) : (fired c u).cabs = u.cabs := by
  unfold fired
  split <;> rfl

theorem fired_batch (c : Nat) (u : State) : ((fired c u).course c).batch = (u.course c).batch := by
  unfold fired
  rw [State.course_setCourse_ite]
  split <;> split <;> rfl

theorem startBatch_cab (c : Nat) (u : State) (b : BatchArgs) (h : (u.course c).batch = some b)
    (hk : b.oven < u.cabs.length) : (startBatch c (fired c u)).cab b.oven = (u.cab b.oven).started c := by
  have e : (fired c u).cab b.oven = u.cab b.oven := by
    unfold State.cab
    rw [fired_cabs]
  unfold startBatch
  rw [fired_batch, h]
  dsimp only
  rw [cab_setCab _ _ _ (by rw [fired_cabs]; exact hk), e]
  rfl

/-! ### Racks -/

/-- A rack becomes HELD (R86), with its page, LINE_JAM for TRANSIT and RACK_HELD otherwise. -/
theorem holdRack_eq (l : Nat) (r : Rack) (why : HoldReason) (s : State) :
    holdRack l r why s = callClose
      (let v := raise .rackHeld l r.tag why.code
         (carried r .washing .held
           (s.setLine l { s.line l with exits := (s.line l).exits ++ [{ r with reason := some why }] }))
       if why = .transit then pageDish codeLineJam r.tag .rush none v else pageDish codeRackHeld r.tag .normal none v) := by
  cases why <;> rfl

end Sys2Proof.Machine
end

