-- ==== Sys2Proof/Laws/Steps.lean ====
section
/-! SUPPORT. What a step can do, said once: a property that the changes of `Full` keep is kept by every row, so that an
invariant needs only the primitive changes to be looked at. -/

namespace Sys2Proof.Machine

variable {p : Port} {P : State → Prop} {s t : State} {i : Instr}

/-! ### The bytes of a request -/

theorem oneForm_command {l : List Byte} {n : Nat} {j : Instr} (h : oneForm l n j = .command i) : j = i := by
  unfold oneForm at h
  split at h
  · exact Parsed.command.inj h
  · cases h

theorem someForm_command {l : List Byte} {n : List Nat} {j : Instr} (h : someForm l n j = .command i) : j = i := by
  unfold someForm at h
  split at h
  · exact Parsed.command.inj h
  · cases h

theorem parseCourseDefine_port {l : List Byte} (h : parseCourseDefine p l = .command i) : requestPort i = some p := by
  unfold parseCourseDefine at h
  dsimp only at h
  split at h <;> rw [← someForm_command h] <;> rfl

theorem parseCabinetSet_port {l : List Byte} (h : parseCabinetSet p l = .command i) : requestPort i = some p := by
  unfold parseCabinetSet at h
  dsimp only at h
  split at h <;> first
    | (rw [← oneForm_command h]; rfl)
    | (rw [← someForm_command h]; rfl)

theorem parseRackAnnounce_port {l : List Byte} (h : parseRackAnnounce p l = .command i) : requestPort i = some p := by
  unfold parseRackAnnounce at h
  dsimp only at h
  split at h <;> first
    | (rw [← oneForm_command h]; rfl)
    | (rw [← someForm_command h]; rfl)

/-- A request frame that is a command is a command of its port. -/
theorem parseCommand_port {n : Nat} {l : List Byte} (h : parseCommand p n l = .command i) : requestPort i = some p := by
  unfold parseCommand at h
  dsimp only at h
  split at h <;> first
    | (rw [← oneForm_command h]; rfl)
    | (rw [← someForm_command h]; rfl)
    | exact parseCourseDefine_port h
    | exact parseCabinetSet_port h
    | exact parseRackAnnounce_port h
    | cases h

theorem parseRequest_port {l : List Byte} (h : parseRequest p l = .command i) : requestPort i = some p := by
  unfold parseRequest at h
  split at h
  · cases h
  · exact parseCommand_port h

theorem exec_runCommand (h : requestPort i = some p) (s : State) : exec i s = live (runCommand i) s := by
  cases i <;> simp only [requestPort, Option.some.injEq, reduceCtorEq] at h <;> rfl

/-- A fetch changes its port's record, and no queue. -/
theorem fetchReply_port (p : Port) (n : Nat) (s : State) :
    ∃ x : PortRec, x.queue.length ≤ (s.port p).queue.length ∧ fetchReply p n s = s.setPort p x := by
  unfold fetchReply
  extract_lets r frame miso
  split
  · refine ⟨_, ?_, rfl⟩
    exact Nat.le_refl _
  · refine ⟨_, ?_, rfl⟩
    exact Nat.le_refl _

/-- What a transaction given by its bytes does. -/
theorem exec_bytes {l : List Byte} (h : exec (.undefinedCommandCode p l) s = .next t) :
    t = s ∨ (∃ x : PortRec, x.queue.length ≤ (s.port p).queue.length ∧ t = s.setPort p x) ∨
      ∃ i, requestPort i = some p ∧ exec i s = .next t := by
  have h1 : live (takeBytes p l) s = .next t := h
  unfold live at h1
  split at h1
  · cases h1
    exact .inl rfl
  · rename_i hl
    injection h1 with h1
    unfold takeBytes at h1
    split at h1
    · refine .inr (.inl ⟨_, ?_, h1.symm⟩)
      exact Nat.le_refl _
    · split at h1
      · obtain ⟨x, hx, e⟩ := fetchReply_port p (l.length - 2) s
        exact .inr (.inl ⟨x, hx, h1.symm.trans e⟩)
      · split at h1
        · refine .inr (.inl ⟨_, ?_, h1.symm⟩)
          exact Nat.le_refl _
        · split at h1
          · refine .inr (.inl ⟨_, ?_, h1.symm⟩)
            exact Nat.le_refl _
          · refine .inr (.inl ⟨_, ?_, h1.symm⟩)
            exact Nat.le_refl _
          · rename_i j hj
            refine .inr (.inr ⟨j, parseRequest_port hj, ?_⟩)
            rw [exec_runCommand (parseRequest_port hj)]
            unfold live
            rw [if_neg hl, h1]

/-! ### Port requests -/

namespace Full

variable (h : Full p P)
include h

theorem outcomeOf (hi : requestPort i = some p) (hb : P (before i p s)) : P (outcomeOf i p s).state := by
  unfold Machine.outcomeOf
  split
  · exact hb
  · exact h.body hi hb

theorem after (r : Reply) (ht : P t) : P (after i p s r t) := by
  unfold Machine.after
  extract_lets u
  refine h.anyPort _ _ (Nat.le_refl _) ?_
  show P (if _ then _ else _)
  split
  · exact h.noHold (h.raiseTo _ _ _ _ _ ht)
  · exact ht

/-- A request keeps what its counted state has. -/
theorem request (hi : requestPort i = some p) (hs : P s) (hb : P (before i p s)) (he : exec i s = .next t) : P t := by
  by_cases hl : s.day.resetLow = true
  · rw [exec_request hi] at he
    simp only [live, hl, if_true] at he
    cases he
    exact hs
  · have hl' : s.day.resetLow = false := by simpa using hl
    by_cases hr : (s.port p).slot = none
    · rw [request_answer hi ⟨hl', hr⟩] at he
      cases he
      exact h.after _ (h.outcomeOf hi hb)
    · rw [request_unread hi hl' hr] at he
      cases he
      exact h.anyPort _ _ (Nat.le_refl _) hs

end Full

/-! ### Every row -/

theorem live_keeps {f : State → State} (he : live f s = .next t) (hs : P s) (hf : P (f s)) : P t := by
  unfold live at he
  split at he <;> cases he
  · exact hs
  · exact hf

/-- A row that is not a port command keeps `P`. -/
theorem event_keeps (hw : Wide P) (hp : ∀ {s : State} q x, x.queue.length ≤ (s.port q).queue.length → P s → P (s.setPort q x))
    (hr : ∀ {s : State} b, P s → P (powerOnState b s)) (hi : requestPort i = none)
    (hn : ∀ q l, i ≠ .undefinedCommandCode q l) (hs : P s) (he : exec i s = .next t) : P t := by
  cases i <;> simp only [requestPort, reduceCtorEq] at hi
  case powerOn => cases he; exact hr _ hs
  case resetN => cases he; exact hr _ hs
  case resetNRelease =>
    injection he with he
    subst he
    split
    · exact hr _ hs
    · exact hs
  case undefinedCommandCode q l => exact absurd rfl (hn q l)
  case fetch q n =>
    refine live_keeps he hs ?_
    obtain ⟨x, hx, e⟩ := fetchReply_port q n s
    rw [e]
    exact hp _ _ hx hs
  case closeCompletion => exact live_keeps (f := fun s => finish (closeTest (callClose s))) he hs (hw.finish (hw.closeTest (hw.callClose hs)))
  case identReply => exact live_keeps he hs (hw.receive _ _ _ hs)
  case cabinetReport => exact live_keeps he hs (hw.receive _ _ _ hs)
  case washerReport => exact live_keeps he hs (hw.receive _ _ _ hs)
  case baseReport => exact live_keeps he hs (hw.receive _ _ _ hs)
  case setAck => exact live_keeps he hs (hw.receive _ _ _ hs)
  case deliverAck => exact live_keeps he hs (hw.receive _ _ _ hs)
  case invalidResponse => exact live_keeps he hs (hw.receiveBytes _ hs)
  case responseTimeout => exact live_keeps he hs (hw.responseTimeout hs)
  case transactionSend => exact live_keeps he hs (hw.transactionSend hs)
  case busGuardEnd => exact live_keeps he hs (hw.busGuardEnd hs)
  case abandonGuardEnd => exact live_keeps he hs (hw.abandonGuardEnd hs)
  case pollTimerExpiry => exact live_keeps he hs (hw.pollTimerExpiry _ hs)
  case discoveryTimerExpiry => exact live_keeps he hs (hw.discoveryTimerExpiry hs)
  case discoveryStep => exact live_keeps he hs (hw.openingDiscovery hs)
  case silenceTimerExpiry => exact live_keeps he hs (hw.silenceTimerExpiry _ hs)
  case admission => exact live_keeps (f := fun s => finish (admission s)) he hs (hw.finish (hw.admission hs))
  case settleTimerExpiry => exact live_keeps he hs (hw.settleTimerExpiry hs)
  case holdTimerExpiry => exact live_keeps he hs (hw.holdTimerExpiry hs)
  case confirmTimerExpiry => exact live_keeps he hs (hw.confirmTimerExpiry _ hs)
  case serviceSecond => exact live_keeps he hs (hw.serviceSecond hs)
  case plannedFireTimeReached => exact live_keeps he hs (hw.plannedFire _ hs)
  case cookTimeComplete => exact live_keeps he hs (hw.cookTimeComplete _ hs)
  case overHoldLimit => exact live_keeps he hs (hw.overHoldLimit _ hs)
  case lotWarm => exact live_keeps he hs (hw.lotWarm _ hs)
  case outOfBandExpiry => exact live_keeps he hs (hw.outOfBandExpiry _ hs)
  case sleepTimerExpiry => exact live_keeps he hs (hw.sleepTimerExpiry _ hs)
  case doorTimerExpiry => exact live_keeps he hs (hw.doorTimerExpiry _ hs)
  case transitLimit => exact live_keeps he hs (hw.transitExpiry _ _ hs)
  case routeTimeout => exact live_keeps he hs (hw.routeTimeout _ _ hs)
  case presenceAgeExpiry => exact live_keeps he hs (hw.agePagers _ hs)
  case rushTimerEnd => exact live_keeps he hs (hw.rushTimerEnd _ hs)
  case rateWindowClose => exact live_keeps he hs (hw.rateWindowClose _ hs)
  case resendTimerExpiry => exact live_keeps he hs (hw.resendTimerExpiry _ hs)
  case pageLifetimeExpiry => exact live_keeps he hs (hw.pageLifetimeExpiry _ hs)
  case handOff => exact live_keeps (f := fun s => finish (selectUpTo 1 s)) he hs (hw.finish (hw.selectUpTo 1 hs))

/-- A step keeps `P` when the port requests do. -/
theorem step_keeps (h : ∀ p, Full p P) (hq : ∀ {s : State} l, P s → P (s.withPending l))
    (hreq : ∀ {i p} {s t : State}, requestPort i = some p → P s → exec i s = .next t → P t)
    (hs : P s) (he : step s = .next t) : P t := by
  unfold step at he
  split at he
  · cases he
    unfold idle
    split
    · exact hs
    · exact (h .a).clocks _ _ _ hs
  · rename_i c rest _
    have hs' : P (s.withPending rest) := hq rest hs
    cases hc : requestPort c with
    | some p => exact hreq hc hs' he
    | none =>
      by_cases hu : ∃ q l, c = .undefinedCommandCode q l
      · obtain ⟨q, l, rfl⟩ := hu
        rcases exec_bytes he with rfl | ⟨x, hx, rfl⟩ | ⟨j, hj, hj'⟩
        · exact hs'
        · exact (h .a).anyPort _ _ hx hs'
        · exact hreq hj hs' hj'
      · exact event_keeps (h .a).toWide (h .a).anyPort (h .a).reset hc (fun q l e => hu ⟨q, l, e⟩) hs' he

/-- A property that does not speak of the hold's count is kept by every step. -/
theorem Full.step (h : ∀ p, Full p P) (hq : ∀ {s : State} l, P s → P (s.withPending l))
    (hc : ∀ {s : State} n, P s → P (s.withHold { s.hold with count := n })) (hs : P s) (he : step s = .next t) : P t := by
  refine step_keeps h hq (fun {i p s t} hi hs he => (h p).request hi hs ?_ he) hs he
  unfold before
  split
  · exact hc _ hs
  · exact hs

end Sys2Proof.Machine
end

