-- ==== Sys2Proof/Laws/Frames.lean ====
section
/-! SUPPORT. The bytes of a request frame: its check byte, its length and its fields read back. -/

namespace Sys2Proof

open Machine

theorem byteSum_append (a b : List Byte) : byteSum (a ++ b) = byteSum a + byteSum b := by
  have key : ∀ (l : List Byte) (x y : Byte), l.foldl (· + ·) (x + y) = x + l.foldl (· + ·) y := by
    intro l
    induction l with
    | nil => intro x y; rfl
    | cons a l ih => intro x y; simp only [List.foldl_cons]; rw [BitVec.add_assoc, ih]
  unfold byteSum
  rw [List.foldl_append]
  simpa using key b (List.foldl (· + ·) 0 a) 0

/-- A frame with its check byte sums to 0. -/
theorem byteSum_check (l : List Byte) : byteSum (l ++ [-byteSum l]) = 0 := by
  rw [byteSum_append]
  simp [byteSum]

/-- A request frame of a code and at most 40 argument bytes is read as that code and those bytes. -/
theorem parseRequest_frame (p : Port) {code : Nat} {args : List Byte} (hc : code < 256) (ha : args.length ≤ 40) :
    parseRequest p (requestFrame code args) = parseCommand p code args := by
  have h0 : byteAt (requestFrame code args) 0 = code := by
    simp [requestFrame, byteAt, Nat.mod_eq_of_lt hc]
  have h1 : byteAt (requestFrame code args) 1 = args.length := by
    have : args.length < 256 := by omega
    simp [requestFrame, byteAt, Nat.mod_eq_of_lt this]
  have h2 : (requestFrame code args).length = args.length + 3 := by simp [requestFrame]
  have h3 : byteSum (requestFrame code args) = 0 := byteSum_check _
  have h4 : ((requestFrame code args).drop 2).dropLast = args := by simp [requestFrame]
  unfold parseRequest
  rw [h0, h1, h2, h3, h4, if_neg]
  have : ¬ args.length > 40 := by omega
  simp [this]

/-! ### Fields -/

theorem be8_at {n : Nat} (h : n < 256) (l : List Byte) : byteAt (be8 n ++ l) 0 = n := by
  simp [byteAt, be8, Nat.mod_eq_of_lt h]

theorem wordAt_be16 {n : Nat} (h : n < 65536) : (BitVec.ofNat 8 (n / 256)).toNat * 256 + (BitVec.ofNat 8 n).toNat = n := by
  simp only [BitVec.toNat_ofNat]
  omega

theorem tempAt_beTemp {t : Int} (h1 : -32768 ≤ t) (h2 : t < 32768) :
    (BitVec.ofNat 16 (BitVec.ofInt 16 t).toNat).toInt = t := by
  rw [BitVec.ofNat_toNat, BitVec.setWidth_eq, BitVec.toInt_ofInt]
  simp only [Int.bmod]
  omega

end Sys2Proof
end

