-- ==== Sys2Proof/Laws/Order.lean ====
section
/-! SUPPORT. What sorting, positions and sums answer, and the orders the spec takes from them: the owing list and the
active courses in fire order (R34), the waiting list (R104), the earmarks written (R29), the ABSENT entry to reuse (R121). -/

namespace Sys2Proof.Machine

/-! ### Lists -/

section
variable {α : Type}

theorem mem_insertBy {le : α → α → Bool} {x y : α} {l : List α} : y ∈ insertBy le x l ↔ y = x ∨ y ∈ l := by
  induction l with
  | nil => simp [insertBy]
  | cons z zs ih =>
    unfold insertBy
    split
    · simp
    · simp only [List.mem_cons, ih]; tauto

theorem mem_sortBy {le : α → α → Bool} {y : α} {l : List α} : y ∈ sortBy le l ↔ y ∈ l := by
  induction l with
  | nil => simp [sortBy]
  | cons z zs ih => simp [sortBy, mem_insertBy, ih]

theorem pairwise_insertBy {le : α → α → Bool} (R : α → α → Prop) (tr : ∀ a b c, le a b = true → le b c = true → le a c = true)
    (tot : ∀ a b, le a b = false → le b a = true) {x : α} {l : List α}
    (hx : ∀ y ∈ l, R x y)
    (h : l.Pairwise fun a b => le a b = true ∧ (le b a = true → R a b)) :
    (insertBy le x l).Pairwise fun a b => le a b = true ∧ (le b a = true → R a b) := by
  induction l with
  | nil => simp [insertBy]
  | cons z zs ih =>
    obtain ⟨h1, h2⟩ := List.pairwise_cons.1 h
    unfold insertBy
    split
    · rename_i e
      refine List.pairwise_cons.2 ⟨fun y hy => ⟨?_, fun _ => hx y hy⟩, h⟩
      rcases List.mem_cons.1 hy with rfl | hy
      · exact e
      · exact tr _ _ _ e (h1 y hy).1
    · rename_i e
      have e : le x z = false := by simpa using e
      refine List.pairwise_cons.2 ⟨fun y hy => ?_, ih (fun y hy => hx y (List.mem_cons_of_mem _ hy)) h2⟩
      rcases mem_insertBy.1 hy with rfl | hy
      · exact ⟨tot _ _ e, fun g => absurd g (by simp [e])⟩
      · exact h1 y hy

theorem pairwise_sortBy {le : α → α → Bool} {R : α → α → Prop} (tr : ∀ a b c, le a b = true → le b c = true → le a c = true)
    (tot : ∀ a b, le a b = false → le b a = true) {l : List α} (h : l.Pairwise R) :
    (sortBy le l).Pairwise fun a b => le a b = true ∧ (le b a = true → R a b) := by
  induction l with
  | nil => exact List.Pairwise.nil
  | cons z zs ih =>
    obtain ⟨h1, h2⟩ := List.pairwise_cons.1 h
    exact pairwise_insertBy R tr tot (fun y hy => h1 y (mem_sortBy.1 hy)) (ih h2)

theorem sortBy_pairwise {le : α → α → Bool} (tr : ∀ a b c, le a b = true → le b c = true → le a c = true)
    (tot : ∀ a b, le a b = false → le b a = true) (l : List α) : (sortBy le l).Pairwise fun a b => le a b = true :=
  (pairwise_sortBy (R := fun _ _ => True) tr tot (List.pairwise_of_forall fun _ _ => trivial)).imp And.left

/-- The first element with the largest key, where there is an element. -/
theorem maxBy_eq_none {key : α → Nat} {l : List α} : maxBy key l = none ↔ l = [] := by
  cases l with
  | nil => simp [maxBy]
  | cons x xs =>
    unfold maxBy
    split
    · simp
    · split <;> simp

theorem mem_positions {q : α → Bool} {d : α} {l : List α} {i : Nat} :
    i ∈ positions q l ↔ i < l.length ∧ q (l.getD i d) = true := by
  unfold positions
  simp only [List.mem_map, List.mem_filter, Prod.exists, List.mem_zipIdx_iff_getElem?]
  constructor
  · rintro ⟨a, b, ⟨h, g⟩, rfl⟩
    obtain ⟨h1, h2⟩ := List.getElem?_eq_some_iff.1 h
    exact ⟨h1, by simp_all [List.getD_eq_getElem?_getD]⟩
  · rintro ⟨h, g⟩
    exact ⟨l[i], i, ⟨by simp, by simpa [List.getD_eq_getElem?_getD, h] using g⟩, rfl⟩

theorem positions_pairwise (q : α → Bool) (l : List α) : (positions q l).Pairwise (· < ·) := by
  unfold positions
  rw [List.pairwise_map]
  refine List.Pairwise.filter _ ?_
  rw [← List.pairwise_map (f := Prod.snd) (R := (· < ·))]
  rw [List.zipIdx_map_snd, ← List.range_eq_range']
  exact List.pairwise_lt_range

theorem insertBy_perm (le : α → α → Bool) (x : α) (l : List α) : (insertBy le x l).Perm (x :: l) := by
  induction l with
  | nil => exact List.Perm.refl _
  | cons z zs ih =>
    unfold insertBy
    split
    · exact List.Perm.refl _
    · exact (ih.cons z).trans (List.Perm.swap x z zs)

theorem total_perm {l m : List Nat} (h : l.Perm m) : total l = total m := by
  unfold total
  exact h.foldl_op_eq (op := (· + ·))

end

/-! ### Courses and consumers -/

theorem earmark_setEarmark (c k n i j : Nat) (s : State) :
    (setEarmark c k n s).earmark i j = if i = c ∧ j = k then n else s.earmark i j := by
  unfold setEarmark State.earmark
  simp only [State.withEarmarks_earmarks]
  have e : ((s.earmarks.filter fun e => !(decide (e.course = c) && decide (e.cab = k))).filter fun e =>
        decide (e.course = i) && decide (e.cab = j)) =
      if i = c ∧ j = k then [] else s.earmarks.filter fun e => decide (e.course = i) && decide (e.cab = j) := by
    rw [List.filter_filter]
    split
    · rename_i h
      simp [h.1, h.2]
    · rename_i h
      refine List.filter_congr fun x _ => ?_
      by_cases h1 : x.course = i <;> by_cases h2 : x.cab = j <;> (simp_all; try tauto)
  by_cases hn : n = 0
  · simp only [hn, if_true, e]
    split <;> rfl
  · simp only [hn, if_false]
    rw [total_perm (((insertBy_perm _ _ _).filter _).map _), List.filter_cons]
    dsimp only
    by_cases h : i = c ∧ j = k
    · simp only [h.1, h.2, decide_true, Bool.and_self, if_true, List.map_cons]
      rw [h.1, h.2] at e
      rw [e]
      simp [total]
    · have : (decide (c = i) && decide (k = j)) = false := by
        simp only [Bool.and_eq_false_iff, decide_eq_false_iff_not]
        by_contra g
        exact h (by constructor <;> simp_all)
      simp only [this, e, if_neg h]
      rfl

/-- The owing list of a class (R34). -/
theorem mem_owing {s : State} {cls c : Nat} :
    c ∈ s.owing cls ↔ c < s.courses.length ∧ (s.course c).state.active = true ∧ (s.course c).cls = cls ∧
      0 < (s.course c).owed := by
  unfold State.owing State.inFireOrder
  rw [mem_sortBy, mem_positions (d := Course.initial)]
  simp [State.course, and_assoc]

theorem mem_activeCourses {s : State} {c : Nat} :
    c ∈ s.activeCourses ↔ c < s.courses.length ∧ (s.course c).state.active = true := by
  unfold State.activeCourses State.inFireOrder
  rw [mem_sortBy, mem_positions (d := Course.initial)]
  simp [State.course]

theorem inFireOrder_pairwise {s : State} {l : List Nat} (h : l.Pairwise (· < ·)) :
    (s.inFireOrder l).Pairwise fun a b => a ≠ b ∧ s.seqOf a ≤ s.seqOf b := by
  unfold State.inFireOrder
  refine List.Pairwise.imp ?_ (pairwise_sortBy (R := (· < ·)) (le := fun a b => decide (s.seqOf a ≤ s.seqOf b))
    (by simp only [decide_eq_true_eq]; intros; omega)
    (by simp only [decide_eq_true_eq, decide_eq_false_iff_not]; intros; omega) h)
  intro a b h
  simp only [decide_eq_true_eq] at h
  refine ⟨?_, h.1⟩
  rintro rfl
  exact absurd (h.2 h.1) (Nat.lt_irrefl _)

theorem owing_pairwise (s : State) (cls : Nat) : (s.owing cls).Pairwise fun a b => a ≠ b ∧ s.seqOf a ≤ s.seqOf b :=
  inFireOrder_pairwise (positions_pairwise _ _)

theorem activeCourses_pairwise (s : State) : s.activeCourses.Pairwise fun a b => a ≠ b ∧ s.seqOf a ≤ s.seqOf b :=
  inFireOrder_pairwise (positions_pairwise _ _)

/-- The courses holding an earmark at a cabinet (R40). -/
theorem mem_holdersAt {s : State} {k c : Nat} : c ∈ s.holdersAt k ↔ ∃ e ∈ s.earmarks, e.course = c ∧ e.cab = k := by
  unfold State.holdersAt State.inFireOrder
  simp only [mem_sortBy, List.mem_map, List.mem_filter, decide_eq_true_eq]
  exact ⟨fun ⟨e, ⟨h1, h2⟩, h3⟩ => ⟨e, h1, h3, h2⟩, fun ⟨e, h1, h3, h2⟩ => ⟨e, ⟨h1, h2⟩, h3⟩⟩

theorem holdersAt_pairwise (s : State) (k : Nat) : (s.holdersAt k).Pairwise fun a b => s.seqOf a ≤ s.seqOf b :=
  (sortBy_pairwise (by simp only [decide_eq_true_eq]; intros; omega)
    (by simp only [decide_eq_true_eq, decide_eq_false_iff_not]; intros; omega) _).imp fun h => by simpa using h

/-- The lowest other cabinet with an earmark of the course (R41, case c). -/
theorem otherEarmark_eq_some {s : State} {c k j : Nat} (h : s.otherEarmark c k = some j) :
    (∃ e ∈ s.earmarks, e.course = c ∧ e.cab = j) ∧ j ≠ k ∧ ∀ e ∈ s.earmarks, e.course = c → e.cab ≠ k → j ≤ e.cab := by
  unfold State.otherEarmark at h
  have hp := sortBy_pairwise (le := fun a b : Nat => decide (a ≤ b)) (by simp only [decide_eq_true_eq]; intros; omega)
    (by simp only [decide_eq_true_eq, decide_eq_false_iff_not]; intros; omega)
    ((s.earmarks.filter fun e => decide (e.course = c) && decide (e.cab ≠ k)).map (·.cab))
  have hm : ∀ i, i ∈ sortBy (fun a b : Nat => decide (a ≤ b))
      ((s.earmarks.filter fun e => decide (e.course = c) && decide (e.cab ≠ k)).map (·.cab)) ↔
      ∃ e ∈ s.earmarks, (e.course = c ∧ e.cab ≠ k) ∧ e.cab = i := fun i => by
    simp only [mem_sortBy, List.mem_map, List.mem_filter, Bool.and_eq_true, decide_eq_true_eq, and_assoc]
  generalize sortBy (fun a b : Nat => decide (a ≤ b))
    ((s.earmarks.filter fun e => decide (e.course = c) && decide (e.cab ≠ k)).map (·.cab)) = l at h hp hm
  cases l with
  | nil => simp at h
  | cons x xs =>
    simp only [List.head?_cons, Option.some.injEq] at h
    subst h
    obtain ⟨e, h1, h2, h3⟩ := (hm x).1 List.mem_cons_self
    refine ⟨⟨e, h1, h2.1, h3⟩, h3 ▸ h2.2, fun y hy h4 h5 => ?_⟩
    rcases List.mem_cons.1 ((hm y.cab).2 ⟨y, hy, ⟨h4, h5⟩, rfl⟩) with g | g
    · exact Nat.le_of_eq g.symm
    · simpa using (List.pairwise_cons.1 hp).1 _ g

theorem mem_waitList {s : State} {c : Nat} :
    c ∈ s.waitList ↔ c < s.power.consumers.length ∧ (s.consumer c).grant < (s.consumer c).request := by
  unfold State.waitList
  rw [mem_sortBy, mem_positions (d := Consumer.initial)]
  simp [State.consumer]

/-- The waiting list's order (R104): restore class, then request time, then number. -/
theorem waitList_pairwise (s : State) :
    s.waitList.Pairwise fun a b => s.restoreClass a < s.restoreClass b ∨ s.restoreClass a = s.restoreClass b ∧
      ((s.consumer a).reqTime.getD 0 < (s.consumer b).reqTime.getD 0 ∨
        (s.consumer a).reqTime.getD 0 = (s.consumer b).reqTime.getD 0 ∧ a < b) := by
  unfold State.waitList
  refine List.Pairwise.imp ?_ (pairwise_sortBy (R := (· < ·)) ?_ ?_ (positions_pairwise _ _))
  · intro a b
    simp only [Bool.or_eq_true, Bool.and_eq_true, decide_eq_true_eq]
    rintro ⟨h1 | h1, h2⟩
    · exact .inl h1
    · refine .inr ⟨h1.1, ?_⟩
      rcases Nat.lt_or_ge ((s.consumer a).reqTime.getD 0) ((s.consumer b).reqTime.getD 0) with g | g
      · exact .inl g
      · exact .inr ⟨by omega, h2 (.inr ⟨h1.1.symm, g⟩)⟩
  · intro a b c
    simp only [Bool.or_eq_true, Bool.and_eq_true, decide_eq_true_eq]
    omega
  · intro a b
    simp only [Bool.or_eq_false_iff, Bool.and_eq_false_iff, decide_eq_false_iff_not, Bool.or_eq_true, Bool.and_eq_true,
      decide_eq_true_eq]
    omega

/-! ### The directory -/

/-- An ABSENT entry seen no later than any other, the lowest of those, is the one a check-in reuses (R121). -/
theorem oldestAbsent_eq {s : State} {i : Nat} {e : Pager} (h : s.paging.dir[i]? = some (some e)) (he : e.present = false)
    (least : ∀ j x, s.paging.dir[j]? = some (some x) → x.present = false →
      e.lastSeen < x.lastSeen ∨ e.lastSeen = x.lastSeen ∧ i ≤ j) : s.oldestAbsent = some i := by
  unfold State.oldestAbsent
  generalize hl : (s.paging.dir.zipIdx.filterMap fun x =>
      match x.1 with
      | none => none
      | some g => if g.present then none else some (g.lastSeen, x.2)) = l
  have mem : ∀ p : Nat × Nat, p ∈ l ↔
      ∃ g, s.paging.dir[p.2]? = some (some g) ∧ g.present = false ∧ g.lastSeen = p.1 := by
    rintro ⟨u, j⟩
    rw [← hl]
    simp only [List.mem_filterMap, Prod.exists, List.mem_zipIdx_iff_getElem?]
    constructor
    · rintro ⟨a, b, g, k⟩
      cases a with
      | none => simp at k
      | some y =>
        simp only [Option.ite_none_left_eq_some, Bool.not_eq_true, Option.some.injEq, Prod.mk.injEq] at k
        obtain ⟨k1, k2, rfl⟩ := k
        exact ⟨y, g, k1, k2⟩
    · rintro ⟨y, g, k1, k2⟩
      exact ⟨some y, j, g, by simp [k1, k2]⟩
  have sorted := pairwise_sortBy (le := fun x y : Nat × Nat => decide (x.1 ≤ y.1)) (R := fun x y => x.2 < y.2)
    (by simp only [decide_eq_true_eq]; intros; omega)
    (by simp only [decide_eq_true_eq, decide_eq_false_iff_not]; intros; omega) (l := l) (by
      rw [← hl, List.pairwise_filterMap]
      refine List.Pairwise.imp (R := fun x y : Option Pager × Nat => x.2 < y.2) ?_ ?_
      · rintro ⟨a, x⟩ ⟨b, y⟩ hxy u hu v hv
        cases a <;> cases b <;> simp_all
        obtain ⟨-, rfl⟩ := hu
        obtain ⟨-, rfl⟩ := hv
        exact hxy
      · rw [← List.pairwise_map (f := Prod.snd) (R := (· < ·)), List.zipIdx_map_snd, ← List.range_eq_range']
        exact List.pairwise_lt_range)
  have hi := (mem (e.lastSeen, i)).2 ⟨e, h, he, rfl⟩
  rw [← mem_sortBy (le := fun x y : Nat × Nat => decide (x.1 ≤ y.1))] at hi
  cases hs : sortBy (fun x y : Nat × Nat => decide (x.1 ≤ y.1)) l with
  | nil => simp [hs] at hi
  | cons p ps =>
    rw [hs] at hi sorted
    obtain ⟨g, g1, g2, g3⟩ := (mem p).1 (mem_sortBy.1 (hs ▸ List.mem_cons_self))
    rcases List.mem_cons.1 hi with rfl | hi
    · rfl
    · obtain ⟨a, b⟩ := (List.pairwise_cons.1 sorted).1 _ hi
      simp only [decide_eq_true_eq] at a b
      rcases least p.2 g g1 g2 with c | ⟨c, d⟩
      · omega
      · have := b (by omega)
        omega

end Sys2Proof.Machine
end

