-- ==== Sys2Proof/Laws/Reads.lean ====
section
/-! SUPPORT. What the model's tests of a state answer, each in the words of the rule it stands for. -/

namespace Sys2Proof.Machine

/-! ### Courses and cabinets -/

theorem CabState.eligible_iff (x : CabState) :
    x.eligible = true ↔ x = .heating ∨ x = .holding ∨ x = .waitPower ∨ x = .shed := by
  cases x <;> simp [CabState.eligible]

theorem CourseState.active_iff (x : CourseState) : x.active = true ↔ x = .fired ∨ x = .ready ∨ x = .plating := by
  cases x <;> simp [CourseState.active]

/-- A warmer that may give a course its plates (R33). -/
theorem servesCourse_iff (c k : Nat) (s : State) :
    s.servesCourse c k = true ↔
      (s.cab k).kind = .warmer ∧
        ((s.cab k).state = .heating ∨ (s.cab k).state = .holding ∨ (s.cab k).state = .waitPower ∨ (s.cab k).state = .shed) ∧
        (s.cab k).cls = some (s.course c).cls ∧ (s.fn (s.course c).fn).members.testBit k = true := by
  unfold State.servesCourse Cab.eligible State.reaches Cab.isWarmer
  cases (s.cab k).state <;> simp [CabState.eligible, and_assoc]

theorem batchDone_iff (c : Nat) (s : State) : s.batchDone c = true ↔ ∃ b, s.batchOf c = some b ∧ b.state = .done := by
  unfold State.batchDone
  cases s.batchOf c <;> simp

/-- When a course is ready (R36, R37). -/
theorem isReady_iff (c : Nat) (s : State) :
    s.isReady c = true ↔
      ((s.course c).batch = none ∨ ∃ b, s.batchOf c = some b ∧ b.state = .done) ∧ (s.course c).owed = 0 ∧
        ∀ e ∈ s.earmarks, e.course = c →
          total ((s.earmarks.filter fun x => x.cab = e.cab ∧
            (s.course x.course).fireSeq.getD 0 ≤ (s.course c).fireSeq.getD 0).map (·.count)) ≤ s.readyPlates e.cab := by
  unfold State.isReady State.batchDone State.warmFor State.aheadAt State.seqOf
  cases s.batchOf c <;> simp [and_assoc, imp_iff_not_or]

/-- A warmer that takes a route of `n` plates (R89). -/
theorem accepts_iff (c : Cab) (cls n : Nat) :
    c.accepts cls n = true ↔
      c.kind = .warmer ∧ c.cls = some cls ∧
        (c.state = .holding ∨ c.state = .heating ∨ c.state = .waitPower ∨ c.state = .shed ∨ c.state = .sleep) ∧
        c.lotTotal + c.pending + n ≤ c.capacity := by
  unfold Cab.accepts Cab.isWarmer
  cases c.state <;> simp [CabState.takesRoutes, CabState.eligible, and_assoc]

/-- A warmer has a serving course where a READY or PLATING course of its class holds an earmark (R40). -/
theorem serving_isSome_iff (k : Nat) (s : State) :
    (s.serving k).isSome = true ↔
      ∃ e ∈ s.earmarks, e.cab = k ∧ (s.cab k).cls = some (s.course e.course).cls ∧
        ((s.course e.course).state = .ready ∨ (s.course e.course).state = .plating) := by
  unfold State.serving State.holdersAt State.inFireOrder
  simp only [List.find?_isSome, mem_sortBy, List.mem_map, List.mem_filter, decide_eq_true_eq, Bool.and_eq_true,
    Bool.or_eq_true]
  constructor
  · rintro ⟨c, ⟨e, ⟨h1, h2⟩, rfl⟩, h3, h4⟩
    exact ⟨e, h1, h2, h4, h3⟩
  · rintro ⟨e, h1, h2, h3, h4⟩
    exact ⟨e.course, ⟨e, ⟨h1, h2⟩, rfl⟩, h4, h3⟩

/-! ### Paging -/

theorem isPager_iff (a : Nat) : isPager a = true ↔ 0x10 ≤ a ∧ a ≤ 0xEF := by
  unfold isPager within
  simp

/-- A team whose rate is exhausted (R129). -/
theorem exhausted_iff (s : State) (t : Nat) :
    s.exhausted t = true ↔
      1 ≤ t ∧ (s.paging.rates.getD (t - 1) ⟨0, none⟩).ends ≠ none ∧
        s.paging.settings.rate ≤ (s.paging.rates.getD (t - 1) ⟨0, none⟩).count := by
  unfold State.exhausted State.rate
  by_cases h : t = 0
  · subst h
    simp [Rate.initial]
  · simp only [if_neg h, Rate.initial]
    simp [Option.isSome_iff_ne_none]
    omega

/-- A page that the rate of its team holds back (R129). -/
theorem rateBlocked_iff (s : State) (q : Page) :
    s.rateBlocked q = true ↔
      q.prio ≠ .urgent ∧ ∃ tm, 1 ≤ tm ∧ (q.target = .team tm ∨ ∃ a, q.target = .pager a ∧ tm = a / 16) ∧
        (s.paging.rates.getD (tm - 1) ⟨0, none⟩).ends ≠ none ∧
        s.paging.settings.rate ≤ (s.paging.rates.getD (tm - 1) ⟨0, none⟩).count := by
  unfold State.rateBlocked Target.teamOf
  cases q.target <;> simp [exhausted_iff]

/-- There is a choice where there is an eligible page (R130). -/
theorem choose_eq_none_iff (s : State) : s.choose = none ↔ s.paging.pages.filter s.eligiblePage = [] := by
  unfold State.choose
  dsimp only
  split
  · rename_i h
    simpa using maxBy_eq_none.1 h
  · rename_i best h
    have : s.paging.pages.filter s.eligiblePage ≠ [] := fun e => by rw [e] at h; cases h
    simp only [this, iff_false]
    repeat' split
    all_goals simp

theorem dirFind_none {a : Nat} {s : State} (h : ¬∃ e, some e ∈ s.paging.dir ∧ e.addr = a) : s.dirFind a = none := by
  unfold State.dirFind
  rw [List.findIdx?_eq_none_iff]
  intro x hx
  cases x with
  | none => rfl
  | some g =>
    simp only [decide_eq_false_iff_not]
    exact fun e => h ⟨g, hx, e⟩

/-! ### The service bus -/

theorem answering_iff (n : Node) : n.answering = true ↔ n.presence = .present ∨ n.presence = .silent := by
  unfold Node.answering
  simp

/-- A queued DELIVER of a page in delivery (R156). -/
theorem delivering_iff (s : State) (x : Tx) :
    s.delivering x = true ↔
      ∃ b id tg code arg, x = .deliver b id tg code arg ∧ ∃ g ∈ s.paging.pages, g.id = id ∧ g.inDelivery = true := by
  unfold State.delivering
  cases x with
  | deliver b id tg code arg =>
    simp only [List.any_eq_true, Bool.and_eq_true, decide_eq_true_eq]
    constructor
    · rintro ⟨g, h1, h2⟩
      exact ⟨b, id, tg, code, arg, rfl, g, h1, h2⟩
    · rintro ⟨_, _, _, _, _, h, g, h1, h2⟩
      cases h
      exact ⟨g, h1, h2⟩
  | _ => simp

/-- When an abandoned transaction returns to the list (R157; logs 22 and 31). -/
theorem returns_iff (s : State) (a : Nat) (f : InFlight) :
    let b := s.bus
    let list := b.urgent ++ b.fetch ++ b.ordinary
    s.returns a f = true ↔
      match f.tx with
      | .identify _ => ∀ x ∈ b.fetch ++ b.ordinary, ∀ y, x ≠ .identify y
      | .poll x => .poll x ∉ list
      | .set x => x ≠ a ∧ .set x ∉ list
      | .deliver _ _ _ _ _ => f.isVoid = false ∧ s.delivering f.tx = true ∧ (list.filter s.delivering).length < 2 := by
  dsimp only
  unfold State.returns
  cases hx : f.tx with
  | identify y =>
    simp only [Bool.not_eq_true', Bool.or_eq_false_iff, List.any_eq_false, List.mem_append]
    constructor
    · rintro ⟨h1, h2⟩ x (hx | hx) z rfl
      · exact h1 _ hx rfl
      · exact h2 _ hx rfl
    · intro h
      refine ⟨fun x hx => ?_, fun x hx => ?_⟩
      · have := h x (.inl hx)
        cases x with
        | identify z => exact absurd rfl (this z)
        | _ => simp [Tx.isIdentify]
      · have := h x (.inr hx)
        cases x with
        | identify z => exact absurd rfl (this z)
        | _ => simp [Tx.isIdentify]
  | poll y => simp [Bus.queued, Bus.waits, not_or]
  | set y => simp [Bus.queued, Bus.waits, not_or]
  | deliver => simp only [State.deliverPlace, Bool.and_eq_true, Bool.not_eq_true', decide_eq_true_eq, and_assoc]

end Sys2Proof.Machine
end

