-- ==== Sys2Proof/Tests/Slice0.lean ====
section
/-! SUPPORT. Tests: one ill-formed command for each check of well-formedness, a few steps on small states, and for every
obligation with hypotheses a theorem that shows values which meet them together, clause by clause. -/

open Sys2Proof Sys2Proof.Machine

namespace Sys2Proof.Tests

set_option Elab.async false

/-! ### States -/

/-- The part after reset, in a day state, port A with the configuration claim. -/
def at_ (d : DayState) : State :=
  State.reset.withDay { State.reset.day with
    state := d, claim := some .a, ret := if d = .lockout then some .service else none,
    cause := if d = .lockout then some 0 else none, feedcut := decide (d = .lockout) }

/-- An idle warmer of class 1 at address 2. -/
def warmer : Cab :=
  { Cab.initial with
    kind := .warmer, addr := some 2, state := .off, setpoint := 80, band := 5, heat := 100, hold := 40, standby := 10,
    cls := some 1, capacity := 200 }

/-- An idle oven at address 3. -/
def oven : Cab :=
  { Cab.initial with
    kind := .oven, addr := some 3, state := .off, setpoint := 180, band := 10, heat := 200, hold := 80, shelves := 10 }

def rack (tag : Nat) : Rack := ⟨tag, 1, 20, 1, none, none, 0, none, none, 0, false⟩

/-- A PRESENT node with a binding. -/
def present (t : NodeType) (b : Binding) : Node :=
  { Node.initial with type := some t, presence := .present, lastResp := some 0, binding := b }

/-- A small kitchen: warmer 0, oven 1, line 0 and the base, each with its node, and 100 plates of class 1. -/
def kit (d : DayState) : State :=
  { at_ d with
    wares := Ware.initial :: ⟨60, 100, 40, 0, 0, 60, 0, 0, 0⟩ :: List.replicate 6 Ware.initial,
    fns := Fn.house :: ⟨true, 3, 2, .fill, 23⟩ :: List.replicate 6 Fn.initial,
    cabs := warmer :: oven :: List.replicate 22 Cab.initial,
    lines := [{ Line.initial with addr := some 4, defFn := 1, booster := 50 }, Line.initial],
    power := { Power.initial with budget := 1000, shedHigh := 800, shedLow := 600 },
    paging := { Paging.initial with settings := ⟨some 5, 2, 4, some 120, 8, 8, 180⟩ },
    bus := { Bus.initial with
      guard := .free,
      nodes := Node.initial :: present .warmer (.cabinet 0) :: present .oven (.cabinet 1) :: present .washer (.line 0) ::
        present .pageBase .base :: List.replicate 26 Node.initial } }

/-- A cabinet changed. -/
def withCab (k : Nat) (f : Cab → Cab) (s : State) : State := s.setCab k (f (s.cab k))
/-- A line changed. -/
def withLine (l : Nat) (f : Line → Line) (s : State) : State := s.setLine l (f (s.line l))
/-- A node changed. -/
def withNode (a : Nat) (f : Node → Node) (s : State) : State := s.setNode a (f (s.node a))
/-- A consumer's grant and request. -/
def withGrant (c grant request : Nat) (s : State) : State :=
  s.setConsumer c { s.consumer c with grant := grant, request := request }
/-- A hold of a port. -/
def held (p : Port) (n : Nat) (s : State) : State := s.withHold ⟨some p, n, some 0⟩
/-- Course 0 in a state. -/
def withCourse (st : CourseState) (b : Option BatchArgs) (s : State) : State :=
  s.setCourse 0 { Course.initial with state := st, fn := 1, cls := 1, covers := 20, batch := b, station := 1 }
/-- A transaction in flight. -/
def inFlight (x : Tx) (attempt : Nat) (s : State) : State :=
  s.withBus { s.bus with inflight := some ⟨x, attempt, false, false⟩ }

def batch : BatchArgs := ⟨1, 4, 180, 600, 120⟩

/-- Oven 1 has course 0's batch. -/
def booked (st : BatchState) (left : Nat) (s : State) : State :=
  withCab 1 (fun c => { c with batches := [⟨0, 4, 180, left, st, none⟩] }) s

/-- A QUEUED page. -/
def page (id : Nat) (pr : Prio) : Page := ⟨id, .team 2, 0x80, 0, pr, .block, 0, .queued, false, none, 0, false, none, none⟩

def withPage (g : Page) (s : State) : State := s.withPaging { s.paging with pages := [g] }

/-! ### What the tests cite -/

theorem taken {i : Instr} {p : Port} {s : State}
    (h : s.day.resetLow = false ∧ (s.port p).slot = none ∧ commonRefusal i p s = none) : Admitted i p s :=
  ⟨⟨h.1, h.2.1⟩, h.2.2⟩

theorem sized {s : State}
    (h : [s.wares.length, s.fns.length, s.courses.length, s.cabs.length, s.lines.length, s.power.consumers.length,
      s.power.meters.length, s.paging.dir.length, s.paging.rush.length, s.paging.rates.length, s.bus.nodes.length,
      s.day.confirm.length] = [8, 8, 32, 24, 2, 26, 34, 64, 14, 14, 31, 24]) : Sized s := by
  simp only [List.cons.injEq, and_true] at h
  obtain ⟨h1, h2, h3, h4, h5, h6, h7, h8, h9, h10, h11, h12⟩ := h
  exact ⟨h1, h2, h3, h4, h5, h6, h7, h8, h9, h10, h11, h12⟩

theorem ready {p : Port} {s : State} (h : s.day.resetLow = false ∧ (s.port p).slot = none) : Ready p s := h

/-! ### Well-formedness: one ill-formed command for each check -/

theorem test_illFormed_port :
    [Instr.noticeFetch .a 256, .noticeSubscribe .a 256 0, .noticeSubscribe .a 0 256, .permitSet .a 256 0,
      .permitSet .a 0 256].all (fun i => !i.wf) = true := by decide

theorem test_illFormed_ware :
    [Instr.classSet .a 256 0, .classSet .a 0 65536, .wareStock .a 256 0, .wareStock .a 0 65536, .wareAdd .a 256 0,
      .wareAdd .a 0 65536, .wareMove .a 256 0 0, .wareMove .a 0 256 0, .wareMove .a 0 0 65536, .wareWriteOff .a 256 0 0,
      .wareWriteOff .a 0 256 0, .wareWriteOff .a 0 0 65536, .wareReturn .a 256 0 0, .wareReturn .a 0 256 0,
      .wareReturn .a 0 0 65536, .wareRead .a 256].all (fun i => !i.wf) = true := by decide

theorem test_illFormed_course :
    [Instr.functionSet .a 256 0 0 0 0, .functionSet .a 0 256 0 0 0, .functionSet .a 0 0 16777216 0 0,
      .functionSet .a 0 0 0 256 0, .functionSet .a 0 0 0 0 256, .courseDefine .a 256 ⟨0, 0, 0, .absent, 0, .absent⟩,
      .courseDefine .a 0 ⟨256, 0, 0, .absent, 0, .absent⟩, .courseDefine .a 0 ⟨0, 256, 0, .absent, 0, .absent⟩,
      .courseDefine .a 0 ⟨0, 0, 65536, .absent, 0, .absent⟩, .courseDefine .a 0 ⟨0, 0, 0, .absent, 256, .absent⟩,
      .courseDefine .a 0 ⟨0, 0, 0, .absent, 0, .present 4294967296⟩,
      .courseDefine .a 0 ⟨0, 0, 0, .undef 1, 0, .absent⟩, .courseDefine .a 0 ⟨0, 0, 0, .undef 256, 0, .absent⟩,
      .courseDefine .a 0 ⟨0, 0, 0, .present ⟨256, 0, 0, 0, 0⟩, 0, .absent⟩,
      .courseDefine .a 0 ⟨0, 0, 0, .present ⟨0, 256, 0, 0, 0⟩, 0, .absent⟩,
      .courseDefine .a 0 ⟨0, 0, 0, .present ⟨0, 0, 32768, 0, 0⟩, 0, .absent⟩,
      .courseDefine .a 0 ⟨0, 0, 0, .present ⟨0, 0, 0, 65536, 0⟩, 0, .absent⟩,
      .courseDefine .a 0 ⟨0, 0, 0, .present ⟨0, 0, 0, 0, 65536⟩, 0, .absent⟩,
      .courseArm .a 256, .courseFire .a 256, .courseRebatch .a 256 0, .courseRebatch .a 0 256, .courseCancel .a 256,
      .courseClose .a 256, .courseRead .a 256 0 0, .courseRead .a 0 256 0, .courseRead .a 0 1 256, .courseRead .a 0 0 1,
      .functionRead .a 256].all (fun i => !i.wf) = true := by decide

theorem test_illFormed_cabinet :
    [Instr.cabinetSet .a 256 0 ⟨0, 0, 0, 0, 0, 0, 0, 0, 0, 0⟩, .cabinetSet .a 0 256 ⟨0, 0, 0, 0, 0, 0, 0, 0, 0, 0⟩,
      .cabinetSet .a 0 0 ⟨1, 0, 0, 0, 0, 0, 0, 0, 0, 0⟩, .cabinetSet .a 0 1 ⟨256, 0, 0, 0, 0, 0, 0, 0, 0, 0⟩,
      .cabinetSet .a 0 1 ⟨0, 32768, 0, 0, 0, 0, 0, 0, 0, 0⟩, .cabinetSet .a 0 1 ⟨0, 0, 256, 0, 0, 0, 0, 0, 0, 0⟩,
      .cabinetSet .a 0 1 ⟨0, 0, 0, 65536, 0, 0, 0, 0, 0, 0⟩, .cabinetSet .a 0 1 ⟨0, 0, 0, 0, 65536, 0, 0, 0, 0, 0⟩,
      .cabinetSet .a 0 1 ⟨0, 0, 0, 0, 0, 65536, 0, 0, 0, 0⟩, .cabinetSet .a 0 1 ⟨0, 0, 0, 0, 0, 0, 256, 0, 0, 0⟩,
      .cabinetSet .a 0 1 ⟨0, 0, 0, 0, 0, 0, 0, 1, 0, 0⟩, .cabinetSet .a 0 2 ⟨0, 0, 0, 0, 0, 0, 1, 0, 0, 0⟩,
      .cabinetSet .a 0 2 ⟨0, 0, 0, 0, 0, 0, 0, 256, 0, 0⟩, .cabinetSet .a 0 2 ⟨0, 0, 0, 0, 0, 0, 0, 0, 65536, 0⟩,
      .cabinetSet .a 0 2 ⟨0, 0, 0, 0, 0, 0, 0, 0, 0, 65536⟩, .cabinetMode .a 256 0 0, .cabinetMode .a 0 256 0,
      .cabinetMode .a 0 0 256, .cabinetSetpoint .a 256 0 0, .cabinetSetpoint .a 0 (-32769) 0,
      .cabinetSetpoint .a 0 0 256, .cabinetRearm .a 256, .cabinetRead .a 256 0 0, .cabinetRead .a 0 256 0,
      .cabinetRead .a 0 1 256, .cabinetRead .a 0 0 1].all (fun i => !i.wf) = true := by decide

theorem test_illFormed_line :
    [Instr.lineSet .a 256 ⟨0, 0, 0, 0, 0, 0, 0, 0, 0⟩, .lineSet .a 0 ⟨256, 0, 0, 0, 0, 0, 0, 0, 0⟩,
      .lineSet .a 0 ⟨0, 256, 0, 0, 0, 0, 0, 0, 0⟩, .lineSet .a 0 ⟨0, 0, 256, 0, 0, 0, 0, 0, 0⟩,
      .lineSet .a 0 ⟨0, 0, 0, 32768, 0, 0, 0, 0, 0⟩, .lineSet .a 0 ⟨0, 0, 0, 0, 256, 0, 0, 0, 0⟩,
      .lineSet .a 0 ⟨0, 0, 0, 0, 0, 256, 0, 0, 0⟩, .lineSet .a 0 ⟨0, 0, 0, 0, 0, 0, 65536, 0, 0⟩,
      .lineSet .a 0 ⟨0, 0, 0, 0, 0, 0, 0, 65536, 0⟩, .lineSet .a 0 ⟨0, 0, 0, 0, 0, 0, 0, 0, 65536⟩,
      .lineMode .a 256 0, .lineMode .a 0 256, .rackAnnounce .a 256 0 0 0 .absent, .rackAnnounce .a 0 65536 0 0 .absent,
      .rackAnnounce .a 0 0 256 0 .absent, .rackAnnounce .a 0 0 0 256 .absent, .rackAnnounce .a 0 0 0 0 (.present 256),
      .rackRelease .a 256 0 0, .rackRelease .a 0 65536 0, .rackRelease .a 0 0 256, .rackClear .a 256 0,
      .rackClear .a 0 65536, .rackRead .a 256 0 0, .rackRead .a 0 256 0, .rackRead .a 0 0 65536,
      .lineRead .a 256].all (fun i => !i.wf) = true := by decide

theorem test_illFormed_power_paging_bus :
    [Instr.budgetSet .a 65536, .powerSet .a ⟨65536, 0, 0, 0, 0, 0⟩, .powerSet .a ⟨0, 65536, 0, 0, 0, 0⟩,
      .powerSet .a ⟨0, 0, 256, 0, 0, 0⟩, .powerSet .a ⟨0, 0, 0, 256, 0, 0⟩, .powerSet .a ⟨0, 0, 0, 0, 256, 0⟩,
      .powerSet .a ⟨0, 0, 0, 0, 0, 256⟩, .energyLoad .a 256 0, .energyLoad .a 0 4294967296, .powerRead .a 256 0,
      .powerRead .a 1 256, .powerRead .a 0 1, .energyRead .a 256, .energyReadRaw .a 256, .pageSend .a 256 0 0 0 0,
      .pageSend .a 0 256 0 0 0, .pageSend .a 0 0 256 0 0, .pageSend .a 0 0 0 65536 0, .pageSend .a 0 0 0 0 256,
      .pageCancel .a 256, .pagingSet .a ⟨256, 0, 0, 0, 0, 0, 0⟩, .pagingSet .a ⟨0, 256, 0, 0, 0, 0, 0⟩,
      .pagingSet .a ⟨0, 0, 256, 0, 0, 0, 0⟩, .pagingSet .a ⟨0, 0, 0, 256, 0, 0, 0⟩, .pagingSet .a ⟨0, 0, 0, 0, 256, 0, 0⟩,
      .pagingSet .a ⟨0, 0, 0, 0, 0, 256, 0⟩, .pagingSet .a ⟨0, 0, 0, 0, 0, 0, 65536⟩, .pageRead .a 256 0, .pageRead .a 0 256,
      .pagerRead .a 256 0, .pagerRead .a 0 256, .nodeRead .a 256 0, .nodeRead .a 0 256, .nodeRead .a 1 1].all
      (fun i => !i.wf) = true := by decide

theorem test_illFormed_event :
    [Instr.identReply 0 .oven 0 false, .identReply 32 .oven 0 false, .identReply 1 .oven 4294967296 false,
      .cabinetReport 0 ⟨0, 0, .off, 0, noConditions, none⟩ false,
      .cabinetReport 1 ⟨32768, 0, .off, 0, noConditions, none⟩ false,
      .cabinetReport 1 ⟨0, 32768, .off, 0, noConditions, none⟩ false,
      .cabinetReport 1 ⟨0, 0, .off, 65536, noConditions, none⟩ false,
      .cabinetReport 1 ⟨0, 0, .off, 0, noConditions, some (256, 0)⟩ false,
      .cabinetReport 1 ⟨0, 0, .off, 0, noConditions, some (0, 256)⟩ false, .washerReport 0 ⟨true, 0, 0, []⟩ false,
      .washerReport 1 ⟨true, 32768, 0, []⟩ false, .washerReport 1 ⟨true, 0, 65536, []⟩ false,
      .washerReport 1 ⟨true, 0, 0, List.replicate 9 (.enter 0 0)⟩ false, .washerReport 1 ⟨true, 0, 0, [.enter 256 0]⟩ false,
      .washerReport 1 ⟨true, 0, 0, [.enter 0 65536]⟩ false, .washerReport 1 ⟨true, 0, 0, [.exit 256 0 0]⟩ false,
      .washerReport 1 ⟨true, 0, 0, [.exit 0 65536 0]⟩ false, .washerReport 1 ⟨true, 0, 0, [.exit 0 0 32768]⟩ false,
      .baseReport 0 ⟨[], [], []⟩ false, .baseReport 1 ⟨List.replicate 54 0, [], []⟩ false, .baseReport 1 ⟨[256], [], []⟩ false,
      .baseReport 1 ⟨[], [(256, 0)], []⟩ false, .baseReport 1 ⟨[], [(0, 256)], []⟩ false, .baseReport 1 ⟨[], [], [256]⟩ false,
      .setAck 0 false, .deliverAck 0 true false, .pollTimerExpiry 0, .silenceTimerExpiry 32, .confirmTimerExpiry 24,
      .plannedFireTimeReached 32, .cookTimeComplete 32, .overHoldLimit 32, .lotWarm 24, .outOfBandExpiry 24,
      .sleepTimerExpiry 24, .doorTimerExpiry 24, .transitLimit 2 0, .transitLimit 0 65536, .routeTimeout 2 0,
      .routeTimeout 0 65536, .rushTimerEnd 0, .rushTimerEnd 15, .rateWindowClose 0, .rateWindowClose 15,
      .resendTimerExpiry 256, .pageLifetimeExpiry 256].all (fun i => !i.wf) = true := by decide

/-! ### Steps on small states -/

/-- The command answers a next state of which `q` holds. -/
def leaves (i : Instr) (s : State) (q : State → Bool) : Bool :=
  match exec i s with
  | .next t => q t
  | _ => false

/-- The scene of section 1.2: an announced rack's plates go to WASHING. -/
theorem test_rackAnnounce_moves_plates :
    leaves (.rackAnnounce .a 0 7 1 20 .absent) (kit .service) (fun t =>
      decide ((t.ware 1).soiled = 20 ∧ (t.ware 1).washing = 20 ∧ (t.line 0).staged.length = 1)) = true := by decide +kernel

/-- A cabinet switched on in SERVICE heats at once where the budget has room. -/
theorem test_cabinetMode_heats :
    leaves (.cabinetMode .a 0 0 0) (kit .service) (fun t =>
      decide ((t.cab 0).state = .heating ∧ (t.consumer 0).grant = 100 ∧ Tx.set 2 ∈ t.bus.ordinary)) = true := by decide +kernel

/-- An EXIT above the sanitize minimum leaves clean plates, one below a held rack. -/
theorem test_exitEvents :
    leaves (.washerReport 4 ⟨true, 85, 40, [.exit 1 7 84, .exit 2 8 80]⟩ false)
      (inFlight (.poll 4) 1 (withLine 0 (fun l => { l with inside := [rack 7, rack 8] }) (kit .service)))
      (fun t => decide ((t.line 0).exits.map (·.reason) = [none, some .rinse] ∧ (t.line 0).lastEvent = some 2)) = true := by decide +kernel

/-- PAGING_SET to another address returns the page in delivery, and the DELIVER in flight is void (R134, R156). -/
theorem test_pagingSet_voids_deliver :
    leaves (.pagingSet .a ⟨31, 1, 14, 2, 2, 8, 60⟩)
      (inFlight (.deliver 5 7 (.team 2) 0x80 0) 1 (withPage { page 7 .normal with inDelivery := true } (kit .opening)))
      (fun t => decide (t.bus.inflight.map (·.isVoid) = some true ∧ t.paging.pages.map (·.inDelivery) = [false] ∧
        (t.node 5).binding = .unbound)) = true := by decide +kernel

/-- A load of a warmer that is OFF takes nothing from CLEAN; one of a HOLDING warmer fills a lot (R71). -/
theorem test_loadDelta :
    decide (((applyLoad 0 5 (kit .service)).ware 1).clean = 60 ∧
      ((applyLoad 0 5 (withCab 0 (fun c => { c with state := .holding }) (kit .service))).ware 1).inWarmer = 5) = true := by
  decide +kernel

/-- The CRC of R187 on the digits 1 to 9, and the frame of an IDENTIFY to address 1. -/
theorem test_busFrame :
    crc16 [0x31#8, 0x32#8, 0x33#8, 0x34#8, 0x35#8, 0x36#8, 0x37#8, 0x38#8, 0x39#8] = 0x29B1#16 ∧
      (busFrame 1 1 []).take 4 = [0xB4#8, 0x01#8, 0x01#8, 0x00#8] ∧ (busFrame 1 1 []).length = 6 := by decide +kernel

/-! ### The hypotheses of the obligations are met -/

theorem test_hyps_StepRunsFrontCommand :
    ((at_ .opening).withPending [.holdBegin .a]).pending = .holdBegin .a :: [] ∧ State.reset.pending = [] := ⟨rfl, rfl⟩

theorem test_hyps_ResetsReturnEveryRecord :
    (powered true State.reset).day.resetLow = true ∧ State.reset.day.resetLow = false ∧
      Admitted (.deviceReset .a) .a (at_ .closing) ∧ (at_ .closing).day.state ≠ .lockout ∧
      Instr.handOff ≠ .powerOn ∧ Instr.handOff ≠ .resetN ∧ Instr.handOff ≠ .resetNRelease :=
  ⟨rfl, rfl, taken (by decide +kernel), by decide +kernel⟩

/-- A reply waits in the slot of port A. -/
def replied (s : State) : State := s.setPort .a { s.port .a with slot := some ⟨.ok, [7#8]⟩ }

theorem test_hyps_TransactionsByTheirBytes :
    (replied State.reset).day.resetLow = false ∧ (State.reset.port .a).slot = none ∧
      ((replied State.reset).port .a).slot = some ⟨.ok, [7#8]⟩ ∧ 3 < (Reply.frame ⟨.ok, [7#8]⟩).length ∧
      (Reply.frame ⟨.ok, [7#8]⟩).length ≤ 4 ∧ [2#8].length ≤ 1 ∧ [1#8, 0#8].head? = some 0x01#8 ∧
      2 ≤ [5#8, 0#8].length ∧ [5#8, 0#8].head? ≠ some 0x01#8 ∧ 40 < byteAt [5#8, 41#8] 1 ∧
      [5#8, 0#8].length ≠ byteAt [5#8, 0#8] 1 + 3 ∧ byteSum [5#8, 0#8, 0#8] ≠ 0 := by decide +kernel

theorem test_hyps_RequestBytesAreTaken :
    Ready .a State.reset ∧ 0xFF ∉ [0x01, 0x02, 0x80] ∧ (List.replicate 40 0#8).length ≤ 40 ∧
      (Instr.wareAdd .a 255 65535).wf = true ∧ requestPort (.wareAdd .a 255 65535) = some .a ∧
      (Instr.wareAdd .a 255 65535).request = some (0x22, [255#8, 255#8, 255#8]) ∧
      (replied State.reset).day.resetLow = false ∧ ((replied State.reset).port .a).slot ≠ none ∧
      ((0x02, 1) ∈ [((0x02 : Nat), (1 : Nat))] ∧ ([] : List Byte).length ≠ 1 ∧ (List.replicate 2 0#8).length ≠ 1) ∧
      (List.replicate 9 0#8).length ∉ [8, 12, 16, 20] ∧
      ((byteAt (List.replicate 12 0#8) 5 == 0 && byteAt (List.replicate 12 0#8) 7 == 0) = true ∧
        (List.replicate 12 0#8).length ≠ 8) :=
  ⟨ready (by decide +kernel), by decide +kernel⟩

theorem test_hyps_RequestFramesReadBack :
    (Instr.energyLoad .c 33 4294967295).wf = true ∧ requestPort (.energyLoad .c 33 4294967295) = some .c ∧
      (Instr.energyLoad .c 33 4294967295).request = some (0x62, [33#8, 255#8, 255#8, 255#8, 255#8]) := by decide +kernel

/-- Port A has lost its permissions. -/
def barred (s : State) : State := s.setPort .a { s.port .a with perms := 0 }

theorem test_hyps_CommonChecksRefuseInOrder :
    (permission (.dayOpen .a) = some 0 ∧ ((barred State.reset).port .a).perms.testBit 0 = false) ∧
      commonRefusal (.dayClose .a) .a (at_ .lockout) = some .lockedOut ∧
      commonRefusal (.courseArm .a 0) .a (held .b 3 (at_ .service)) = some .held ∧
      commonRefusal (.dayOpen .b) .b (at_ .opening) = some .claimed ∧
      (Ready .a (held .a 2 (barred State.reset)) ∧ isRead (.dayOpen .a) = false ∧ isHoldCommand (.dayOpen .a) = false ∧
        commonRefusal (.dayOpen .a) .a (held .a 2 (barred State.reset)) = some .denied) ∧
      commonRefusal (.dayOpen .a) .a (held .a 3 (barred State.reset)) = some .denied ∧ 2 + 1 < 4 ∧ 4 ≤ 3 + 1 :=
  ⟨by decide +kernel, by decide +kernel, by decide +kernel, by decide +kernel,
    ⟨ready (by decide +kernel), by decide +kernel⟩, by decide +kernel⟩

theorem test_hyps_HoldsBeginAndEnd :
    Ready .a (at_ .closing) ∧ (at_ .closing).day.state ≠ .lockout ∧ (at_ .closing).hold.owner = none ∧
      (held .b 0 (at_ .closing)).hold.owner = some .b ∧ Port.b ≠ .a ∧ Ready .a (held .a 3 (at_ .lockout)) ∧
      (held .a 3 (at_ .lockout)).hold.owner = some .a ∧ (held .a 3 (at_ .lockout)).hold.start = some 0 :=
  ⟨ready (by decide +kernel), by decide +kernel, rfl, rfl, by decide, ready (by decide +kernel), rfl, rfl⟩

theorem test_hyps_ConfigClaimTable :
    Admitted (.configClaim .a) .a State.reset ∧ State.reset.day.claim = none ∧ Admitted (.configClaim .b) .b (at_ .opening) ∧
      (at_ .opening).day.claim = some .a ∧ Port.a ≠ .b ∧ Admitted (.configClaim .a) .a (at_ .closing) ∧
      Admitted (.configRelease .a) .a (at_ .opening) ∧ Admitted (.configRelease .b) .b (at_ .opening) ∧
      Admitted (.configRelease .a) .a (at_ .service) :=
  ⟨taken (by decide +kernel), rfl, taken (by decide +kernel), rfl, by decide, taken (by decide +kernel),
    taken (by decide +kernel), taken (by decide +kernel), taken (by decide +kernel)⟩

theorem test_hyps_PermitSetWritesSet :
    Admitted (.permitSet .a Port.a.code 62) .a (at_ .opening) ∧ (62 : Nat).testBit 0 = false ∧
      (Port.b ≠ .a ∧ ((at_ .opening).port .b).perms.testBit 0 = true) ∧ (at_ .opening).day.claim = some .a ∧
      (63 : Nat).testBit 0 = true ∧ 63 < 64 ∧ Admitted (.permitSet .a Port.c.code 63) .a (at_ .opening) ∧
      Admitted (.permitSet .a Port.a.code 63) .a (at_ .service) ∧ Admitted (.permitSet .a Port.a.code 64) .a (at_ .opening) :=
  ⟨taken (by decide +kernel), by decide +kernel, by decide +kernel, rfl, by decide, by decide, taken (by decide +kernel),
    taken (by decide +kernel), taken (by decide +kernel)⟩

theorem test_hyps_port_commands :
    Ready .a (at_ .lockout) ∧ (held .a 3 (at_ .lockout)).hold.owner = some .a ∧ (at_ .lockout).hold.owner = none ∧
      Ready .a (held .a 3 (at_ .lockout)) ∧ Ready .a (held .b 0 (at_ .lockout)) ∧
      (held .b 0 (at_ .lockout)).hold.owner = some .b ∧ Port.b ≠ .a :=
  ⟨ready (by decide +kernel), rfl, rfl, ready (by decide +kernel), ready (by decide +kernel), rfl, by decide⟩

/-! ### Ware and courses -/

theorem test_hyps_WareSettingsWritten :
    Admitted (.classSet .a 7 7200) .a (at_ .opening) ∧ Admitted (.classSet .a 8 7201) .a (at_ .opening) ∧
      Admitted (.classSet .a 7 7200) .a (at_ .service) ∧ Admitted (.wareStock .a 7 30000) .a (at_ .opening) ∧
      Admitted (.wareStock .a 8 30001) .a (at_ .opening) ∧ Admitted (.wareStock .a 7 30000) .a (at_ .closing) ∧
      (∃ c ∈ (withCourse .served none (kit .opening)).courses, c.state ≠ .empty ∧ c.cls = 1) :=
  ⟨taken (by decide +kernel), taken (by decide +kernel), taken (by decide +kernel), taken (by decide +kernel),
    taken (by decide +kernel), taken (by decide +kernel), by decide +kernel⟩

/-- A course with 20 plates out, and 5 house plates. -/
def served (s : State) : State :=
  ((withCourse .served none s).setCourse 0
    { Course.initial with state := .served, cls := 1, covers := 20, plated := 20 }).setWare 1
    { s.ware 1 with plated := 25, house := 5, clean := 35 }

theorem test_hyps_WareCountsChange :
    Admitted (.wareAdd .a 0 30000) .a (kit .service) ∧ 0 < (kit .service).wares.length ∧
      ((kit .service).ware 0).stock + 30000 ≤ 30000 ∧ Admitted (.wareAdd .a 1 29901) .a (kit .service) ∧
      30000 < ((kit .service).ware 1).stock + 29901 ∧ Admitted (.wareMove .a 1 0 40) .a (kit .service) ∧
      ((kit .service).ware 1).soiled = 40 ∧ Admitted (.wareMove .a 1 0 41) .a (kit .service) ∧
      Admitted (.wareMove .a 1 1 60) .a (kit .service) ∧
      ((kit .service).ware 1).clean - (kit .service).committed 1 = 60 ∧ Admitted (.wareMove .a 1 1 61) .a (kit .service) ∧
      Admitted (.wareMove .a 1 2 1) .a (kit .service) ∧ Admitted (.wareWriteOff .a 1 0 40) .a (kit .service) ∧
      Admitted (.wareWriteOff .a 1 1 61) .a (kit .service) ∧ Admitted (.wareWriteOff .a 1 3 1) .a (kit .service) ∧
      Admitted (.wareWriteOff .a 1 2 5) .a (served (kit .service)) ∧ ((served (kit .service)).ware 1).house = 5 ∧
      ((served (kit .service)).ware 1).house ≤ ((served (kit .service)).ware 1).plated ∧
      Admitted (.wareWriteOff .a 1 2 6) .a (served (kit .service)) :=
  ⟨taken (by decide +kernel), by decide +kernel, by decide +kernel, taken (by decide +kernel), by decide +kernel,
    taken (by decide +kernel), rfl, taken (by decide +kernel), taken (by decide +kernel), by decide +kernel,
    taken (by decide +kernel), taken (by decide +kernel), taken (by decide +kernel), taken (by decide +kernel),
    taken (by decide +kernel), taken (by decide +kernel), rfl, by decide +kernel, taken (by decide +kernel)⟩

theorem test_hyps_WareReturnTakesPlatesBack :
    Admitted (.wareReturn .a 0 0 20) .a (served (kit .service)) ∧ 0 < (served (kit .service)).courses.length ∧
      ((served (kit .service)).course 0).state ≠ .empty ∧
      20 ≤ ((served (kit .service)).course 0).plated - ((served (kit .service)).course 0).returned ∧
      Admitted (.wareReturn .a 0 0 21) .a (served (kit .service)) ∧ ((kit .service).course 31).state = .empty ∧
      Admitted (.wareReturn .a 0 31 1) .a (kit .service) ∧ Admitted (.wareReturn .a 0 32 3001) .a (kit .service) ∧
      Admitted (.wareReturn .a 1 1 5) .a (served (kit .service)) ∧ ((served (kit .service)).ware 1).house = 5 ∧
      Admitted (.wareReturn .a 1 1 6) .a (served (kit .service)) ∧ Admitted (.wareReturn .a 1 8 1) .a (kit .service) :=
  ⟨taken (by decide +kernel), by decide +kernel, by decide +kernel, by decide +kernel, taken (by decide +kernel), rfl,
    taken (by decide +kernel), taken (by decide +kernel), taken (by decide +kernel), rfl, taken (by decide +kernel),
    taken (by decide +kernel)⟩

theorem test_hyps_WareReadReply : Ready .a (kit .lockout) ∧ 7 < 8 ∧ 8 ≤ 8 := ⟨ready (by decide +kernel), by decide⟩

theorem test_hyps_FunctionSetWritesRecord :
    Admitted (.functionSet .a 0 0 0 0 2) .a (kit .opening) ∧ RouteMode.spread.code = 2 ∧
      Admitted (.functionSet .a 7 0 0xFFFFFF 14 1) .a (kit .opening) ∧ Admitted (.functionSet .a 7 1 0 0 0) .a (kit .opening) ∧
      (∀ c ∈ (kit .opening).courses, c.state = .empty) ∧
      Admitted (.functionSet .a 1 1 0 0 0) .a (withCourse .served none (kit .opening)) ∧
      (∃ c ∈ (withCourse .served none (kit .opening)).courses, c.state ≠ .empty ∧ c.fn = 1) ∧
      Admitted (.functionSet .a 7 0 0 1 0) .a (kit .service) ∧ Admitted (.functionSet .a 0 1 0 0 0) .a (kit .opening) :=
  ⟨taken (by decide +kernel), rfl, taken (by decide +kernel), taken (by decide +kernel), by decide +kernel,
    taken (by decide +kernel), by decide +kernel, taken (by decide +kernel), taken (by decide +kernel)⟩

theorem test_hyps_CourseDefinePlansCourse :
    Admitted (.courseDefine .a 31 ⟨1, 7, 3000, .present ⟨1, 10, 250, 60, 3600⟩, 32, .present 1⟩) .a (kit .service) ∧
      ((kit .service).cab 1).kind = .oven ∧ 10 ≤ ((kit .service).cab 1).shelves ∧ (kit .service).day.clock < 1 ∧
      31 < (kit .service).courses.length ∧ ((kit .service).fn 1).used = true ∧ ((kit .service).course 31).state = .empty ∧
      ((kit .service).fn 7).used = false ∧
      Admitted (.courseDefine .a 0 ⟨7, 0, 1, .absent, 1, .absent⟩) .a (withCourse .planned none (kit .service)) ∧
      ((withCourse .planned none (kit .service)).course 0).state ≠ .empty ∧
      Admitted (.courseDefine .a 0 ⟨1, 0, 1, .absent, 33, .present 0⟩) .a (kit .opening) :=
  ⟨taken (by decide +kernel), by decide +kernel, by decide +kernel, by decide +kernel, by decide +kernel, rfl, rfl, rfl,
    taken (by decide +kernel), by decide +kernel, taken (by decide +kernel)⟩

theorem test_hyps_BatchesAreBooked_arm :
    Admitted (.courseArm .a 0) .a (withCourse .planned none (kit .service)) ∧
      ((withCourse .planned (some batch) (kit .service)).course 0).batch = some batch ∧
      Admitted (.courseArm .a 0) .a (withCourse .planned (some batch) (kit .service)) ∧
      ((kit .service).cab 1).state = .off ∧ ¬clashes ((kit .service).cab 1) 4 180 ∧
      clashes ((booked .booked 600 (kit .service)).cab 1) 7 180 ∧ clashes ((booked .booked 600 (kit .service)).cab 1) 4 181 ∧
      ((withCab 1 (fun c => { c with state := .fault }) (kit .service)).cab 1).state = .fault ∧
      4 ≤ (List.replicate 4 (⟨2, 1, 180, 60, .booked, none⟩ : Batch)).length ∧
      Admitted (.courseArm .a 31) .a (kit .service) ∧ ((kit .service).course 31).state = .empty ∧
      Admitted (.courseArm .a 0) .a (withCourse .armed none (kit .service)) ∧ Admitted (.courseArm .a 32) .a (kit .service) :=
  ⟨taken (by decide +kernel), rfl, taken (by decide +kernel), rfl, by unfold clashes; decide +kernel,
    by unfold clashes; decide +kernel, by unfold clashes; decide +kernel, rfl, by decide, taken (by decide +kernel), rfl,
    taken (by decide +kernel), taken (by decide +kernel)⟩

/-- The fire counter is exhausted. -/
def exhausted (s : State) : State := s.withFire ⟨65535, true⟩

/-- Course 0 has a planned fire time. -/
def timed (st : CourseState) (t : Nat) (s : State) : State :=
  (withCourse st none s).setCourse 0 { (withCourse st none s).course 0 with fireTime := some t }

theorem test_hyps_CoursesFire :
    Admitted (.courseFire .a 0) .a (withCourse .armed none (kit .service)) ∧
      ((withCourse .armed none (kit .service)).course 0).state = .armed ∧ (kit .service).fire.exhausted = false ∧
      (exhausted (kit .service)).fire.exhausted = true ∧
      Admitted (.courseFire .a 0) .a (exhausted (withCourse .armed none (kit .service))) ∧
      Admitted (.courseFire .a 31) .a (kit .service) ∧ Admitted (.courseFire .a 0) .a (withCourse .planned none (kit .service)) ∧
      Admitted (.courseFire .a 32) .a (kit .service) ∧ ((timed .armed 0 (kit .service)).course 0).fireTime = some 0 ∧
      ((timed .armed 0 (kit .service)).course 0).state = .armed ∧ 0 ≤ (kit .service).day.clock ∧
      ((timed .planned 0 (kit .service)).course 0).state ≠ .armed ∧ 0 < (kit .service).courses.length :=
  ⟨taken (by decide +kernel), rfl, rfl, rfl, taken (by decide +kernel), taken (by decide +kernel), taken (by decide +kernel),
    taken (by decide +kernel), rfl, rfl, by decide, by decide +kernel, by decide +kernel⟩

/-- Course 0 owes two plates of class 1, which warmer 0 may give. -/
def owes (st : CourseState) (s : State) : State :=
  let s := (withCourse st none s).setFn 1 ⟨true, 1, 2, .fill, 23⟩
  s.setCourse 0 { s.course 0 with owed := 2, fireSeq := some 7 }

/-- Warmer 0 holds three plates of its class, warm since the first second. -/
def stocked (s : State) : State := withCab 0 (fun c => { c with state := .holding, lots := [⟨3, some 0⟩] }) s

theorem test_hyps_CoursesFire_earmarks :
    (let s := stocked (owes .fired (kit .service))
     0 < s.courses.length ∧ min (s.freePlates 0) (s.course 0).owed = 2 ∧ (s.cab 0).cls = some 1 ∧
       (s.cab 0).kind = .warmer ∧ (s.cab 0).state = .holding ∧ (s.course 0).cls = 1 ∧
       (s.fn (s.course 0).fn).members.testBit 0 = true ∧ 0 ∈ s.owing 1 ∧ s.earmarks.filter (fun e => e.cab = 0) = []) ∧
      min ((kit .service).freePlates 23) ((kit .service).course 31).owed = 0 ∧
      (let s := (owes .fired (kit .service)).withEarmarks [⟨0, 0, 1⟩]
       (s.earmarks.filter fun e => e.cab = 0) ≠ [] ∧ ((setOwed 0 3 (setEarmark 0 0 0 s)).cab 0).cls = some 1) := by
  decide +kernel

/-- An oven at slot 2 besides. -/
def ovens (s : State) : State := withCab 2 (fun _ => { oven with addr := some 6 }) s

theorem test_hyps_BatchesAreBooked_rebatch :
    (let s := ovens (booked .booked 600 (withCourse .armed (some batch) (kit .service)))
     Admitted (.courseRebatch .a 0 2) .a s ∧ (s.course 0).batch = some batch ∧
       s.batchOf 0 = some ⟨0, 4, 180, 600, .booked, none⟩ ∧ (s.cab 2).kind = .oven ∧ batch.oven ≠ 2 ∧
       batch.shelves ≤ (s.cab 2).shelves ∧ ¬clashes (s.cab 2) 4 180 ∧ clashes (s.cab 2) 11 180) ∧
      Admitted (.courseRebatch .a 0 1) .a (booked .cooking 1 (withCourse .fired (some batch) (kit .service))) ∧
      Admitted (.courseRebatch .a 0 1) .a (withCourse .armed none (kit .service)) ∧
      Admitted (.courseRebatch .a 31 1) .a (kit .service) :=
  ⟨⟨taken (by decide +kernel), rfl, by decide +kernel, rfl, by decide, by decide +kernel,
    by unfold clashes; decide +kernel, by unfold clashes; decide +kernel⟩, taken (by decide +kernel),
    taken (by decide +kernel), taken (by decide +kernel)⟩

theorem test_hyps_CoursesEnd :
    Admitted (.courseCancel .a 0) .a (withCourse .ready none (kit .service)) ∧ Admitted (.courseCancel .a 31) .a (kit .service) ∧
      Admitted (.courseCancel .a 0) .a (withCourse .served none (kit .service)) ∧
      Admitted (.courseCancel .a 0) .a (withCourse .armed none (kit .closing)) ∧
      Admitted (.courseCancel .a 32) .a (kit .service) ∧
      Admitted (.courseClose .a 0) .a (withCourse .cancelled none (kit .opening)) ∧
      Admitted (.courseClose .a 31) .a (kit .opening) ∧ Admitted (.courseClose .a 0) .a (withCourse .fired none (kit .service)) ∧
      Admitted (.courseClose .a 32) .a (kit .opening) :=
  ⟨taken (by decide +kernel), taken (by decide +kernel), taken (by decide +kernel), taken (by decide +kernel),
    taken (by decide +kernel), taken (by decide +kernel), taken (by decide +kernel), taken (by decide +kernel),
    taken (by decide +kernel)⟩

/-- A COURSE_READY page that names course 0. -/
def readyPage : Page := { page 3 .normal with code := 0x01, course := some 0 }

theorem test_hyps_CoursesEnd_pages :
    (withPage readyPage (kit .service)).page 3 = some readyPage ∧ readyPage.state = .queued ∧ readyPage.inDelivery = false ∧
      ((withPage readyPage (kit .service)).paging.pages.filter fun g => g.course = some 0 ∧ (true = true → g.code = 0x01)) =
        [readyPage] ∧
      (withPage { readyPage with state := .handed } (kit .service)).page 3 = some { readyPage with state := .handed } ∧
      (withPage { readyPage with inDelivery := true } (kit .service)).page 3 = some { readyPage with inDelivery := true } ∧
      (withPage { readyPage with state := .sent } (kit .service)).page 3 = some { readyPage with state := .sent } := by
  decide +kernel

theorem test_hyps_BatchAndCabinetTimersAct_judged :
    (let s := withCourse .fired none (kit .service)
     (s.course 0).state = .fired ∧ (s.course 0).batch = none ∧ (s.course 0).owed = 0 ∧ s.earmarks = [] ∧
       (s.fn (s.course 0).fn).team = 2 ∧ 0 ∈ s.activeCourses) ∧
      ((owes .ready (kit .service)).course 0).state = .ready ∧ ((owes .ready (kit .service)).course 0).owed ≠ 0 ∧
      (let o := owes .fired (kit .service)
       let s := booked .done 0 (o.setCourse 0 { o.course 0 with batch := some batch })
       (s.course 0).state = .fired ∧ s.batchOf 0 = some ⟨0, 4, 180, 0, .done, none⟩ ∧ 0 < (s.course 0).owed ∧
         (s.course 0).shortPaged = false) ∧
      ((kit .service).course 31).state = .empty ∧ 14 < 15 ∧ (stocked (kit .service)).readyPlates 0 = 0 ∧
      ((stocked (kit .service)).cab 0).cls = some 1 := by decide +kernel

theorem test_hyps_BatchAndCabinetTimersAct_batch :
    (let s := booked .cooking 0 (withCourse .fired (some batch) (kit .service))
     s.day.resetLow = false ∧ (s.course 0).batch = some batch ∧ s.batchOf 0 = some ⟨0, 4, 180, 0, .cooking, none⟩) ∧
      (let s := withCab 1 (fun c => { c with batches := [⟨0, 4, 180, 0, .done, some 0⟩] })
        (withCourse .fired (some { batch with overHold := 0 }) (kit .service))
       s.batchOf 0 = some ⟨0, 4, 180, 0, .done, some 0⟩ ∧ 0 + 0 ≤ s.day.clock ∧ (s.course 0).overHoldPaged = false) := by
  decide +kernel

/-! ### Cabinets and lines -/

/-- Warmer 0 in a state. -/
def warmIn (st : CabState) (s : State) : State := withCab 0 (fun c => { c with state := st }) s

def ovenArgs : CabinetArgs := ⟨3, 250, 20, 400, 400, 0, 20, 0, 0, 0⟩
def warmerArgs : CabinetArgs := ⟨2, 95, 2, 1, 1, 1, 0, 0xFF, 600, 0⟩

theorem test_hyps_CabinetSetConfiguresSlot :
    (Admitted (.cabinetSet .a 1 CabKind.oven.code ovenArgs) .a (kit .opening) ∧ Sized (kit .opening) ∧
      ((kit .opening).node 3).presence = .present ∧ ((kit .opening).node 3).type = some .oven ∧
      ∀ j, j < 24 → j ≠ 1 → ¬(((kit .opening).cab j).kind ≠ .empty ∧ ((kit .opening).cab j).addr = some 3)) ∧
      Admitted (.cabinetSet .a 23 CabKind.warmer.code { warmerArgs with addr := 31 }) .a (kit .opening) ∧
      (((kit .opening).node 31).presence = .unknown ∧ ((kit .opening).node 31).binding = .unbound) ∧
      Admitted (.cabinetSet .a 0 CabKind.empty.code ⟨0, 0, 0, 0, 0, 0, 0, 0, 0, 0⟩) .a (kit .opening) ∧
      Admitted (.cabinetSet .a 24 CabKind.warmer.code warmerArgs) .a (kit .opening) ∧
      Admitted (.cabinetSet .a 5 CabKind.oven.code { ovenArgs with shelves := 21 }) .a (kit .opening) ∧
      (Admitted (.cabinetSet .a 5 CabKind.warmer.code warmerArgs) .a (kit .opening) ∧
        ((kit .opening).cab 0).kind ≠ .empty ∧ ((kit .opening).cab 0).addr = some 2) ∧
      Admitted (.cabinetSet .a 0 CabKind.warmer.code warmerArgs) .a (kit .service) ∧
      ((warmIn .fault (kit .opening)).cab 0).state = .fault :=
  ⟨⟨taken (by decide +kernel), sized (by decide +kernel), rfl, rfl, by decide +kernel⟩, taken (by decide +kernel),
    ⟨rfl, rfl⟩, taken (by decide +kernel), taken (by decide +kernel), taken (by decide +kernel),
    ⟨taken (by decide +kernel), by decide +kernel, rfl⟩, taken (by decide +kernel), rfl⟩

theorem test_hyps_CabinetModeSwitchesCabinet :
    (Admitted (.cabinetMode .a 0 0 0) .a (kit .service) ∧ Sized (kit .service) ∧ ((kit .service).cab 0).state = .off) ∧
      (Admitted (.cabinetMode .a 0 0 1) .a (kit .opening) ∧ ((kit .opening).cab 0).kind ≠ .empty) ∧
      Admitted (.cabinetMode .a 0 0 0) .a (kit .closing) ∧ Admitted (.cabinetMode .a 0 0 0) .a (warmIn .fault (kit .service)) ∧
      Admitted (.cabinetMode .a 23 0 0) .a (kit .service) ∧ Admitted (.cabinetMode .a 24 0 2) .a (kit .service) ∧
      (Admitted (.cabinetMode .a 0 1 0) .a (warmIn .holding (kit .service)) ∧
        ((warmIn .holding (kit .service)).cab 0).state.on = true ∧ (warmIn .holding (kit .service)).earmarkedAt 0 = 0) ∧
      (Admitted (.cabinetMode .a 0 1 1) .a (kit .closing) ∧ ((kit .closing).cab 0).state.on = false) ∧
      (Admitted (.cabinetMode .a 0 1 0) .a ((kit .service).withEarmarks [⟨0, 0, 1⟩]) ∧
        0 < ((kit .service).withEarmarks [⟨0, 0, 1⟩]).earmarkedAt 0) ∧
      (Admitted (.cabinetMode .a 1 1 0) .a (booked .done 0 (kit .service)) ∧
        ((booked .done 0 (kit .service)).cab 1).batches ≠ []) :=
  ⟨⟨taken (by decide +kernel), sized (by decide +kernel), rfl⟩, ⟨taken (by decide +kernel), by decide +kernel⟩,
    taken (by decide +kernel), taken (by decide +kernel), taken (by decide +kernel), taken (by decide +kernel),
    ⟨taken (by decide +kernel), by decide +kernel⟩, ⟨taken (by decide +kernel), rfl⟩,
    ⟨taken (by decide +kernel), by decide +kernel⟩, taken (by decide +kernel), by decide +kernel⟩

theorem test_hyps_CabinetModeSwitchesCabinet_states :
    ((warmIn .holding (kit .service)).cab 0).state = .holding ∧
      ((stocked (kit .service)).cab 0).lots ≠ [] ∧ ((warmIn .off (stocked (kit .service))).cab 0).state = .off ∧
      ((warmIn .off (stocked (kit .service))).cab 0).lots ≠ [] ∧ ((kit .service).cab 1).kind = .oven ∧
      ((kit .service).consumer 0).grant < 100 ∧ 200 ≤ ((withGrant 25 200 250 (kit .service)).consumer 25).grant := by
  decide +kernel

/-- Warmer 0 in a state, at a temperature. -/
def warmAt (st : CabState) (t : Int) (s : State) : State := withCab 0 (fun c => { c with state := st, temp := t }) s

theorem test_hyps_CabinetSetpointAndRearm_setpoint :
    (Admitted (.cabinetSetpoint .a 0 95 20) .a (warmAt .heating 75 (kit .service)) ∧
      Sized (warmAt .heating 75 (kit .service)) ∧ ((warmAt .heating 75 (kit .service)).cab 0).temp = 75) ∧
      (Admitted (.cabinetSetpoint .a 0 60 2) .a (warmAt .holding 55 (kit .service)) ∧
        ((warmAt .holding 55 (kit .service)).cab 0).temp < 60 - 2 * 2) ∧
      Admitted (.cabinetSetpoint .a 0 60 2) .a (warmAt .holding 56 (kit .service)) ∧
      Admitted (.cabinetSetpoint .a 1 250 2) .a (booked .waiting 5 (kit .service)) ∧
      Admitted (.cabinetSetpoint .a 23 60 2) .a (kit .service) ∧ Admitted (.cabinetSetpoint .a 0 96 21) .a (kit .service) :=
  ⟨⟨taken (by decide +kernel), sized (by decide +kernel), rfl⟩, ⟨taken (by decide +kernel), by decide +kernel⟩,
    taken (by decide +kernel), taken (by decide +kernel), taken (by decide +kernel), taken (by decide +kernel)⟩

/-- Warmer 0 in FAULT with live and latched conditions. -/
def faulty (live latched : CondSet) (s : State) : State :=
  withCab 0 (fun c => { c with state := .fault, live := live, latchedSet := latched, latched := true }) s

def doorOnly : CondSet := ⟨true, false, false, false⟩
def hotOnly : CondSet := ⟨false, true, false, false⟩

theorem test_hyps_CabinetSetpointAndRearm_rearm :
    (Admitted (.cabinetRearm .a 0) .a (faulty hotOnly hotOnly (kit .service)) ∧
      Sized (faulty hotOnly hotOnly (kit .service)) ∧
      ((faulty hotOnly hotOnly (kit .service)).cab 0).live.overtemp = true) ∧
      (Admitted (.cabinetRearm .a 0) .a (faulty doorOnly hotOnly (kit .service)) ∧
        ((faulty doorOnly hotOnly (kit .service)).cab 0).live ≠ ((faulty doorOnly hotOnly (kit .service)).cab 0).latchedSet ∧
        ((kit .service).node 2).presence = .present ∧ ((kit .service).node 2).binding = .cabinet 0) ∧
      (withNode 2 (fun n => { n with presence := .lost, binding := .unbound }) (faulty doorOnly hotOnly (kit .service))).node 2
        ≠ (kit .service).node 2 ∧
      Admitted (.cabinetRearm .a 23) .a (kit .service) ∧ Admitted (.cabinetRearm .a 24) .a (kit .service) :=
  ⟨⟨taken (by decide +kernel), sized (by decide +kernel), rfl⟩,
    ⟨taken (by decide +kernel), by decide +kernel, rfl, rfl⟩, by decide +kernel, taken (by decide +kernel),
    taken (by decide +kernel)⟩

theorem test_hyps_BatchAndCabinetTimersAct_cabinet :
    Sized (kit .service) ∧
      0 < ((withCab 0 (fun c => { c with lots := [⟨1, some 0⟩] }) (kit .service)).setWare 1 Ware.initial).readyPlates 0 ∧
      ((withCab 0 (fun c => { c with oobT := some 0 }) (kit .service)).cab 0).oobT = some 0 ∧
      ((withCab 0 (fun c => { c with sleepT := some 0, state := .holding }) (kit .service)).cab 0).state = .holding ∧
      ((withCab 23 (fun c => { c with doorT := some 0 }) (kit .service)).cab 23).doorT = some 0 :=
  ⟨sized (by decide +kernel), by decide +kernel, rfl, rfl, rfl⟩

/-- Warmer 0 holds one plate, and the class has it in warmers. -/
def onePlate (s : State) : State :=
  (withCab 0 (fun c => { c with state := .holding, lots := [⟨1, none⟩] }) s).setWare 1 { s.ware 1 with inWarmer := 1 }

theorem test_hyps_LoadsAndDrawsMovePlates :
    ((kit .service).cab 0).state = .off ∧ ((warmIn .fault (kit .service)).cab 0).state = .fault ∧
      (let c := (warmIn .holding (kit .service)).cab 0
       c.state ≠ .off ∧ c.state ≠ .fault ∧ c.cls = some 1 ∧ c.lotTotal + c.pending + (200 - min 200 c.pending) ≤ c.capacity ∧
         0 < 201 - min 201 c.pending ∧ c.capacity < c.lotTotal + c.pending + (201 - min 201 c.pending)) ∧
      ((kit .service).cab 23).cls = none ∧ min (min 1 ((kit .service).cab 0).lotTotal) ((kit .service).ware 1).inWarmer = 0 ∧
      0 < min (min 1 ((onePlate (kit .service)).cab 0).lotTotal) ((onePlate (kit .service)).ware 1).inWarmer ∧
      0 < (onePlate (kit .service)).freePlates 0 ∧ (kit .service).freePlates 0 = 0 ∧
      0 < ((onePlate (kit .service)).withEarmarks [⟨0, 0, 1⟩]).earmark 0 0 ∧
      ((kit .service).withEarmarks [⟨0, 2, 1⟩]).otherEarmark 0 0 = some 2 ∧ (kit .service).otherEarmark 0 0 = none ∧
      0 < (kit .service).courses.length := by decide +kernel

/-- Warmers 0 and 2 with the earmarks of a FIRED course 1 and a READY course 0, which came second and third. -/
def contested (s : State) : State :=
  ((withCourse .ready none s).setCourse 0 { (withCourse .ready none s).course 0 with fireSeq := some 2 }).setCourse 1
    { (withCourse .fired none s).course 0 with fireSeq := some 1, owed := 3 } |>.withEarmarks [⟨0, 0, 4⟩, ⟨0, 2, 1⟩, ⟨1, 0, 5⟩]

theorem test_hyps_LoadsAndDrawsMovePlates_holders :
    let s := contested (warmIn .holding (kit .service))
    s.serving 0 = some 0 ∧ (kit .service).serving 0 = none ∧
      ((∃ e ∈ s.earmarks, e.course = 0 ∧ e.cab = 0) ∧ (s.course 0).state = .ready ∧
        (s.cab 0).cls = some (s.course 0).cls ∧ ∃ e ∈ s.earmarks, e.course = 1 ∧ e.cab = 0) ∧
      (robYoungest 0 s).earmark 0 0 = 3 ∧ (∀ e ∈ s.earmarks, e.cab ≠ 1) ∧ s.otherEarmark 0 0 = some 2 ∧
      s.otherEarmark 1 0 = none := by decide +kernel

theorem test_hyps_LoadsAndDrawsMovePlates_plates :
    (let l : Lot := ⟨4, none⟩
     1 ≤ 4 ∧ l.count ≤ 4 ∧ 3 < l.count) ∧
      (let r : Route := ⟨0, 7, 20, 19⟩
       r.loaded < r.count) ∧
      (let r : Route := ⟨0, 7, 20, 20⟩
       r.count ≤ r.loaded) := by decide +kernel

theorem test_hyps_CabinetReportsAreJudged :
    Sized (kit .service) ∧ ((kit .service).cab 0).live = noConditions ∧ hotOnly.overtemp = true ∧
      ((kit .service).cab 0).state ≠ .fault ∧ ((warmIn .fault (kit .service)).cab 0).state = .fault ∧
      (let c := (booked .waiting 5 (kit .service)).cab 1
       ∃ b ∈ c.batches, b.course < 32) ∧
      (let c := (warmAt .heating 75 (kit .service)).cab 0
       c.state = .heating ∧ c.setpoint - c.band ≤ c.temp) ∧
      (let c := (warmAt .holding 69 (kit .service)).cab 0
       c.state = .holding ∧ c.temp < c.setpoint - 2 * c.band) ∧
      (let c := (withCab 0 (fun c => { c with wantMode := .hold }) (warmAt .waitPower 75 (kit .service))).cab 0
       c.state = .waitPower ∧ c.wantMode = .hold ∧ c.setpoint - c.band ≤ c.temp) ∧
      ((warmAt .heating 74 (kit .service)).cab 0).temp < 80 - 5 ∧ ((kit .service).cab 0).kind = .warmer ∧
      ((kit .service).cab 1).kind = .oven ∧ 24 ≤ 25 :=
  ⟨sized (by decide +kernel), by decide +kernel⟩

theorem test_hyps_CabinetReportsAreJudged_band :
    (let c := (warmAt .holding 75 (kit .service)).cab 0
     c.kind = .warmer ∧ c.setpoint - c.band ≤ c.temp) ∧
      (let c := (warmAt .holding 74 (kit .service)).cab 0
       c.kind = .warmer ∧ ¬c.setpoint - c.band ≤ c.temp ∧ c.oobT = none) ∧
      (let c := (withCab 0 (fun c => { c with oobT := some 60 }) (warmAt .holding 74 (kit .service))).cab 0
       ¬c.setpoint - c.band ≤ c.temp ∧ c.oobT ≠ none) ∧
      ((kit .service).cab 1).kind ≠ .warmer ∧ (0 + 256 - 255 % 256) % 256 = 1 := by decide +kernel

def lineArgs : LineArgs := ⟨31, 1, 1, 90, 8, 7, 1800, 1800, 300⟩

theorem test_hyps_LineCommandsAct_set :
    (Admitted (.lineSet .a 1 lineArgs) .a (kit .opening) ∧ Sized (kit .opening) ∧
      ((kit .opening).line 0).addr ≠ some 31 ∧ ((kit .opening).fn 1).used = true) ∧
      Admitted (.lineSet .a 1 { lineArgs with low := 8 }) .a (kit .opening) ∧
      (Admitted (.lineSet .a 1 { lineArgs with addr := 4 }) .a (kit .opening) ∧ ((kit .opening).line 0).addr = some 4) ∧
      (Admitted (.lineSet .a 0 { lineArgs with defFn := 7 }) .a (kit .opening) ∧ ((kit .opening).fn 7).used = false) ∧
      Admitted (.lineSet .a 0 lineArgs) .a (kit .service) :=
  ⟨⟨taken (by decide +kernel), sized (by decide +kernel), by decide +kernel, rfl⟩, taken (by decide +kernel),
    ⟨taken (by decide +kernel), rfl⟩, ⟨taken (by decide +kernel), rfl⟩, taken (by decide +kernel)⟩

theorem test_hyps_LineCommandsAct_mode :
    (Admitted (.lineMode .a 0 0) .a (kit .service) ∧ Sized (kit .service) ∧ ((kit .service).line 0).opRun ≠ true ∧
      (kit .service).dayRuns = true ∧ 0 < ((kit .service).line 0).booster ∧ ((kit .service).consumer 24).request = 0) ∧
      (Admitted (.lineMode .a 1 1) .a (kit .service) ∧ ((kit .service).line 1).opRun = false) ∧
      (Admitted (.lineMode .a 0 1) .a (withLine 0 (fun l => { l with opRun := true }) (kit .service)) ∧
        ((withLine 0 (fun l => { l with opRun := true }) (kit .service)).line 0).opRun = true) ∧
      Admitted (.lineMode .a 2 2) .a (kit .service) :=
  ⟨⟨taken (by decide +kernel), sized (by decide +kernel), by decide +kernel⟩, ⟨taken (by decide +kernel), rfl⟩,
    ⟨taken (by decide +kernel), rfl⟩, taken (by decide +kernel)⟩

/-- A second washer, at address 6, that no line names. -/
def washer (s : State) : State := withNode 6 (fun _ => present .washer .unbound) s

theorem test_hyps_LineCommandsAct_moved :
    Admitted (.lineSet .a 0 { lineArgs with addr := 6 }) .a (washer (kit .opening)) ∧
      ((kit .opening).line 0).addr ≠ some 6 ∧ ((washer (kit .opening)).node 6).presence = .present ∧
      ((washer (kit .opening)).node 6).type = some .washer :=
  ⟨taken (by decide +kernel), by decide +kernel⟩

theorem test_hyps_LineCommandsAct_conveyor :
    (let x := (withLine 0 (fun l => { l with exits := (List.range 5).map rack }) (kit .service)).line 0
     x.high ≤ x.exits.length) ∧
      (let x := (withLine 0 (fun l => { l with exits := (List.range 4).map rack }) (kit .service)).line 0
       x.low < x.exits.length ∧ x.exits.length < x.high) ∧
      (((kit .service).line 0).exits.length < ((kit .service).line 0).high ∧
        ((kit .service).line 0).exits.length ≤ ((kit .service).line 0).low) ∧
      (let x := (withLine 0 (fun l => { l with opRun := true }) (kit .service)).line 0
       x.opRun = true ∧ 0 < x.booster) ∧
      ((kit .service).line 1).opRun = false ∧ ((kit .service).line 0).running = false ∧
      (kit .service).day.state = .service := by decide +kernel

/-- Twelve racks stand at the exit. -/
def full (s : State) : State := withLine 0 (fun l => { l with exits := (List.range 12).map rack }) s

theorem test_hyps_RackAnnounceStagesRack :
    (Admitted (.rackAnnounce .a 0 65535 1 40 .absent) .a (kit .service) ∧ Sized (kit .service) ∧
      ((kit .service).fn 1).used = true ∧ 40 ≤ ((kit .service).ware 1).soiled) ∧
      Admitted (.rackAnnounce .a 1 7 1 1 (.present 0)) .a (kit .opening) ∧
      (Admitted (.rackAnnounce .a 0 0 1 1 (.present 1)) .a (full (kit .service)) ∧
        rack 0 ∈ ((full (kit .service)).line 0).exits) ∧
      Admitted (.rackAnnounce .a 0 12 1 61 .absent) .a (kit .service) ∧
      (Admitted (.rackAnnounce .a 0 7 1 60 (.present 7)) .a (kit .service) ∧ ((kit .service).fn 7).used = false) ∧
      Admitted (.rackAnnounce .a 0 7 1 1 .absent) .a (kit .closing) ∧
      (Admitted (.rackAnnounce .a 0 12 1 1 .absent) .a (full (kit .service)) ∧
        12 ≤ ((full (kit .service)).line 0).exits.length) ∧
      (Admitted (.rackAnnounce .a 0 7 1 41 .absent) .a (kit .service) ∧ ((kit .service).ware 1).soiled < 41) :=
  ⟨⟨taken (by decide +kernel), sized (by decide +kernel), by decide +kernel⟩, taken (by decide +kernel),
    ⟨taken (by decide +kernel), by decide +kernel⟩, taken (by decide +kernel), ⟨taken (by decide +kernel), rfl⟩,
    taken (by decide +kernel), ⟨taken (by decide +kernel), by decide +kernel⟩, taken (by decide +kernel), by decide +kernel⟩

/-- Rack 7 stands HELD, rack 8 AT_EXIT routed to warmer 0, and rack 9 inside. -/
def racks (s : State) : State :=
  withLine 0 (fun l => { l with
    exits := [{ rack 7 with reason := some .rinse }, { rack 8 with dest := some 0, routeTime := some 0 }],
    inside := [{ rack 9 with transit := 600 }], routeTimeout := 0 }) s

theorem test_hyps_RackReleaseAndClear :
    (Admitted (.rackRelease .a 0 7 0) .a (racks (kit .service)) ∧ Sized (racks (kit .service)) ∧
      (((racks (kit .service)).line 0).exits.find? fun y => y.tag = 7) = some { rack 7 with reason := some .rinse }) ∧
      Admitted (.rackRelease .a 0 7 1) .a (racks (kit .closing)) ∧ Admitted (.rackRelease .a 0 7 0) .a (racks (kit .closing)) ∧
      Admitted (.rackRelease .a 1 7 1) .a (racks (kit .service)) ∧ Admitted (.rackRelease .a 0 8 1) .a (racks (kit .service)) ∧
      (((racks (kit .service)).line 0).exits.find? fun y => y.tag = 8) =
        some { rack 8 with dest := some 0, routeTime := some 0 } ∧
      Admitted (.rackClear .a 0 8) .a (racks (kit .service)) ∧ Admitted (.rackClear .a 1 8) .a (racks (kit .service)) ∧
      Admitted (.rackClear .a 0 9) .a (racks (kit .service)) :=
  ⟨⟨taken (by decide +kernel), sized (by decide +kernel), by decide +kernel⟩, taken (by decide +kernel),
    taken (by decide +kernel), taken (by decide +kernel), taken (by decide +kernel), by decide +kernel,
    taken (by decide +kernel), taken (by decide +kernel), taken (by decide +kernel)⟩

theorem test_hyps_RackEventsAndTimersAct :
    Sized (racks (kit .service)) ∧
      (((racks (kit .service)).line 0).inside.find? fun y => y.tag = 9) = some { rack 9 with transit := 600 } ∧
      ((racks (kit .service)).line 0).transitJudged ≤ 600 ∧
      (((racks (kit .service)).line 0).exits.find? fun y => y.tag = 8) =
        some { rack 8 with dest := some 0, routeTime := some 0 } ∧
      0 + ((racks (kit .service)).line 0).routeTimeout ≤ (racks (kit .service)).day.clock ∧
      ((withLine 0 (fun l => { l with staged := [rack 7] }) (kit .service)).line 0).staged.find? (fun y => y.tag = 7) =
        some (rack 7) ∧
      ((kit .service).line 0).staged.find? (fun y => y.tag = 7) = none ∧
      ((racks (kit .service)).line 0).inside = [{ rack 9 with transit := 600 }] ∧
      (81 : Int) < ((kit .service).line 0).sanMin ∧ ((kit .service).line 0).sanMin ≤ 82 ∧
      ((kit .service).line 0).lastEvent = none ∧
      ((withLine 0 (fun l => { l with lastEvent := some 255 }) (kit .service)).line 0).lastEvent = some 255 ∧
      (255 + 256 - 255 % 256) % 256 = 0 ∧ (0 + 256 - 255 % 256) % 256 = 1 ∧ (1 + 256 - 255 % 256) % 256 = 2 ∧
      (126 + 256 - 255 % 256) % 256 = 127 ∧ (127 + 256 - 255 % 256) % 256 = 128 ∧
      ((withLine 0 (fun l => { l with inside := [rack 5, rack 6, rack 9] }) (kit .service)).line 0).inside =
        [rack 5] ++ rack 6 :: [rack 9] ∧
      (∀ y ∈ [rack 5], y.tag ≠ 6) ∧ ∀ y ∈ [rack 9], y.tag ≠ 6 ∧ y ∉ [rack 5] :=
  ⟨sized (by decide +kernel), by decide +kernel⟩

theorem test_hyps_RackEventsAndTimersAct_routing :
    (let s := (stocked (kit .service)).setFn 1 ⟨true, 1, 2, .round, 23⟩
     let r := { rack 8 with fn := 1 }
     let f := s.fn r.fn
     let c := s.cab 0
     f.mode = .round ∧ c.kind = .warmer ∧ c.cls = some r.cls ∧ f.members.testBit 0 = true ∧ c.state = .holding ∧
       total (c.lots.map (·.count)) + total (c.routes.map fun y => y.count - y.loaded) + (r.count - r.loaded) ≤
         c.capacity ∧
       (([0].filter fun j => f.round < j) ++ ([0].filter fun j => j ≤ f.round)).head? = some 0) ∧
      [0, 5][8 % 2]? = some 0 ∧ ([] : List Nat).head? = none ∧ (rack 8).noticed = false ∧
      ((racks (kit .service)).line 0).strict = false ∧
      ((withLine 0 (fun l => { l with strict := true }) (racks (kit .service))).line 0).exits.takeWhile
        (fun r => r.reason = none) = [] := by decide +kernel

theorem test_hyps_KitchenReadsCarryTheirFields :
    Ready .a (racks (kit .lockout)) ∧ 31 < 32 ∧ 23 < 24 ∧
      (let x := (racks (kit .lockout)).line 0
       let l := x.staged ++ x.inside ++ x.exits
       l[2]? = some { rack 8 with dest := some 0, routeTime := some 0 } ∧
         ∀ j, j < 2 → ∀ y, l[j]? = some y → y.tag ≠ 8) :=
  ⟨ready (by decide +kernel), by decide, by decide, rfl, by
    intro j hj y hy
    match j, hj with
    | 0, _ => cases hy; decide
    | 1, _ => cases hy; decide⟩

/-! ### Power and paging -/

/-- Every cabinet slot an oven: no tier is a free value. -/
def allOvens (s : State) : State := s.withCabs (List.replicate 24 oven)

theorem test_hyps_PowerSettingsWritten :
    (Admitted (.budgetSet .a 2500) .a (kit .service) ∧ (kit .service).power.shedHigh ≤ 2500) ∧
      (Admitted (.budgetSet .a 800) .a (kit .service) ∧ (allOvens (kit .service)).protectedSum ≤ 800) ∧
      Admitted (.budgetSet .a 799) .a (kit .service) ∧
      (let s := allOvens (withGrant 24 900 900 (kit .service))
       Admitted (.budgetSet .a 800) .a s ∧ 800 < s.protectedSum) ∧
      (Admitted (.powerSet .a ⟨1000, 999, 1, 1, 1, 1⟩) .a (kit .service) ∧ 1000 ≤ (kit .service).power.budget) ∧
      Admitted (.powerSet .a ⟨1001, 1001, 2, 2, 2, 2⟩) .a (kit .service) ∧
      (let s := withGrant 2 500 500 (withGrant 3 400 400 (allOvens (kit .service)))
       Sized s ∧ Admitted (.budgetSet .a 800) .a s ∧ s.protectedSum ≤ 800 ∧ 800 < s.grantSum ∧
         let v := (revoke 26 0 (s.withPower { s.power with budget := 800 })).1
         (v.consumer 2).grant < (s.consumer 2).grant ∧ ¬(v.consumer 3).grant < (s.consumer 3).grant) :=
  ⟨⟨taken (by decide +kernel), by decide +kernel⟩, ⟨taken (by decide +kernel), by decide +kernel⟩,
    taken (by decide +kernel), ⟨taken (by decide +kernel), by decide +kernel⟩,
    ⟨taken (by decide +kernel), by decide +kernel⟩, taken (by decide +kernel),
    ⟨sized (by decide +kernel), taken (by decide +kernel), by decide +kernel, by decide +kernel, by decide +kernel,
      by decide +kernel⟩⟩

theorem test_hyps_PowerSettingsWritten_revoke :
    (let s := withGrant 2 500 500 (withGrant 3 600 600 (allOvens (kit .service)))
     s.power.budget < s.grantSum ∧ s.victim = some 3) ∧
      (allOvens (kit .service)).grantSum ≤ (allOvens (kit .service)).power.budget := by decide +kernel

theorem test_hyps_AdmissionAndSettleTimer_admission :
    (let s := withGrant 1 0 200 (allOvens (kit .service))
     s.day.resetLow = false ∧ (s.waitList.filter fun x => !(s.consumer x).mark) = 1 :: [] ∧
       s.grantSum + ((s.consumer 1).request - (s.consumer 1).grant) ≤ s.power.budget) ∧
      Sized (withGrant 1 0 200 (allOvens (kit .service))) ∧
      (let s := withGrant 0 900 900 (withGrant 1 0 200 (allOvens (kit .service)))
       (s.waitList.filter fun x => !(s.consumer x).mark) = 1 :: [] ∧
         s.power.budget < s.grantSum + ((s.consumer 1).request - (s.consumer 1).grant)) :=
  ⟨by decide +kernel, sized (by decide +kernel), by decide +kernel⟩

/-- The settle timer has run out; two ovens hold grants, and the measured total is 900. -/
def overloaded : State :=
  let s := withGrant 3 300 300 (withGrant 2 300 300 (allOvens (kit .service)))
  let s := s.setConsumer 0 { s.consumer 0 with measured := 900 }
  s.withPower { s.power with settle := some 0 }

theorem test_hyps_AdmissionAndSettleTimer_settle :
    Sized overloaded ∧ overloaded.day.resetLow = false ∧ overloaded.power.settle = some 0 ∧ overloaded.victim = some 3 ∧
      overloaded.dayRuns = true ∧ overloaded.power.shedHigh < overloaded.measuredTotal :=
  ⟨sized (by decide +kernel), by decide +kernel⟩

/-- Consumer 1 waits with a shed mark. -/
def marked (s : State) : State := s.setConsumer 1 ⟨10, 200, true, some 0, 0, none⟩

theorem test_hyps_AdmissionAndSettleTimer_checks :
    (let s := (allOvens (kit .service)).setConsumer 25 { (kit .service).consumer 25 with measured := 801 }
     s.victim = none ∧ s.dayRuns = true ∧ s.power.settle = none ∧ s.power.shedHigh < s.measuredTotal ∧
       s.power.unresolved = false) ∧
      Sized (marked (allOvens (kit .service))) ∧
      (let s := marked (allOvens (kit .service))
       s.dayRuns = true ∧ s.power.settle = none ∧ s.measuredTotal ≤ s.power.shedLow ∧
         (s.waitList.filter fun x => (s.consumer x).mark) = 1 :: [] ∧
         s.grantSum + ((s.consumer 1).request - (s.consumer 1).grant) ≤ s.power.budget) ∧
      (let s := marked (withGrant 0 900 900 (allOvens (kit .service)))
       s.power.budget < s.grantSum + ((s.consumer 1).request - (s.consumer 1).grant)) :=
  ⟨by decide +kernel, sized (by decide +kernel), by decide +kernel⟩

theorem test_hyps_MetersAddLoadAndRead :
    ((kit .service).meter 0).raw + 4294967295 ≤ 4294967295 ∧ 4294967295 < ((kit .service).meter 0).raw + 4294967296 ∧
      ((kit .service).meter 0).overflow = false ∧
      (((kit .service).setMeter 33 ⟨540, true⟩).meter 33).overflow = true ∧ 540 % 360 = 180 ∧ 540 / 360 % 2 = 1 ∧
      Admitted (.energyLoad .a 33 4294967295) .a (kit .service) ∧ Admitted (.energyLoad .a 34 0) .a (kit .service) ∧
      Ready .a (kit .lockout) ∧ (kit .lockout).power.nearestEven = false ∧
      ((kit .lockout).withPower { (kit .lockout).power with nearestEven := true }).power.nearestEven = true :=
  ⟨by decide +kernel, by decide +kernel, rfl, rfl, rfl, rfl, taken (by decide +kernel), taken (by decide +kernel),
    ready (by decide +kernel), rfl, rfl⟩

/-- A queue of 32 INFO pages. -/
def paged (s : State) : State :=
  s.withPaging { s.paging with pages := (List.range 32).map fun i => page i .info }

theorem test_hyps_PagesAreCreated :
    (Admitted (.pageSend .a 0 0xEF 0x80 65535 3) .a (kit .service) ∧ Target.kindCode (.pager 0xEF) = 0 ∧
      Prio.info.code = 3 ∧ (kit .service).paging.pages.length < 32) ∧
      (Admitted (.pageSend .a 1 14 0xFF 0 2) .a (paged (kit .service)) ∧
        (paged (kit .service)).paging.pages.length = 32 ∧ (paged (kit .service)).evictable .normal = some (page 0 .info)) ∧
      (Admitted (.pageSend .a 2 0xFF 0x80 0 3) .a (paged (kit .lockout)) ∧ (paged (kit .lockout)).evictable .info = none) ∧
      Admitted (.pageSend .a 1 15 0x7F 0 4) .a (kit .service) ∧ Target.team 1 ≠ .team 0 ∧
      32 ≤ (paged (kit .service)).paging.pages.length ∧ (paged (kit .service)).page 0 = some (page 0 .info) :=
  ⟨⟨taken (by decide +kernel), by decide +kernel⟩, ⟨taken (by decide +kernel), by decide +kernel⟩,
    ⟨taken (by decide +kernel), by decide +kernel⟩, taken (by decide +kernel), by decide, by decide +kernel,
    by decide +kernel⟩

theorem test_hyps_PageCancelMarksOrEnds :
    Admitted (.pageCancel .a 255) .a (withPage (page 255 .normal) (kit .service)) ∧
      (withPage (page 255 .normal) (kit .service)).page 255 = some (page 255 .normal) ∧
      (withPage { page 0 .normal with state := .handed } (kit .service)).page 0 =
        some { page 0 .normal with state := .handed } ∧
      (withPage { page 0 .normal with inDelivery := true } (kit .service)).page 0 =
        some { page 0 .normal with inDelivery := true } ∧
      Admitted (.pageCancel .a 0) .a (kit .lockout) ∧ (kit .lockout).page 0 = none :=
  ⟨taken (by decide +kernel), by decide +kernel, by decide +kernel, by decide +kernel, taken (by decide +kernel), rfl⟩

theorem test_hyps_PagingSetWritesSettings :
    (Admitted (.pagingSet .a ⟨5, 14, 1, 0, 16, 16, 900⟩) .a (kit .opening) ∧ (kit .opening).paging.settings.base = some 5) ∧
      Admitted (.pagingSet .a ⟨31, 1, 14, 2, 2, 8, 60⟩) .a (kit .opening) ∧
      Admitted (.pagingSet .a ⟨32, 1, 1, 3, 3, 8, 60⟩) .a (kit .opening) ∧
      Admitted (.pagingSet .a ⟨5, 1, 1, 1, 8, 8, 180⟩) .a (kit .closing) ∧
      (let s := withNode 31 (fun _ => present .pageBase .unbound) (kit .opening)
       Admitted (.pagingSet .a ⟨31, 1, 14, 2, 2, 8, 60⟩) .a s ∧ (s.node 31).presence = .present ∧
         (s.node 31).type = some .pageBase ∧ (s.node 5).presence = .present ∧ (s.node 5).type = some .pageBase) ∧
      (let s := (withPage { page 9 .info with inDelivery := true } (kit .opening)).withDay
        { (kit .opening).day with clock := 120 }
       s.page 9 = some { page 9 .info with inDelivery := true } ∧ 0 + Prio.info.lifetime ≤ s.day.clock) :=
  ⟨⟨taken (by decide +kernel), rfl⟩, taken (by decide +kernel), taken (by decide +kernel), taken (by decide +kernel),
    ⟨taken (by decide +kernel), by decide +kernel⟩, by decide +kernel⟩

theorem test_hyps_PagingTimersAct :
    (kit .lockout).day.resetLow = false ∧ (kit .lockout).paging.ageJudged = some 120 ∧
      ((kit .service).withPaging { (kit .service).paging with ageJudged := none }).paging.ageJudged = none ∧
      ((kit .service).withPaging { (kit .service).paging with
        rush := List.replicate 14 (some 0), rates := List.replicate 14 ⟨1, some 0⟩ }).paging.rush.getD 13 none = some 0 ∧
      ((kit .service).withPaging { (kit .service).paging with
        rush := List.replicate 14 (some 0), rates := List.replicate 14 ⟨1, some 0⟩ }).paging.rates.getD 13 ⟨0, none⟩ =
          ⟨1, some 0⟩ ∧
      (withPage { page 9 .normal with state := .sent, resendEnd := some 0 } (kit .service)).page 9 =
        some { page 9 .normal with state := .sent, resendEnd := some 0 } ∧
      ((withPage (page 9 .info) (kit .service)).withDay { (kit .service).day with clock := 120 }).page 9 =
        some (page 9 .info) ∧
      0 + 120 ≤ ((kit .service).withDay { (kit .service).day with clock := 120 }).day.clock := by decide +kernel

/-- Team 2 has a present pager. -/
def staffed (s : State) : State :=
  s.withPaging { s.paging with dir := some ⟨0x20, true, 0⟩ :: List.replicate 63 none }

theorem test_hyps_HandOffGivesChosenPage :
    (let s := staffed (withPage (page 9 .normal) (kit .service))
     s.day.resetLow = false ∧ (dropInfo s).basePresent = true ∧ (dropInfo s).paging.baseFull = false ∧
       (dropInfo s).choose = some (page 9 .normal, 0)) ∧
      (dropInfo (kit .service)).choose = none ∧ (dropInfo State.reset).basePresent = false ∧
      (let s := staffed ((kit .service).withPaging { (kit .service).paging with
        pages := [page 1 .urgent, page 2 .normal], anti := 8 })
       s.choose = some (page 2 .normal, 0)) ∧
      (let s := staffed ((kit .service).withPaging { (kit .service).paging with pages := [page 1 .urgent, page 2 .normal] })
       s.choose = some (page 1 .urgent, 1)) ∧
      (let s := staffed ((kit .service).withPaging { (kit .service).paging with pages := [page 1 .urgent] })
       s.choose = some (page 1 .urgent, 0)) := by decide +kernel

/-- HAND_OFF completes where a page is eligible, and where none is. -/
theorem test_hyps_HandOffGivesChosenPage_eligible :
    let s := withPage (page 7 .normal) (staffed (kit .service))
    s.day.resetLow = false ∧ (dropInfo s).basePresent = true ∧ (dropInfo s).paging.baseFull = false ∧
      (∃ q ∈ (dropInfo s).paging.pages, (dropInfo s).eligiblePage q = true) ∧ (kit .service).choose = none ∧
      ∀ q ∈ (withPage (page 7 .normal) (kit .service)).paging.pages,
        (withPage (page 7 .normal) (kit .service)).eligiblePage q = false := by decide +kernel

theorem test_hyps_HandOffGivesChosenPage_conditions :
    (let s := staffed (withPage (page 9 .normal) (kit .service))
     s.eligiblePage (page 9 .normal) = true ∧ s.standing (page 9 .normal) = .normal ∧
       s.paging.rush.getD (2 - 1) none = none) ∧
      (let s := staffed (withPage { page 9 .normal with level := some .urgent } (kit .service))
       s.standing { page 9 .normal with level := some .urgent } = .urgent) ∧
      (let s := (kit .service).withPaging { (kit .service).paging with rush := List.replicate 14 (some 0) }
       (page 9 .normal).level = none ∧ s.paging.rush.getD (2 - 1) none ≠ none ∧ s.standing (page 9 .normal) = .rush) ∧
      (let s := withPage (page 9 .info) ((kit .service).withPaging { (kit .service).paging with
        rates := List.replicate 14 ⟨8, some 0⟩ })
       s.page 9 = some (page 9 .info) ∧ (s.paging.rates.getD (2 - 1) ⟨0, none⟩).ends ≠ none ∧
         s.paging.settings.rate ≤ (s.paging.rates.getD (2 - 1) ⟨0, none⟩).count) := by decide +kernel

/-! ### The service bus -/

theorem test_hyps_IdentReplyJoinsNode :
    (let s := inFlight (.identify 31) 1 (kit .opening)
     s.day.resetLow = false ∧ s.bus.guard = .free ∧ s.bus.inflight = some ⟨.identify 31, 1, false, false⟩) ∧
      Sized (inFlight (.identify 31) 1 (kit .opening)) ∧
      (((kit .opening).node 2).presence = .present ∧ ((kit .opening).node 2).type = some .warmer ∧
        ((kit .opening).node 2).serial = 0) ∧
      ((kit .opening).cabNaming 2 = some 0 ∧ ((kit .opening).cab 0).kind = .warmer) ∧ (kit .opening).cabNaming 3 = some 1 ∧
      (kit .opening).lineNaming 4 = some 0 ∧ (kit .opening).paging.settings.base = some 5 :=
  ⟨by decide +kernel, sized (by decide +kernel), by decide +kernel⟩

theorem test_hyps_IdentReplyJoinsNode_joins :
    (let s := inFlight (.identify 2) 1 (kit .opening)
     (s.node 2).type ≠ some .oven ∧ (s.node 2).presence = .present ∧ (s.node 31).presence = .unknown ∧
       (s.node 2).type = some .warmer ∧ (s.node 4).type = some .washer ∧ (s.node 5).type = some .pageBase ∧
       s.cabNaming 31 = none ∧ s.lineNaming 31 = none ∧ s.paging.settings.base ≠ some 31) ∧
      ((withCab 0 (fun c => { c with state := .offline, wantedOn := true }) (kit .service)).cab 0).state = .offline ∧
      ((withCab 0 (fun c => { c with state := .offline, wantedOn := true }) (kit .service)).cab 0).wantedOn = true ∧
      ((warmIn .offline (kit .opening)).cab 0).wantedOn = false ∧ ((warmIn .fault (kit .service)).cab 0).state = .fault ∧
      ((withNode 2 (fun n => { n with presence := .silent }) (kit .service)).node 2).binding = .cabinet 0 ∧
      ((withNode 5 (fun n => { n with presence := .silent }) (kit .service)).node 5).binding = .base ∧
      ((withNode 4 (fun n => { n with presence := .silent }) (kit .service)).node 4).binding = .line 0 := by
  decide +kernel

theorem test_hyps_answers :
    (let s := inFlight (.poll 2) 1 (kit .service)
     s.day.resetLow = false ∧ s.bus.guard = .free ∧ s.bus.inflight = some ⟨.poll 2, 1, false, false⟩ ∧
       (s.node 2).presence = .present ∧ (s.node 2).type = some .warmer ∧ (s.node 2).binding = .cabinet 0) ∧
      Sized (inFlight (.poll 2) 1 (kit .service)) ∧
      ((kit .service).node 3).type = some .oven ∧ ((kit .service).node 4).type = some .washer ∧
      ((kit .service).node 4).binding = .line 0 ∧ ((kit .service).node 5).type = some .pageBase ∧
      ((kit .service).node 5).binding = .base ∧ ((washer (kit .service)).node 6).binding = .unbound ∧
      (withNode 3 (fun n => { n with binding := .unbound, presence := .silent }) (kit .service)).node 3 ≠
        (kit .service).node 3 ∧
      (withPage { page 7 .normal with state := .handed } (kit .service)).page 7 =
        some { page 7 .normal with state := .handed } ∧
      (inFlight (.set 2) 1 (kit .service)).bus.inflight = some ⟨.set 2, 1, false, false⟩ ∧
      (inFlight (.deliver 5 7 (.team 2) 0x80 0) 1 (kit .service)).bus.inflight =
        some ⟨.deliver 5 7 (.team 2) 0x80 0, 1, false, false⟩ ∧
      (withPage { page 7 .normal with inDelivery := true, cancelMark := true } (kit .service)).page 7 =
        some { page 7 .normal with inDelivery := true, cancelMark := true } ∧
      (kit .service).day.clock < 0 + Prio.normal.lifetime :=
  ⟨by decide +kernel, sized (by decide +kernel), by decide +kernel⟩

/-- A full directory: pagers 0x10 to 0x4F, the one at 0x12 ABSENT or not. -/
def crowded (there : Bool) (s : State) : State :=
  s.withPaging { s.paging with dir := (List.range 64).map fun j => some ⟨0x10 + j, there || decide (j ≠ 2), j⟩ }

theorem test_hyps_ReportsReachTheirBlocks_checkIn :
    (let d := (staffed (kit .service)).paging.dir
     d[0]? = some (some ⟨0x20, true, 0⟩) ∧ d[1]? = some none ∧ none ∉ d.take 1 ∧
       ∀ e ∈ d, ∀ x, e = some x → x.addr ≠ 0xEF) ∧
      (let d := (crowded false (kit .service)).paging.dir
       none ∉ d ∧ d[2]? = some (some ⟨0x12, false, 2⟩) ∧
         ∀ e ∈ d, ∀ x, e = some x → x.present = false → x.lastSeen = 2) ∧
      (let s := crowded true (kit .service)
       none ∉ s.paging.dir ∧ (∀ e ∈ s.paging.dir, e.all (·.present) = true) ∧ s.paging.dirFull = false) ∧
      ¬(0x10 ≤ 0x0F ∧ 0x0F ≤ 0xEF) ∧ ¬(0x10 ≤ 0xF0 ∧ 0xF0 ≤ 0xEF) ∧ (0x10 ≤ 0x10 ∧ 0xEF ≤ 0xEF) := by decide +kernel

theorem test_hyps_answers_void :
    ((withNode 2 (fun n => { n with wanted := .cabinet .heat 80 }) (kit .service)).node 2).wanted = .cabinet .heat 80 ∧
      ((withNode 4 (fun n => { n with wanted := .line true }) (kit .service)).node 4).wanted = .line true ∧
      ((kit .service).node 2).wanted = .nothing ∧ (kit .service).page 7 = none ∧
      (kit .service).paging.rates.getD 1 ⟨0, none⟩ = ⟨0, none⟩ ∧
      (let f : InFlight := ⟨.deliver 5 7 (.team 2) 0x80 0, 3, false, true⟩
       f.isVoid = true ∧ 3 ≤ f.attempt) ∧
      (inFlight (.deliver 5 7 (.team 2) 0x80 0) 3 (kit .service)).bus.inflight =
        some ⟨.deliver 5 7 (.team 2) 0x80 0, 3, false, false⟩ := by decide +kernel

theorem test_hyps_FailedAttemptsRetryThenMiss :
    State.reset.bus.guard ≠ .free ∧ (kit .service).bus.inflight = none ∧
      Sized (inFlight (.poll 31) 2 (kit .service)) ∧ 2 < 3 ∧ 3 ≤ 3 ∧ (Tx.poll 31).addr = 31 ∧
      Tx.poll 31 ≠ .identify 31 ∧ Tx.identify 31 ≠ .poll 31 ∧ ((kit .service).node 31).type ≠ some .washer ∧
      byteAt [0#8] 0 ≠ 0xB4 ∧
      ((withNode 2 (fun n => { n with misses := 2 }) (kit .service)).node 2).misses + 1 = 3 ∧
      ((withNode 2 (fun n => { n with presence := .silent }) (kit .service)).node 2).presence = .silent ∧
      ((kit .service).node 31).presence = .unknown ∧
      ((withNode 4 (fun n => { n with misses := 2 }) (kit .service)).node 4).binding = .line 0 :=
  ⟨by decide +kernel, rfl, sized (by decide +kernel), by decide +kernel⟩

theorem test_hyps_TransactionsGoOutInOrder :
    (kit .service).day.resetLow = false ∧ (kit .service).bus.inflight = none ∧ (kit .service).bus.guard = .free ∧
      ((kit .service).withBus { (kit .service).bus with urgent := [.set 2] }).bus.urgent = .set 2 :: [] ∧
      ((kit .service).withBus { (kit .service).bus with fetch := [.poll 4] }).bus.fetch = .poll 4 :: [] ∧
      ((kit .service).withBus { (kit .service).bus with ordinary := [.poll 4] }).bus.ordinary = .poll 4 :: [] ∧
      (State.reset.bus.guard = .abandon ∧ State.reset.bus.urgent = []) ∧
      (let s := claimSet (some 2) (.cabinet 0) (.cabinet .off 80) true (inFlight (.poll 4) 1 (kit .service))
       s.bus.guard = .abandon ∧ s.bus.urgent = .set 2 :: [] ∧ s.bus.inflight = none ∧
         (abandonGuardEnd s).bus.inflight = some ⟨.set 2, 1, true, false⟩ ∧ (abandonGuardEnd s).bus.fetch = [.poll 4]) ∧
      ((kit .service).node 4).binding = .line 0 ∧
      ((kit .service).node 2).type ≠ some .washer ∧ ((washer (kit .service)).node 6).type = some .washer ∧
      ((washer (kit .service)).node 6).binding = .unbound := by decide +kernel

theorem test_hyps_TransactionsGoOutInOrder_sets :
    (let s := inFlight (.poll 31) 1 (kit .service)
     s.bus.inflight = some ⟨.poll 31, 1, false, false⟩ ∧
       Tx.poll 31 ∉ s.bus.urgent ++ s.bus.fetch ++ s.bus.ordinary ∧ Tx.set 2 ∉ s.bus.urgent) ∧
      (let s := queueOrdinary (.set 2) (kit .service)
       Tx.set 2 ∉ s.bus.urgent ∧ Tx.set 2 ∈ s.bus.ordinary) ∧
      Tx.set 2 ∈ ((kit .service).withBus { (kit .service).bus with urgent := [.set 2] }).bus.urgent ∧
      (((kit .service).node 2).presence = .present ∧ ((kit .service).node 2).binding = .cabinet 0) ∧
      ((kit .service).node 31).presence = .unknown ∧
      (let s := inFlight (.deliver 5 7 (.team 2) 0x80 0) 1
        (withPage { page 7 .normal with inDelivery := true } (kit .service))
       (⟨.deliver 5 7 (.team 2) 0x80 0, 1, false, false⟩ : InFlight).isVoid = false ∧
         s.delivering (.deliver 5 7 (.team 2) 0x80 0) = true ∧
         ((s.bus.urgent ++ s.bus.fetch ++ s.bus.ordinary).filter s.delivering).length < 2) ∧
      ((kit .service).withBus { (kit .service).bus with inflight := some ⟨.set 31, 1, true, false⟩ }).bus.inflight =
        some ⟨.set 31, 1, true, false⟩ := by decide +kernel

theorem test_hyps_PollsAndDiscoveryAreQueued :
    Sized (kit .service) ∧ ((kit .service).node 2).pollEnd = none ∧
      (let s := withNode 31 (fun n => { n with pollEnd := some 9 }) (kit .service)
       (s.node 31).pollEnd = some 9 ∧ (s.node 31).fetchAhead = false ∧
         Tx.poll 31 ∉ s.bus.urgent ++ s.bus.fetch ++ s.bus.ordinary) ∧
      ((withNode 31 (fun n => { n with fetchAhead := true }) (kit .service)).node 31).fetchAhead = true ∧
      Tx.poll 31 ∈ (queueOrdinary (.poll 31) (kit .service)).bus.ordinary ∧
      ((kit .service).withBus { (kit .service).bus with discTimer := some 0 }).bus.discTimer = some 0 ∧
      ((kit .opening).node ((1 - 1 + 0) % 31 + 1)).presence ≠ .present ∧ (kit .service).bus.discTimer ≠ some 0 :=
  ⟨sized (by decide +kernel), by decide +kernel⟩

theorem test_hyps_PollsAndDiscoveryAreQueued_classes :
    (((kit .service).node 2).binding = .cabinet 0 ∧ (warmIn .holding (kit .service)).classOf 2 = .normal ∧
      (kit .service).classOf 2 = .slow ∧
      ((withCourse .ready none (stocked (kit .service))).withEarmarks [⟨0, 0, 1⟩]).classOf 2 = .fast) ∧
      (((kit .service).node 3).binding = .cabinet 1 ∧ (booked .done 0 (kit .service)).classOf 3 = .fast) ∧
      (((kit .service).node 4).binding = .line 0 ∧ (racks (kit .service)).classOf 4 = .fast ∧
        (kit .service).classOf 4 = .normal) ∧
      (((kit .service).node 5).binding = .base ∧
        (withPage { page 7 .normal with state := .sent } (kit .service)).classOf 5 = .fast ∧
        (kit .service).classOf 5 = .normal) ∧
      ((kit .service).node 31).binding = .unbound ∧ ((kit .service).node 31).presence = .unknown ∧
      (booked .done 0 (kit .service)).classOf 3 ≠ ((booked .done 0 (kit .service)).node 3).pollClass := by decide +kernel

/-- A silent node whose timer has run out. -/
def silent (a : Nat) (s : State) : State :=
  withNode a (fun n => { n with presence := .silent, silence := some 0 }) s

theorem test_hyps_SilenceExpiryLosesNode :
    Sized (silent 2 (kit .service)) ∧ ((silent 2 (kit .service)).node 2).silence = some 0 ∧
      ((silent 2 (kit .service)).node 2).binding = .cabinet 0 ∧ ((kit .service).cab 0).state = .off ∧
      ((warmIn .fault (kit .service)).cab 0).state = .fault ∧ ((silent 4 (kit .service)).node 4).binding = .line 0 ∧
      ((kit .service).node 31).silence ≠ some 0 ∧ ((silent 5 (kit .service)).node 5).binding = .base ∧
      ((silent 6 (washer (kit .service))).node 6).binding = .unbound :=
  ⟨sized (by decide +kernel), by decide +kernel⟩

/-! ### The day, reads and laws -/

theorem test_hyps_DayOpenStartsService :
    (Admitted (.dayOpen .a) .a (kit .opening) ∧ Sized (kit .opening) ∧ (kit .opening).mayOpen = true) ∧
      (Admitted (.dayOpen .a) .a (at_ .opening) ∧ (at_ .opening).power.budget = 0) :=
  ⟨⟨taken (by decide +kernel), sized (by decide +kernel), by decide +kernel⟩, taken (by decide +kernel), rfl⟩

theorem test_hyps_DayClosesAndDrains :
    (Admitted (.dayClose .a) .a (withCourse .armed none (kit .service)) ∧ Sized (withCourse .armed none (kit .service)) ∧
      ∀ c ∈ (withCourse .armed none (kit .service)).courses, ¬(c.state = .fired ∨ c.state = .ready ∨ c.state = .plating)) ∧
      (Admitted (.dayClose .a) .a (withCourse .plating none (kit .service)) ∧
        ((withCourse .plating none (kit .service)).course 0).state = .plating) ∧
      Admitted (.dayClose .a) .a (kit .opening) ∧
      ((∀ c ∈ (kit .closing).cabs, c.state = .off ∨ c.state = .offline) ∧ ∀ l ∈ (kit .closing).lines, l.inside = []) ∧
      ((warmIn .fault (kit .closing)).cab 0).state = .fault :=
  ⟨⟨taken (by decide +kernel), sized (by decide +kernel), by decide +kernel⟩,
    ⟨taken (by decide +kernel), rfl⟩, taken (by decide +kernel), by decide +kernel, rfl⟩

theorem test_hyps_ConfirmExpiryEntersLockout :
    let s := held .b 3 (setConfirm 23 (some 0) (contested (warmIn .holding (kit .service))))
    (s.day.resetLow = false ∧ Sized s ∧ 23 < 24 ∧ s.day.confirm.getD 23 none = some 0 ∧ s.day.state ≠ .lockout) ∧
      (s.hold.owner = some .b ∧ (s.course 0).state = .ready ∧ ∃ e ∈ s.earmarks, e.course = 0 ∧ 0 < e.count) ∧
      ((s.cab 0).addr = some 2 ∧ (s.node 2).binding = .cabinet 0 ∧ (s.node 2).presence = .present ∧
        (s.cab 0).state = .holding ∧ (s.cab 0).state.on = true) ∧
      ((s.cab 1).addr = some 3 ∧ (s.node 3).binding = .cabinet 1 ∧ (s.node 3).presence = .present ∧
        (s.cab 1).state = .off ∧ (s.cab 1).wantMode = .off) ∧
      (setConfirm 23 (some 0) (kit .lockout)).day.state = .lockout :=
  ⟨⟨rfl, sized (by decide +kernel), by decide +kernel⟩, ⟨rfl, by decide +kernel⟩, by decide +kernel, by decide +kernel, rfl⟩

/-- Every bound cabinet has reported its element OFF. -/
def proved (s : State) : State :=
  withCab 1 (fun c => { c with reported := true }) (withCab 0 (fun c => { c with reported := true }) s)

theorem test_hyps_LockoutClearReturnsDay :
    (Admitted (.lockoutClear .a) .a (proved (kit .lockout)) ∧ Sized (proved (kit .lockout)) ∧
      (proved (kit .lockout)).day.ret = some .service ∧ (proved (kit .lockout)).unconfirmed = [] ∧
      ∀ c ∈ (proved (kit .lockout)).cabs, c.live.overtemp = false) ∧
      (Admitted (.lockoutClear .a) .a (kit .lockout) ∧ (kit .lockout).unconfirmed = [0, 1]) ∧
      (Admitted (.lockoutClear .a) .a (faulty hotOnly hotOnly (proved (kit .lockout))) ∧
        ((faulty hotOnly hotOnly (proved (kit .lockout))).cab 0).live.overtemp = true) ∧
      Admitted (.lockoutClear .a) .a (kit .service) :=
  ⟨⟨taken (by decide +kernel), sized (by decide +kernel), rfl, by decide +kernel⟩,
    ⟨taken (by decide +kernel), by decide +kernel⟩, ⟨taken (by decide +kernel), rfl⟩, taken (by decide +kernel)⟩

theorem test_hyps_reads :
    Ready .a (racks (kit .lockout)) ∧
      (∃ r ∈ ((racks (kit .lockout)).line 0).staged ++ ((racks (kit .lockout)).line 0).inside ++
        ((racks (kit .lockout)).line 0).exits, r.tag = 7) ∧
      (∀ r ∈ ((kit .lockout).line 1).staged ++ ((kit .lockout).line 1).inside ++ ((kit .lockout).line 1).exits, r.tag ≠ 7) ∧
      (∃ g ∈ (withPage (page 255 .info) (kit .lockout)).paging.pages, g.id = 255) ∧
      (∃ e ∈ (staffed (kit .lockout)).paging.dir, ∃ g, e = some g ∧ g.addr = 0x20) ∧
      (withPage (page 255 .info) (kit .lockout)).paging.pages[0]? = some (page 255 .info) ∧
      (staffed (kit .lockout)).paging.dir[0]? = some (some ⟨0x20, true, 0⟩) ∧
      (∀ e ∈ (kit .lockout).paging.dir, e = none) ∧ (∀ t ∈ (kit .lockout).day.confirm, t = none) ∧
      some 0 ∈ (setConfirm 23 (some 0) (kit .service)).day.confirm :=
  ⟨ready (by decide +kernel), by decide +kernel, by decide +kernel, by decide +kernel,
    ⟨some ⟨0x20, true, 0⟩, by decide +kernel, ⟨0x20, true, 0⟩, rfl, rfl⟩, rfl, rfl, by decide +kernel, by decide +kernel,
    by decide +kernel⟩

/-- Racks 7, 8 and 9 of line 0 are STAGED, HELD and on their way to warmer 0, which has a lot; the line's booster waits. -/
def laidOut : State :=
  let s := ((kit .service).setWare 1 ⟨60, 110, 40, 20, 20, 20, 10, 0, 0⟩).setLine 0 { (kit .service).line 0 with
    staged := [rack 7], exits := [{ rack 8 with reason := some .rinse }, { rack 9 with dest := some 0 }] }
  withGrant 24 0 50 (withCab 0 (fun c => { c with state := .holding, lots := [⟨10, none⟩], routes := [⟨0, 9, 20, 0⟩] }) s)

/-- The law of racks, where the slots past the last have no routes. -/
theorem rackLaw {s : State} (hn : s.cabs.length = 24)
    (h1 : ∀ cls, cls < 8 → (s.ware cls).washing =
      total (s.lines.map fun l => total (((l.staged ++ l.inside).filter fun r => r.cls = cls).map (·.count))))
    (h2 : ∀ cls, cls < 8 → (s.ware cls).held =
      total (s.lines.map fun l => total ((l.exits.filter fun r => r.cls = cls ∧ r.reason ≠ none).map (·.count))))
    (h3 : ∀ l ∈ s.lines, ((l.staged ++ l.inside ++ l.exits).map (·.tag)).Nodup)
    (h4 : ∀ l ∈ s.lines, ∀ r ∈ l.staged ++ l.inside, r.reason = none)
    (h5 : ∀ k, k < 24 → ∀ y ∈ (s.cab k).routes,
      ∃ r ∈ (s.line y.line).exits, r.tag = y.tag ∧ r.reason = none ∧ r.dest = some k) : RackLaw s :=
  ⟨h1, h2, h3, h4, fun k y hy => by
    by_cases hk : k < 24
    · exact h5 k hk y hy
    · have e : s.cab k = Cab.initial := by simp [State.cab, hn, Nat.not_lt.1 hk]
      rw [e] at hy
      exact absurd hy List.not_mem_nil⟩

theorem test_hyps_PlacesAreAccounted :
    Sized laidOut ∧ RackLaw laidOut ∧ LotLaw laidOut ∧ PlatedLaw laidOut ∧ PowerStops laidOut ∧
      (laidOut.line 0).stops.power = true ∧
      step laidOut = .next (laidOut.withDay { laidOut.day with ms := laidOut.day.ms + 1 }) :=
  ⟨sized (by decide +kernel),
    rackLaw rfl (by decide +kernel) (by decide +kernel) (by decide +kernel) (by decide +kernel) (by decide +kernel),
    ⟨by decide +kernel, by decide +kernel⟩, ⟨by decide +kernel, by decide +kernel, by decide +kernel⟩,
    by unfold PowerStops; decide +kernel, rfl, rfl⟩

/-- The laws' hypotheses hold at reset, and a step is a next state there. -/
theorem test_hyps_laws :
    Conserves State.reset ∧ PlatedLaw State.reset ∧ GrantLaw State.reset ∧ HoldLaw State.reset ∧ LockoutLaw State.reset ∧
      Sized State.reset ∧ QueuesBounded State.reset ∧ RackLaw State.reset ∧ LotLaw State.reset ∧ PowerStops State.reset ∧
      step State.reset = .next (State.reset.withDay { State.reset.day with ms := 1 }) :=
  ⟨by unfold Conserves; decide +kernel, ⟨by decide +kernel, by decide +kernel, by decide +kernel⟩,
    by unfold GrantLaw; decide +kernel, ⟨fun _ => ⟨rfl, rfl⟩, fun h => absurd rfl h⟩,
    ⟨by decide +kernel, by decide +kernel, by decide +kernel, by decide +kernel⟩, sized (by decide +kernel),
    fun p => by cases p <;> decide +kernel,
    rackLaw rfl (by decide +kernel) (by decide +kernel) (by decide +kernel) (by decide +kernel) (by decide +kernel),
    ⟨by decide +kernel, by decide +kernel⟩, by unfold PowerStops; decide +kernel, rfl⟩

end Sys2Proof.Tests
end

section
/-! SUPPORT. The laws of R2, R1's sizes and R171's bound, kept by every step. -/

namespace Sys2Proof.Machine

/-! ### The conservation law (R2) -/

/-- Every change that commands are made of keeps R2. -/
theorem conserves_full (p : Port) : Full p Conserves where
  calls _ hs := hs
  freeCount _ hs := hs
  offer _ _ hs := hs
  course _ _ _ hs := hs
  earmarks _ hs := hs
  paging _ _ hs := hs
  bus _ _ hs := hs
  round _ _ hs := hs
  cab _ _ _ hs := hs
  line _ _ _ _ hs := hs
  consumer _ _ hs := setConsumer_keeps (P := Conserves) (fun _ _ h => h) (fun _ _ _ h => h) _ _ hs
  power _ _ _ hs := hs
  transfer _ _ _ _ _ hs := hs.transfer _ _ _ _
  opening _ hs := hs
  plates _ _ _ _ hs := hs.transfer _ _ _ _
  house _ _ hs := hs.addHouse _ _
  anyCourse _ _ hs := hs
  anyFire _ hs := hs
  anyCabs _ _ _ hs := hs
  anyLines _ _ _ _ hs := hs
  anyPower _ _ _ hs := hs
  anyPaging _ _ hs := hs
  confirm _ _ hs := hs
  noHold hs := hs
  clocks _ _ _ hs := hs
  anyBus _ _ hs := hs
  measured _ _ _ _ hs := hs
  lockout _ _ hs := hs
  ware c x hx hs := hs.setWare c x fun hc => hx (hs.ware hc)
  anyFn _ _ hs := hs
  rounds hs := hs
  setCab' _ _ hs := hs
  setLine' _ _ _ hs := hs
  settings _ _ _ hs := hs
  pageSettings _ hs := hs
  pageOpen _ _ hs := hs
  anyPort q _ _ hs := by cases q <;> exact hs
  claim _ hs := hs
  service _ hs := hs
  closing _ hs := hs
  cleared _ hs := hs
  begin _ hs := hs
  reset _ _ := by
    intro w hw
    rw [List.eq_of_mem_replicate hw]
    rfl

/-! ### The sizes of the tables (R1, R22, R24, R52, R77, R101, R113, R120, R127, R128, R144, R176) -/

/-- A record written with the tables' lengths kept. -/
theorem Sized.setLine {s : State} (hs : Sized s) (l : Nat) (x : Line) : Sized (s.setLine l x) :=
  hs.of rfl rfl rfl rfl (by simp) rfl rfl rfl rfl rfl rfl rfl

theorem Sized.withPower {s : State} (hs : Sized s) (x : Power) (h1 : x.consumers.length = s.power.consumers.length)
    (h2 : x.meters.length = s.power.meters.length) : Sized (s.withPower x) :=
  hs.of rfl rfl rfl rfl rfl h1 h2 rfl rfl rfl rfl rfl

theorem Sized.withPaging {s : State} (hs : Sized s) (x : Paging) (h1 : x.dir.length = s.paging.dir.length)
    (h2 : x.rush.length = s.paging.rush.length) (h3 : x.rates.length = s.paging.rates.length) : Sized (s.withPaging x) :=
  hs.of rfl rfl rfl rfl rfl rfl rfl h1 h2 h3 rfl rfl

theorem Sized.setWare {s : State} (hs : Sized s) (c : Nat) (x : Ware) : Sized (s.setWare c x) :=
  hs.of (by simp) rfl rfl rfl rfl rfl rfl rfl rfl rfl rfl rfl

theorem Sized.setCab {s : State} (hs : Sized s) (k : Nat) (x : Cab) : Sized (s.setCab k x) :=
  hs.of rfl rfl rfl (by simp) rfl rfl rfl rfl rfl rfl rfl rfl

theorem Sized.setCourse {s : State} (hs : Sized s) (c : Nat) (x : Course) : Sized (s.setCourse c x) :=
  hs.of rfl rfl (by simp) rfl rfl rfl rfl rfl rfl rfl rfl rfl

theorem Sized.setFn {s : State} (hs : Sized s) (f : Nat) (x : Fn) : Sized (s.setFn f x) :=
  hs.of rfl (by simp) rfl rfl rfl rfl rfl rfl rfl rfl rfl rfl

/-- A record of no table written. -/
theorem Sized.same {s t : State} (hs : Sized s) (h1 : t.wares = s.wares) (h2 : t.fns = s.fns)
    (h3 : t.courses = s.courses) (h4 : t.cabs = s.cabs) (h5 : t.lines = s.lines) (h6 : t.power = s.power)
    (h7 : t.paging = s.paging) (h8 : t.bus.nodes.length = s.bus.nodes.length)
    (h9 : t.day.confirm.length = s.day.confirm.length) : Sized t :=
  hs.of (by rw [h1]) (by rw [h2]) (by rw [h3]) (by rw [h4]) (by rw [h5]) (by rw [h6]) (by rw [h6]) (by rw [h7])
    (by rw [h7]) (by rw [h7]) h8 h9

/-- Every change that commands are made of keeps the sizes. -/
theorem sized_full (p : Port) : Full p Sized where
  calls _ hs := hs.same rfl rfl rfl rfl rfl rfl rfl rfl rfl
  freeCount _ hs := hs.same rfl rfl rfl rfl rfl rfl rfl rfl rfl
  offer _ _ hs := hs.same rfl rfl rfl rfl rfl rfl rfl rfl rfl
  course _ _ _ hs := hs.setCourse _ _
  earmarks _ hs := hs.same rfl rfl rfl rfl rfl rfl rfl rfl rfl
  paging _ hx hs := hs.withPaging _ (by rw [hx.dir]) hx.length (by rw [hx.rates])
  bus _ hx hs := hs.same rfl rfl rfl rfl rfl rfl rfl hx.length rfl
  round _ _ hs := hs.setFn _ _
  cab _ _ _ hs := hs.setCab _ _
  line _ _ _ _ hs := hs.setLine _ _
  consumer _ _ hs := setConsumer_keeps (P := Sized)
    (fun _ hx h => h.withPower _ hx.length (by rw [hx.meters])) (fun _ _ _ h => h.setLine _ _) _ _ hs
  power _ hx _ hs := hs.withPower _ hx.length (by rw [hx.meters])
  transfer _ _ _ _ _ hs := hs.setWare _ _
  opening _ hs := hs.same rfl rfl rfl rfl rfl rfl rfl rfl rfl
  plates _ _ _ _ hs := hs.setWare _ _
  house _ _ hs := hs.setWare _ _
  anyCourse _ _ hs := hs.setCourse _ _
  anyFire _ hs := hs.same rfl rfl rfl rfl rfl rfl rfl rfl rfl
  anyCabs _ hl _ hs := hs.of rfl rfl rfl hl rfl rfl rfl rfl rfl rfl rfl rfl
  anyLines _ hl _ _ hs := hs.of rfl rfl rfl rfl hl rfl rfl rfl rfl rfl rfl rfl
  anyPower _ hx _ hs := hs.withPower _ hx.consumers hx.meters
  anyPaging _ hx hs := hs.withPaging _ hx.dir hx.rush hx.rates
  confirm k t hs := hs.same rfl rfl rfl rfl rfl rfl rfl rfl (by simp [setConfirm])
  noHold hs := hs.same rfl rfl rfl rfl rfl rfl rfl rfl rfl
  clocks _ _ _ hs := hs.same rfl rfl rfl rfl rfl rfl rfl rfl rfl
  anyBus _ hx hs := hs.same rfl rfl rfl rfl rfl rfl rfl hx rfl
  measured _ _ _ _ hs := hs.setCab _ _
  lockout _ _ hs := hs.same rfl rfl rfl rfl rfl rfl rfl rfl (by simp [hs.confirm])
  ware c x _ hs := hs.setWare _ _
  anyFn _ _ hs := hs.setFn _ _
  rounds hs := hs.of rfl (by simp) rfl rfl rfl rfl rfl rfl rfl rfl rfl rfl
  setCab' _ _ hs := hs.setCab _ _
  setLine' _ _ _ hs := hs.setLine _ _
  settings _ h1 h2 hs := hs.withPower _ (by rw [h1]) h2
  pageSettings _ hs := hs.withPaging _ rfl rfl rfl
  pageOpen _ hd hs := hs.withPaging _ hd (by simp [hs.rush]) (by simp [hs.rates])
  anyPort q _ _ hs := by cases q <;> exact hs.same rfl rfl rfl rfl rfl rfl rfl rfl rfl
  claim _ hs := hs.same rfl rfl rfl rfl rfl rfl rfl rfl rfl
  service _ hs := hs.same rfl rfl rfl rfl rfl rfl rfl rfl rfl
  closing _ hs := hs.same rfl rfl rfl rfl rfl rfl rfl rfl rfl
  cleared _ hs := hs.same rfl rfl rfl rfl rfl rfl rfl rfl rfl
  begin _ hs := hs.same rfl rfl rfl rfl rfl rfl rfl rfl rfl
  reset _ _ := by constructor <;> rfl

/-! ### The bound of the notice queues (R171) -/

theorem QueuesBounded.setPort {s : State} (hs : QueuesBounded s) (q : Port) (x : PortRec)
    (hx : x.queue.length ≤ (s.port q).queue.length) : QueuesBounded (s.setPort q x) := by
  intro r
  by_cases e : r = q
  · subst e
    rw [State.port_setPort]
    exact hx.trans (hs r)
  · rw [State.port_setPort_other _ _ _ _ e]
    exact hs r

/-- Every change that commands are made of keeps the bound. -/
theorem queuesBounded_full (p : Port) : Full p QueuesBounded where
  calls _ hs := hs
  freeCount _ hs := hs
  offer q n hs := fun r => (offerWhere_keeps q n _ r).bound (hs r)
  course _ _ _ hs := hs
  earmarks _ hs := hs
  paging _ _ hs := hs
  bus _ _ hs := hs
  round _ _ hs := hs
  cab _ _ _ hs := hs
  line _ _ _ _ hs := hs
  consumer _ _ hs := setConsumer_keeps (P := QueuesBounded) (fun _ _ h => h) (fun _ _ _ h => h) _ _ hs
  power _ _ _ hs := hs
  transfer _ _ _ _ _ hs := hs
  opening _ hs := hs
  plates _ _ _ _ hs := hs
  house _ _ hs := hs
  anyCourse _ _ hs := hs
  anyFire _ hs := hs
  anyCabs _ _ _ hs := hs
  anyLines _ _ _ _ hs := hs
  anyPower _ _ _ hs := hs
  anyPaging _ _ hs := hs
  confirm _ _ hs := hs
  noHold hs := hs
  clocks _ _ _ hs := hs
  anyBus _ _ hs := hs
  measured _ _ _ _ hs := hs
  lockout _ _ hs := hs
  ware _ _ _ hs := hs
  anyFn _ _ hs := hs
  rounds hs := hs
  setCab' _ _ hs := hs
  setLine' _ _ _ hs := hs
  settings _ _ _ hs := hs
  pageSettings _ hs := hs
  pageOpen _ _ hs := hs
  anyPort q x hx hs := hs.setPort q x hx
  claim _ hs := hs
  service _ hs := hs
  closing _ hs := hs
  cleared _ hs := hs
  begin _ hs := hs
  reset _ _ := by
    intro q
    cases q <;> exact Nat.zero_le _

end Sys2Proof.Machine

namespace Sys2Proof.Certificates

open Sys2Proof.Machine

/-- Settles O57: R2 is kept by every change that a step is made of. -/
theorem stockIsConserved : Obligations.StockIsConserved := fun _ _ hs he =>
  Full.step (P := Conserves) conserves_full (fun _ h => h) (fun _ h => h) hs he

/-- Settles O60: so are the sizes of the tables and the bound of the notice queues. -/
theorem sizesAreKept : Obligations.SizesAreKept := fun _ _ he =>
  ⟨fun hs => Full.step (P := Sized) sized_full (fun _ h => h.same rfl rfl rfl rfl rfl rfl rfl rfl rfl)
      (fun _ h => h.same rfl rfl rfl rfl rfl rfl rfl rfl rfl) hs he,
    fun hs => Full.step (P := QueuesBounded) queuesBounded_full (fun _ h => h) (fun _ h => h) hs he⟩

end Sys2Proof.Certificates
end

section
/-! SUPPORT. The power-on values, and the ware commands of R15 to R21. -/

namespace Sys2Proof.Machine

/-! ### The laws at power-on -/

/-- Entries of a table of equal records, and those past its end, are that record. -/
theorem getD_replicate {α : Type} (n : Nat) (x : α) (i : Nat) : (List.replicate n x).getD i x = x := by
  rw [List.getD_eq_getElem?_getD, List.getElem?_replicate]
  split <;> rfl

theorem reset_ware (c : Nat) : State.reset.ware c = Ware.initial := getD_replicate _ _ _
theorem reset_cab (k : Nat) : State.reset.cab k = Cab.initial := getD_replicate _ _ _
theorem reset_line (l : Nat) : State.reset.line l = Line.initial := getD_replicate _ _ _

theorem conserves_reset : Conserves State.reset := by
  intro w hw
  rw [List.eq_of_mem_replicate hw]
  rfl

theorem platedLaw_reset : PlatedLaw State.reset where
  sums cls _ := by rw [reset_ware]; simp [State.reset, Course.initial, Ware.initial, total]
  returned c hc := by rw [List.eq_of_mem_replicate hc]; decide
  unfired c hc _ := by rw [List.eq_of_mem_replicate hc]; rfl

theorem rackLaw_reset : RackLaw State.reset where
  washing cls _ := by rw [reset_ware]; rfl
  held cls _ := by rw [reset_ware]; rfl
  tags l hl := by rw [List.eq_of_mem_replicate hl]; exact List.nodup_nil
  working l hl r hr := by rw [List.eq_of_mem_replicate hl] at hr; cases hr
  routes k y hy := by rw [reset_cab] at hy; cases hy

theorem lotLaw_reset : LotLaw State.reset where
  inWarmer cls _ := by rw [reset_ware]; simp [State.reset, Cab.initial, Ware.initial, total]
  classed c hc := by rw [List.eq_of_mem_replicate hc]; exact ⟨fun h => absurd rfl h, fun _ => rfl⟩

theorem powerStops_reset : PowerStops State.reset := by
  unfold PowerStops
  decide +kernel

theorem sized_reset : Sized State.reset := by constructor <;> rfl

theorem queuesBounded_reset : QueuesBounded State.reset := by
  intro p
  cases p <;> exact Nat.zero_le _

/-! ### One class written (R15–R20) -/

theorem move_soiled_clean (w : Ware) (n : Nat) (h : n ≤ w.soiled) :
    w.move .soiled .clean n = { w with soiled := w.soiled - n, clean := w.clean + n } := by
  simp [Ware.move, Ware.put, Ware.holds, Nat.min_eq_left h]

theorem move_clean_soiled (w : Ware) (n : Nat) (h : n ≤ w.clean) :
    w.move .clean .soiled n = { w with soiled := w.soiled + n, clean := w.clean - n } := by
  simp [Ware.move, Ware.put, Ware.holds, Nat.min_eq_left h]

/-- A take of more than a place holds empties it. -/
theorem sub_min_self (n a : Nat) : a - min n a = a - n := by omega

theorem move_plated_soiled (w : Ware) (n : Nat) :
    w.move .plated .soiled n = { w with soiled := w.soiled + min n w.plated, plated := w.plated - n } := by
  simp [Ware.move, Ware.put, Ware.holds, sub_min_self]

/-- Plates that a place holds leave it, and STOCK (R20). -/
theorem takeOut_eq (w : Ware) (q : Place) (n : Nat) (h : n ≤ w.holds q) :
    w.takeOut q n = { w.put q (w.holds q - n) with stock := w.stock - n } := by
  rw [Ware.takeOut, Nat.min_eq_left h]

theorem setWare_setWare (s : State) (c : Nat) (x y : Ware) : (s.setWare c x).setWare c y = s.setWare c y := by
  simp [State.setWare, State.withWares]

/-- The reply of a command that writes one class is read off the record written. -/
theorem be16_setWare (s : State) (c : Nat) (x : Ware) (f : Ware → Nat) (h : c < s.wares.length) :
    be16 (f ((s.setWare c x).ware c)) = be16 (f x) := by rw [State.ware_setWare _ _ _ h]

theorem okWith_congr {a b : List Byte} {s t : State} (h1 : a = b) (h2 : s = t) : okWith a s = okWith b t := by
  rw [h1, h2]

theorem within_iff (lo hi n : Nat) : within lo hi n = true ↔ lo ≤ n ∧ n ≤ hi := by simp [within]

theorem isFlag_iff (n : Nat) : isFlag n = true ↔ n < 2 := by simp [isFlag]

theorem inDay_opening (s : State) : inDay s [.opening] = decide (s.day.state = .opening) := by simp [inDay]

theorem classInUse_iff (s : State) (cls : Nat) :
    s.classInUse cls = true ↔
      (∃ l ∈ s.lines, ∃ r ∈ l.staged ++ l.inside ++ l.exits, r.cls = cls) ∨
        (∃ k ∈ s.cabs, k.kind = .warmer ∧ k.cls = some cls ∧ k.lots ≠ []) ∨
          ∃ c ∈ s.courses, c.state ≠ .empty ∧ c.cls = cls := by
  have h : ∀ l : Line, l.racks.any (fun r => decide (r.cls = cls)) = true ↔
      ∃ r ∈ l.staged ++ l.inside ++ l.exits, r.cls = cls := fun l => by
    unfold Line.racks
    simp only [List.any_eq_true, decide_eq_true_eq]
  unfold State.classInUse
  simp only [Bool.or_eq_true, List.any_eq_true (l := s.lines), h]
  simp [Cab.isWarmer, and_assoc, or_assoc]

/-! ### Commands whose own checks decide -/

/-- A command whose checks all hold executes its effect. -/
theorem Executes.of_checks {i : Instr} {p : Port} {s : State} (h : requestPort i = some p) (ha : Admitted i p s)
    {c : List (Bool × Status)} {f : State → Result} {data : List Byte} {t : State}
    (hb : bodyOf i (before i p s) = checked c f (before i p s)) (hc : firstFailure c = none)
    (hf : f (before i p s) = okWith data t) : Executes i p s data t :=
  Executes.of_body h ha (by rw [hb, checked_of_none hc, hf])

/-- A command is refused with the status of its first failing check. -/
theorem RefusedWith.of_checks {i : Instr} {p : Port} {s : State} (h : requestPort i = some p) (ha : Admitted i p s)
    {c : List (Bool × Status)} {f : State → Result} {st : Status}
    (hb : bodyOf i (before i p s) = checked c f (before i p s)) (hc : firstFailure c = some st) : RefusedWith i p s st :=
  RefusedWith.of_body h ha (by rw [hb, checked_of_some hc])

/-- The first check decides. -/
theorem firstFailure_head {b : Bool} {st : Status} {c : List (Bool × Status)} (h : b = false) :
    firstFailure ((b, st) :: c) = some st := by rw [firstFailure_cons, if_pos h]

/-- A check that holds leaves the decision to the next. -/
theorem firstFailure_tail {b : Bool} {st : Status} {c : List (Bool × Status)} (h : b = true) :
    firstFailure ((b, st) :: c) = firstFailure c := by rw [firstFailure_cons, h]; rfl

end Sys2Proof.Machine

namespace Sys2Proof.Certificates

open Sys2Proof.Machine

/-- Settles O2. -/
theorem powerOnValues : Obligations.PowerOnValues := by
  unfold Obligations.PowerOnValues
  refine ⟨rfl, fun p => by cases p <;> decide, rfl, rfl, rfl, rfl, rfl, rfl, rfl, rfl, rfl, rfl, ⟨rfl, ?_⟩, rfl, rfl, ⟨rfl, ?_⟩,
    ⟨rfl, ?_⟩, rfl, rfl, rfl, rfl, rfl, rfl, rfl, rfl, rfl, rfl, rfl, rfl, rfl, rfl, rfl, rfl, rfl, rfl, rfl, rfl, ⟨rfl, ?_⟩,
    rfl, rfl, rfl, rfl, rfl, rfl, rfl, conserves_reset, platedLaw_reset, rackLaw_reset, lotLaw_reset, powerStops_reset,
    Nat.le_refl _, ⟨fun _ => ⟨rfl, rfl⟩, fun h => absurd rfl h⟩, ?_, queuesBounded_reset, sized_reset⟩
  · intro c hc
    rw [List.eq_of_mem_replicate hc]
    decide
  · intro k hk
    rw [List.eq_of_mem_replicate hk]
    decide
  · intro l hl
    rw [List.eq_of_mem_replicate hl]
    decide
  · intro n hn
    rw [List.eq_of_mem_replicate hn]
    decide
  · unfold LockoutLaw
    decide

/-- Settles O16. -/
theorem wareReadReply : Obligations.WareReadReply := by
  intro p cls s hr
  have ha : Admitted (.wareRead p cls) p s := Admitted.of_read hr rfl rfl
  have hb : wareReadBody cls (before (.wareRead p cls) p s) = checked _ _ (before (.wareRead p cls) p s) := rfl
  have hs : before (.wareRead p cls) p s = s := before_read rfl
  have hc : s.committed cls = total (s.lines.map fun l =>
      total ((l.exits.filter fun r => r.reason = none ∧ r.cls = cls).map fun r => r.count - r.loaded)) := by
    unfold State.committed
    refine congrArg total (List.map_congr_left fun l _ => ?_)
    rw [List.filter_congr (q := fun r => decide (r.reason = none ∧ r.cls = cls)) fun r _ => by cases r.reason <;> simp]
  dsimp only
  rw [← hc]
  refine ⟨fun h => Executes.of_checks rfl ha hb (firstFailure_tail (by simpa using h)) (by rw [hs]), fun h => ?_⟩
  exact RefusedWith.of_checks rfl ha hb (firstFailure_head (by simpa using h))

/-- Settles O13. -/
theorem wareSettingsWritten : Obligations.WareSettingsWritten := by
  intro p cls x s
  refine ⟨fun ha => ?_, fun ha => ?_⟩
  · have hb : classSetBody cls x (before (.classSet p cls x) p s) = checked _ _ (before (.classSet p cls x) p s) := rfl
    dsimp only
    refine ⟨fun h1 h2 h3 => Executes.of_checks rfl ha hb ?_ rfl,
      fun h => RefusedWith.of_checks rfl ha hb (firstFailure_head ?_),
      fun h1 h2 h3 => RefusedWith.of_checks rfl ha hb ((firstFailure_tail ?_).trans (firstFailure_head ?_))⟩
    · simp [firstFailure_cons, h1, h2, h3, inDay_opening]
    · simp only [Bool.and_eq_false_iff, decide_eq_false_iff_not]
      omega
    · simp [h1, h2]
    · rcases h3 with h | h <;> simp [inDay_opening, h]
  · have hb : wareStockBody cls x (before (.wareStock p cls x) p s) = checked _ _ (before (.wareStock p cls x) p s) := rfl
    have hu : (before (.wareStock p cls x) p s).classInUse cls = s.classInUse cls := by simp [State.classInUse]
    dsimp only
    rw [← classInUse_iff]
    refine ⟨fun h1 h2 h3 h4 => Executes.of_checks rfl ha hb ?_ rfl,
      fun h => RefusedWith.of_checks rfl ha hb (firstFailure_head ?_),
      fun h1 h2 h3 => RefusedWith.of_checks rfl ha hb ((firstFailure_tail ?_).trans (firstFailure_head ?_))⟩
    · simp [firstFailure_cons, h1, h2, h3, inDay_opening, hu, h4, Config.stockMax]
    · simp only [Bool.and_eq_false_iff, decide_eq_false_iff_not]
      simp only [Config.stockMax]
      omega
    · simp [h1, h2, Config.stockMax]
    · rcases h3 with h | h | h <;> simp [inDay_opening, hu, h]

/-- WARE_ADD (R17). -/
theorem wareAdd_clauses (p : Port) (cls n : Nat) (s : State) (ha : Admitted (.wareAdd p cls n) p s) :
    let i := Instr.wareAdd p cls n
    let u := before i p s
    let w := u.ware cls
    let good := cls < 8 ∧ 1 ≤ n ∧ n ≤ 30000 ∧ w.stock + n ≤ 30000
    (cls < s.wares.length → good →
      Executes i p s (be16 (w.stock + n)) (u.setWare cls { w with stock := w.stock + n, clean := w.clean + n })) ∧
      (¬good → RefusedWith i p s .range) := by
  extract_lets i u w good
  have hb : wareAddBody cls n u = checked _ _ u := rfl
  have hd : inDay u openDays = true := inDay_openDays (by simpa [u] using ha.notLockout rfl rfl)
  have range : (decide (cls < 8) && within 1 Config.stockMax n && decide (w.stock + n ≤ Config.stockMax)) = decide good := Bool.eq_iff_iff.2 (by
    simp only [Bool.and_eq_true, within_iff, decide_eq_true_eq, and_assoc, good]; exact Iff.rfl)
  refine ⟨fun hl hg => Executes.of_checks rfl ha hb ?_ ?_, fun hg => RefusedWith.of_checks rfl ha hb (firstFailure_head ?_)⟩
  · exact (firstFailure_tail (by rw [range]; simpa using hg)).trans (firstFailure_tail hd)
  · exact okWith_congr (be16_setWare u _ _ Ware.stock (by simpa [u] using hl)) rfl
  · rw [range]
    simpa using hg

/-- WARE_MOVE (R18). -/
theorem wareMove_clauses (p : Port) (cls dir n : Nat) (s : State) (ha : Admitted (.wareMove p cls dir n) p s) :
    let i := Instr.wareMove p cls dir n
    let u := before i p s
    let w := u.ware cls
    let good := cls < 8 ∧ dir < 2 ∧ 1 ≤ n ∧ n ≤ 30000
    (good → cls < s.wares.length → dir = 0 → n ≤ w.soiled →
      Executes i p s (be16 (w.soiled - n) ++ be16 (w.clean + n))
        (u.setWare cls { w with soiled := w.soiled - n, clean := w.clean + n })) ∧
      (good → cls < s.wares.length → dir = 1 → n ≤ w.clean - u.committed cls →
        Executes i p s (be16 (w.soiled + n) ++ be16 (w.clean - n))
          (u.setWare cls { w with soiled := w.soiled + n, clean := w.clean - n })) ∧
      (good → dir = 0 ∧ w.soiled < n ∨ dir = 1 ∧ w.clean - u.committed cls < n → RefusedWith i p s .short) ∧
      (¬good → RefusedWith i p s .range) := by
  extract_lets i u w good
  have hb : wareMoveBody cls dir n u = checked _ _ u := rfl
  have hd : inDay u openDays = true := inDay_openDays (by simpa [u] using ha.notLockout rfl rfl)
  have range : (decide (cls < 8) && isFlag dir && within 1 Config.stockMax n) = decide good := Bool.eq_iff_iff.2 (by
    simp only [Bool.and_eq_true, within_iff, isFlag_iff, decide_eq_true_eq, and_assoc, good]; exact Iff.rfl)
  refine ⟨fun hg hl h hn => ?_, fun hg hl h hn => ?_, fun hg h => ?_, fun hg => ?_⟩
  · refine Executes.of_checks rfl ha hb ?_ ?_
    · exact (firstFailure_tail (by rw [range]; simpa using hg)).trans
        ((firstFailure_tail hd).trans (firstFailure_tail (by rw [if_pos h]; simpa using hn)))
    · have e : transfer cls .soiled .clean n u = u.setWare cls { w with soiled := w.soiled - n, clean := w.clean + n } := by
        rw [transfer, move_soiled_clean _ _ hn]
      simp only [if_pos h]
      rw [show before i p s = u from rfl, e, State.ware_setWare _ _ _ (by simpa [u] using hl)]
  · refine Executes.of_checks rfl ha hb ?_ ?_
    · exact (firstFailure_tail (by rw [range]; simpa using hg)).trans
        ((firstFailure_tail hd).trans (firstFailure_tail
          (by rw [if_neg (by omega)]; exact decide_eq_true hn)))
    · have e : transfer cls .clean .soiled n u = u.setWare cls { w with soiled := w.soiled + n, clean := w.clean - n } := by
        rw [transfer, move_clean_soiled _ _ (hn.trans (Nat.sub_le _ _))]
      simp only [if_neg (show ¬dir = 0 by omega)]
      rw [show before i p s = u from rfl, e, State.ware_setWare _ _ _ (by simpa [u] using hl)]
  · refine RefusedWith.of_checks rfl ha hb ((firstFailure_tail (by rw [range]; simpa using hg)).trans
      ((firstFailure_tail hd).trans (firstFailure_head ?_)))
    rcases h with ⟨h, hn⟩ | ⟨h, hn⟩
    · simpa [h] using hn
    · simpa [h, State.uncommitted] using hn
  · exact RefusedWith.of_checks rfl ha hb (firstFailure_head (by rw [range]; simpa using hg))

theorem writeOffLimit_eq (u : State) (cls source : Nat) :
    u.writeOffLimit cls source = if source = 0 then (u.ware cls).soiled
      else if source = 1 then (u.ware cls).clean - u.committed cls else (u.ware cls).house := by
  unfold State.writeOffLimit
  split
  · rfl
  · rfl
  · rename_i h0 h1
    rw [if_neg h0, if_neg h1]

/-- WARE_WRITE_OFF (R20). -/
theorem wareWriteOff_clauses (p : Port) (cls source n : Nat) (s : State) (ha : Admitted (.wareWriteOff p cls source n) p s) :
    let i := Instr.wareWriteOff p cls source n
    let u := before i p s
    let w := u.ware cls
    let good := cls < 8 ∧ source < 3 ∧ 1 ≤ n ∧ n ≤ 30000
    let limit := if source = 0 then w.soiled else if source = 1 then w.clean - u.committed cls else w.house
    (good → cls < s.wares.length → n ≤ limit → (source = 2 → w.house ≤ w.plated) →
      Executes i p s (be16 (w.stock - n))
        (u.setWare cls
          (if source = 0 then { w with stock := w.stock - n, soiled := w.soiled - n }
           else if source = 1 then { w with stock := w.stock - n, clean := w.clean - n }
           else { w with stock := w.stock - n, plated := w.plated - n, house := w.house - n }))) ∧
      (good → limit < n → RefusedWith i p s .short) ∧ (¬good → RefusedWith i p s .range) := by
  extract_lets i u w good limit
  have hb : wareWriteOffBody cls source n u = checked _ _ u := rfl
  have hd : inDay u openDays = true := inDay_openDays (by simpa [u] using ha.notLockout rfl rfl)
  have range : (decide (cls < 8) && decide (source < 3) && within 1 Config.stockMax n) = decide good := Bool.eq_iff_iff.2 (by
    simp only [Bool.and_eq_true, within_iff, decide_eq_true_eq, and_assoc, good]; exact Iff.rfl)
  have hlim : u.writeOffLimit cls source = limit := writeOffLimit_eq u cls source
  refine ⟨fun hg hl hn hp => Executes.of_checks rfl ha hb ?_ ?_, fun hg h => ?_, fun hg => ?_⟩
  · exact (firstFailure_tail (by rw [range]; simpa using hg)).trans
      ((firstFailure_tail hd).trans (firstFailure_tail (by rw [hlim]; simpa using hn)))
  · have hl' : cls < u.wares.length := by simpa [u] using hl
    have written : ∀ x : Ware, (u.setWare cls x).ware cls = x := fun x => State.ware_setWare _ _ _ hl'
    have hn' : n ≤ if source = 0 then w.soiled else if source = 1 then w.clean - u.committed cls else w.house := hn
    match source, hg.2.1, hn', hp with
    | 0, _, hn, _ =>
      show okWith (be16 ((u.setWare cls (w.takeOut .soiled n)).ware cls).stock) (u.setWare cls (w.takeOut .soiled n)) = _
      rw [written, takeOut_eq w .soiled n hn]
      rfl
    | 1, _, hn, _ =>
      show okWith (be16 ((u.setWare cls (w.takeOut .clean n)).ware cls).stock) (u.setWare cls (w.takeOut .clean n)) = _
      rw [written, takeOut_eq w .clean n (Nat.le_trans hn (Nat.sub_le _ _))]
      rfl
    | 2, _, hn, hp =>
      have e : subHouse cls n (u.setWare cls (w.takeOut .plated n)) =
          u.setWare cls { w with stock := w.stock - n, plated := w.plated - n, house := w.house - n } := by
        rw [subHouse, written, setWare_setWare, takeOut_eq w .plated n (Nat.le_trans hn (hp rfl))]
        rfl
      show okWith (be16 ((subHouse cls n (u.setWare cls (w.takeOut .plated n))).ware cls).stock)
        (subHouse cls n (u.setWare cls (w.takeOut .plated n))) = _
      rw [e, written]
      rfl
  · exact RefusedWith.of_checks rfl ha hb ((firstFailure_tail (by rw [range]; simpa using hg)).trans
      ((firstFailure_tail hd).trans (firstFailure_head (by rw [hlim]; simpa using h))))
  · exact RefusedWith.of_checks rfl ha hb (firstFailure_head (by rw [range]; simpa using hg))

/-- Settles O14, each command by its checks in their order. -/
theorem wareCountsChange : Obligations.WareCountsChange :=
  ⟨wareAdd_clauses, wareMove_clauses, wareWriteOff_clauses⟩

/-- Settles O15. -/
theorem wareReturnTakesPlatesBack : Obligations.WareReturnTakesPlatesBack := by
  intro p x n s
  refine ⟨fun ha => ?_, fun ha => ?_⟩
  · extract_lets i u c w good
    have hb : wareReturnBody 0 x n u = checked _ _ u := rfl
    have hd : inDay u openDays = true := inDay_openDays (by simpa [u] using ha.notLockout rfl rfl)
    have range : (isFlag 0 && decide (x < (if 0 = 0 then 32 else 8)) && within 1 3000 n) = decide good := Bool.eq_iff_iff.2 (by
      simp [isFlag, within_iff, good])
    have found : (decide (0 ≠ 0) || decide (c.state ≠ .empty)) = decide (c.state ≠ .empty) := rfl
    refine ⟨fun hg hl hc hn => Executes.of_checks rfl ha hb ?_ ?_, fun hg hc => ?_, fun hg hc h => ?_, fun hg => ?_⟩
    · exact (firstFailure_tail (by rw [range]; simpa using hg)).trans ((firstFailure_tail (by rw [found]; simpa using hc)).trans
        ((firstFailure_tail hd).trans (firstFailure_tail (by simpa [State.outstanding] using hn))))
    · have hl' : x < (transfer c.cls .plated .soiled n u).courses.length := by simpa [u, transfer] using hl
      refine okWith_congr (congrArg be16 ?_) ?_
      · exact congrArg (fun y : Course => y.plated - y.returned) (State.course_setCourse _ _ _ hl')
      · exact congrArg (fun y => (u.setWare c.cls y).setCourse x { c with returned := c.returned + n }) (move_plated_soiled w n)
    · exact RefusedWith.of_checks rfl ha hb ((firstFailure_tail (by rw [range]; simpa using hg)).trans
        (firstFailure_head (by rw [found]; simpa using hc)))
    · exact RefusedWith.of_checks rfl ha hb ((firstFailure_tail (by rw [range]; simpa using hg)).trans
        ((firstFailure_tail (by rw [found]; simpa using hc)).trans ((firstFailure_tail hd).trans
          (firstFailure_head (by simpa [State.outstanding] using h)))))
    · exact RefusedWith.of_checks rfl ha hb (firstFailure_head (by rw [range]; simpa using hg))
  · extract_lets i u w good
    have hb : wareReturnBody 1 x n u = checked _ _ u := rfl
    have hd : inDay u openDays = true := inDay_openDays (by simpa [u] using ha.notLockout rfl rfl)
    have range : (isFlag 1 && decide (x < (if 1 = 0 then 32 else 8)) && within 1 3000 n) = decide good := Bool.eq_iff_iff.2 (by
      simp [isFlag, within_iff, good])
    refine ⟨fun hg hl hn => Executes.of_checks rfl ha hb ?_ ?_, fun hg h => ?_, fun hg => ?_⟩
    · exact (firstFailure_tail (by rw [range]; simpa using hg)).trans ((firstFailure_tail rfl).trans
        ((firstFailure_tail hd).trans (firstFailure_tail (by simpa [State.outstanding] using hn))))
    · have hl' : x < u.wares.length := by simpa [u] using hl
      have e : subHouse x n (transfer x .plated .soiled n u) =
          u.setWare x { w with soiled := w.soiled + min n w.plated, plated := w.plated - n, house := w.house - n } := by
        rw [subHouse, transfer, State.ware_setWare _ _ _ hl', setWare_setWare, move_plated_soiled]
      refine okWith_congr (congrArg be16 ?_) e
      exact congrArg Ware.house ((congrArg (State.ware · x) e).trans (State.ware_setWare _ _ _ hl'))
    · exact RefusedWith.of_checks rfl ha hb ((firstFailure_tail (by rw [range]; simpa using hg)).trans
        ((firstFailure_tail rfl).trans ((firstFailure_tail hd).trans
          (firstFailure_head (by simpa [State.outstanding] using h)))))
    · exact RefusedWith.of_checks rfl ha hb (firstFailure_head (by rw [range]; simpa using hg))

end Sys2Proof.Certificates
end

section
/-! SUPPORT. What R3 reads of the records, and the operations that leave it as it stands: no plate moves, no rack enters,
leaves or changes its section, reason or destination, and no route joins a list. A property of what R3 reads is kept by
every one of them. -/

namespace Sys2Proof.Machine

/-! ### What R3 reads -/

/-- What R3 and the routes read of a rack. -/
def Rack.stand (r : Rack) : Nat × Nat × Nat × Option HoldReason × Option Nat := (r.tag, r.cls, r.count, r.reason, r.dest)

/-- The racks of a line stand as they stood. -/
structure LineTally (old new : Line) : Prop where
  staged : new.staged.map Rack.stand = old.staged.map Rack.stand
  inside : new.inside.map Rack.stand = old.inside.map Rack.stand
  exits : new.exits.map Rack.stand = old.exits.map Rack.stand

/-- A cabinet has its lots as they were, and no route that it had not. -/
structure CabTally (old new : Cab) : Prop where
  kind : new.kind = old.kind
  cls : new.cls = old.cls
  lots : new.lots.map (·.count) = old.lots.map (·.count)
  routes : ∀ y ∈ new.routes, ∃ z ∈ old.routes, z.line = y.line ∧ z.tag = y.tag

/-- A course has out what it had out. -/
structure CourseTally (old new : Course) : Prop where
  cls : new.cls = old.cls
  plated : new.plated = old.plated
  returned : new.returned = old.returned
  empty : new.state = .empty ↔ old.state = .empty
  unfired : new.state = .planned ∨ new.state = .armed ↔ old.state = .planned ∨ old.state = .armed

/-- What R3 reads stands in `t` as it stood in `s`. -/
structure Unmoved (s t : State) : Prop where
  wares : t.wares = s.wares
  courses : t.courses.length = s.courses.length
  cabs : t.cabs.length = s.cabs.length
  lines : t.lines.length = s.lines.length
  course : ∀ c, CourseTally (s.course c) (t.course c)
  cab : ∀ k, CabTally (s.cab k) (t.cab k)
  line : ∀ l, LineTally (s.line l) (t.line l)

/-- `P` is a property of what R3 reads. -/
def OfTally (P : State → Prop) : Prop := ∀ s t, Unmoved s t → P s → P t

theorem LineTally.refl (l : Line) : LineTally l l := ⟨rfl, rfl, rfl⟩
theorem CabTally.refl (c : Cab) : CabTally c c := ⟨rfl, rfl, rfl, fun y hy => ⟨y, hy, rfl, rfl⟩⟩
theorem CourseTally.refl (c : Course) : CourseTally c c := ⟨rfl, rfl, rfl, Iff.rfl, Iff.rfl⟩

theorem LineTally.trans {a b c : Line} (h : LineTally a b) (g : LineTally b c) : LineTally a c :=
  ⟨g.staged.trans h.staged, g.inside.trans h.inside, g.exits.trans h.exits⟩

theorem CabTally.trans {a b c : Cab} (h : CabTally a b) (g : CabTally b c) : CabTally a c :=
  ⟨g.kind.trans h.kind, g.cls.trans h.cls, g.lots.trans h.lots, fun y hy => by
    obtain ⟨z, hz, h1, h2⟩ := g.routes y hy
    obtain ⟨w, hw, h3, h4⟩ := h.routes z hz
    exact ⟨w, hw, h3.trans h1, h4.trans h2⟩⟩

theorem CourseTally.trans {a b c : Course} (h : CourseTally a b) (g : CourseTally b c) : CourseTally a c :=
  ⟨g.cls.trans h.cls, g.plated.trans h.plated, g.returned.trans h.returned, g.empty.trans h.empty,
    g.unfired.trans h.unfired⟩

theorem Unmoved.refl (s : State) : Unmoved s s :=
  ⟨rfl, rfl, rfl, rfl, fun _ => CourseTally.refl _, fun _ => CabTally.refl _, fun _ => LineTally.refl _⟩

theorem Unmoved.trans {s t u : State} (h : Unmoved s t) (g : Unmoved t u) : Unmoved s u :=
  ⟨g.wares.trans h.wares, g.courses.trans h.courses, g.cabs.trans h.cabs, g.lines.trans h.lines,
    fun c => (h.course c).trans (g.course c), fun k => (h.cab k).trans (g.cab k), fun l => (h.line l).trans (g.line l)⟩

theorem Unmoved.ofTally (s : State) : OfTally (Unmoved s) := fun _ _ h g => g.trans h

/-- A record that keeps its fields but for states that the end of a step may change has out what it had out. -/
theorem CourseKeeps.tally {a b : Course} (h : CourseKeeps a b) : CourseTally a b := by
  refine ⟨h.cls, h.plated, h.returned, ?_, ?_⟩ <;> rcases h.state with e | ⟨e1, e2⟩ | ⟨e1, e2⟩ <;> simp_all

/-- A change that keeps the lots and leaves the routes, or takes some away. -/
theorem CabTally.of {a b : Cab} (h1 : b.kind = a.kind) (h2 : b.cls = a.cls) (h3 : b.lots = a.lots)
    (h4 : ∀ y ∈ b.routes, y ∈ a.routes) : CabTally a b :=
  ⟨h1, h2, by rw [h3], fun y hy => ⟨y, h4 y hy, rfl, rfl⟩⟩

theorem map_map_congr {α β : Type} {g : α → β} {f : α → α} (hf : ∀ x, g (f x) = g x) (l : List α) :
    (l.map f).map g = l.map g := by
  rw [List.map_map]
  exact List.map_congr_left fun x _ => hf x

variable {P : State → Prop} {s : State}

namespace OfTally

variable (h : OfTally P)
include h

/-! ### Records -/

/-- A change of records that R3 does not read. -/
theorem frame {t : State} (hs : P s) (h1 : t.wares = s.wares) (h2 : t.courses = s.courses) (h3 : t.cabs = s.cabs)
    (h4 : t.lines = s.lines) : P t := by
  have e2 : ∀ c, t.course c = s.course c := fun c => congrArg (List.getD · c Course.initial) h2
  have e3 : ∀ k, t.cab k = s.cab k := fun k => congrArg (List.getD · k Cab.initial) h3
  have e4 : ∀ l, t.line l = s.line l := fun l => congrArg (List.getD · l Line.initial) h4
  exact h s t ⟨h1, by rw [h2], by rw [h3], by rw [h4], fun c => by rw [e2]; exact CourseTally.refl _,
    fun k => by rw [e3]; exact CabTally.refl _, fun l => by rw [e4]; exact LineTally.refl _⟩ hs

theorem setCourse (c : Nat) (x : Course) (hx : CourseTally (s.course c) x) (hs : P s) : P (s.setCourse c x) :=
  h s _ { Unmoved.refl s with
    courses := by simp
    course := fun j => by
      rw [State.course_setCourse_ite]
      split
      · rename_i hj
        rw [hj.1]
        exact hx
      · exact CourseTally.refl _ } hs

theorem withCabs (l : List Cab) (hl : l.length = s.cabs.length)
    (hx : ∀ k, CabTally (s.cab k) (l.getD k Cab.initial)) (hs : P s) : P (s.withCabs l) :=
  h s _ { Unmoved.refl s with cabs := hl, cab := hx } hs

theorem setCab (k : Nat) (x : Cab) (hx : CabTally (s.cab k) x) (hs : P s) : P (s.setCab k x) := by
  refine h.withCabs _ (by simp) (fun j => ?_) hs
  show CabTally (s.cab j) ((s.setCab k x).cab j)
  rw [State.cab_setCab_ite]
  split
  · rename_i hj
    rw [hj.1]
    exact hx
  · exact CabTally.refl _

/-- A change of a cabinet's record that keeps its lots and its routes. -/
theorem setCab' (k : Nat) (x : Cab) (h1 : x.kind = (s.cab k).kind) (h2 : x.cls = (s.cab k).cls)
    (h3 : x.lots = (s.cab k).lots) (h4 : x.routes = (s.cab k).routes) (hs : P s) : P (s.setCab k x) :=
  h.setCab k x (CabTally.of h1 h2 h3 fun y hy => by rwa [h4] at hy) hs

theorem mapCabs (f : Cab → Cab) (hf : ∀ c, CabTally c (f c)) (h0 : f Cab.initial = Cab.initial) (hs : P s) :
    P (s.withCabs (s.cabs.map f)) := by
  refine h.withCabs _ (by simp) (fun j => ?_) hs
  have e : (s.cabs.map f).getD j Cab.initial = f (s.cab j) := by
    simp only [State.cab, List.getD_eq_getElem?_getD, List.getElem?_map]
    cases s.cabs[j]? <;> simp [h0]
  rw [e]
  exact hf _

theorem withLines (l : List Line) (hl : l.length = s.lines.length)
    (hx : ∀ k, LineTally (s.line k) (l.getD k Line.initial)) (hs : P s) : P (s.withLines l) :=
  h s _ { Unmoved.refl s with lines := hl, line := hx } hs

theorem setLine (k : Nat) (x : Line) (hx : LineTally (s.line k) x) (hs : P s) : P (s.setLine k x) := by
  refine h.withLines _ (by simp) (fun j => ?_) hs
  show LineTally (s.line j) ((s.setLine k x).line j)
  rw [State.line_setLine_ite]
  split
  · rename_i hj
    rw [hj.1]
    exact hx
  · exact LineTally.refl _

theorem mapLines (f : Line → Line) (hf : ∀ c, LineTally c (f c)) (hs : P s) : P (s.withLines (s.lines.map f)) := by
  refine h.withLines _ (by simp) (fun j => ?_) hs
  simp only [State.line, List.getD_eq_getElem?_getD, List.getElem?_map]
  cases s.lines[j]? with
  | none => exact LineTally.refl _
  | some x => exact hf x

/-- Notices, pages, SET claims, earmarks and readiness. -/
theorem hush : Hush P where
  calls _ hs := h.frame hs rfl rfl rfl rfl
  freeCount _ hs := h.frame hs rfl rfl rfl rfl
  offer _ _ hs := h.frame hs rfl rfl rfl rfl
  course c x hx hs := h.setCourse c x hx.tally hs
  earmarks _ hs := h.frame hs rfl rfl rfl rfl
  paging _ _ hs := h.frame hs rfl rfl rfl rfl
  bus _ _ hs := h.frame hs rfl rfl rfl rfl

theorem setConsumer (c : Nat) (x : Consumer) (hs : P s) : P (s.setConsumer c x) := by
  have h1 : P (s.withPower { s.power with consumers := s.power.consumers.set c x }) := h.frame hs rfl rfl rfl rfl
  unfold State.setConsumer
  dsimp only
  split
  · exact h1
  · exact h.setLine _ _ ⟨rfl, rfl, rfl⟩ h1

theorem setNode (a : Nat) (x : Node) (hs : P s) : P (s.setNode a x) := h.frame hs rfl rfl rfl rfl
theorem withPower (x : Power) (hs : P s) : P (s.withPower x) := h.frame hs rfl rfl rfl rfl
theorem withPaging (x : Paging) (hs : P s) : P (s.withPaging x) := h.frame hs rfl rfl rfl rfl
theorem withBus (x : Bus) (hs : P s) : P (s.withBus x) := h.frame hs rfl rfl rfl rfl
theorem withDay (x : Day) (hs : P s) : P (s.withDay x) := h.frame hs rfl rfl rfl rfl
theorem withHold (x : Hold) (hs : P s) : P (s.withHold x) := h.frame hs rfl rfl rfl rfl
theorem withPending (x : List Instr) (hs : P s) : P (s.withPending x) := h.frame hs rfl rfl rfl rfl
theorem setPort (p : Port) (x : PortRec) (hs : P s) : P (s.setPort p x) :=
  h.frame hs (by simp) (by simp) (by simp) (by simp)

/-! ### Power claims and lines -/

theorem lowerTo (c n : Nat) (hs : P s) : P (lowerTo c n s) := h.hush.callRestore (h.setConsumer _ _ hs)

theorem request (c n : Nat) (hs : P s) : P (request c n s) := by
  unfold Machine.request
  dsimp only
  split
  · exact h.hush.callAdmission (h.setConsumer _ _ hs)
  · exact h.lowerTo _ _ hs

theorem release (c : Nat) (hs : P s) : P (release c s) := h.hush.callRestore (h.setConsumer _ _ hs)
theorem clearMeasured (c : Nat) (hs : P s) : P (clearMeasured c s) := h.hush.callCheck (h.setConsumer _ _ hs)
theorem withStops (l : Nat) (x : StopSet) (hs : P s) : P (withStops l x s) := h.setLine _ _ ⟨rfl, rfl, rfl⟩ hs

theorem backpressure (l : Nat) (hs : P s) : P (backpressure l s) := by
  unfold Machine.backpressure
  dsimp only
  split
  · exact h.withStops _ _ hs
  · split
    · exact h.withStops _ _ hs
    · exact hs

/-- A change of a rack that R3 does not read. -/
theorem updExit (l tag : Nat) (f : Rack → Rack) (hf : ∀ r, (f r).stand = r.stand) (hs : P s) : P (updExit l tag f s) :=
  h.setLine _ _ ⟨rfl, rfl, map_map_congr (fun r => by split <;> simp [hf]) _⟩ hs

theorem loadRack (l tag n : Nat) (hs : P s) : P (loadRack l tag n s) := h.updExit _ _ _ (fun _ => rfl) hs

theorem boosterSync (l : Nat) (hs : P s) : P (boosterSync l s) := by
  unfold Machine.boosterSync
  dsimp only
  split
  · split
    · exact h.request _ _ hs
    · exact hs
  · split
    · exact h.release _ hs
    · exact hs

theorem conveyorSync (u : Bool) (l : Nat) (hs : P s) : P (conveyorSync u l s) := by
  unfold Machine.conveyorSync
  dsimp only
  split
  · exact hs
  · exact h.hush.claimSet _ _ _ _ (h.setLine _ _ ⟨rfl, rfl, rfl⟩ hs)

theorem setRunning (l : Nat) (run : Bool) (hs : P s) : P (setRunning l run s) := by
  unfold Machine.setRunning
  dsimp only
  split
  · exact hs
  · exact h.hush.raise _ _ _ _ (h.setLine _ _ ⟨rfl, rfl, rfl⟩ hs)

theorem applyRinse (l : Nat) (t : Int) (hs : P s) : P (applyRinse l t s) := by
  have h1 : P (s.setLine l { s.line l with rinse := t }) := h.setLine _ _ ⟨rfl, rfl, rfl⟩ hs
  unfold Machine.applyRinse
  dsimp only
  split
  · exact h.setLine _ _ ⟨rfl, rfl, rfl⟩ h1
  · split
    · exact h.hush.raise _ _ _ _ (h.setLine _ _ ⟨rfl, rfl, rfl⟩ h1)
    · exact h1

theorem lineLost (l : Nat) (hs : P s) : P (lineLost l s) := h.clearMeasured _ (h.setRunning _ _ hs)

theorem lineJoined (l : Nat) (hs : P s) : P (lineJoined l s) :=
  h.hush.claimSet _ _ _ _ (h.setLine _ _ ⟨rfl, rfl, rfl⟩ hs)

theorem lockoutLine (l : Nat) (hs : P s) : P (lockoutLine l s) :=
  h.conveyorSync _ _ (h.boosterSync _ (h.withStops _ _ hs))

/-! ### Cabinets -/

omit h in
theorem enter_tally (c : Cab) (st : CabState) : CabTally c (c.enter st) := by
  cases st <;> exact CabTally.of rfl rfl rfl fun y hy => hy

theorem changeState (k : Nat) (st : CabState) (u : Bool) (hs : P s) : P (changeState k st u s) := by
  unfold Machine.changeState
  dsimp only
  split
  · exact hs
  · have h1 := h.hush.claimCab k u (h.hush.raise .cabinetState k st.code (s.cab k).state.code
      (h.setCab k ((s.cab k).enter st) (enter_tally _ _) hs))
    refine h.hush.callClose (h.hush.callRoutes ?_)
    split
    · exact h.hush.releaseWarmer _ h1
    · split
      · exact h.hush.evaluateAll (h.hush.walkOwing _ h1)
      · exact h1

theorem requestHeat (k : Nat) (hs : P s) : P (requestHeat k s) := by
  unfold Machine.requestHeat
  dsimp only
  have h1 := h.request k (((Machine.changeState k .waitPower false s).cab k).heat) (h.changeState k .waitPower false hs)
  split
  · exact h.changeState _ _ _ h1
  · exact h1

theorem dropRoute (k l tag : Nat) (hs : P s) : P (dropRoute k l tag s) :=
  h.setCab _ _ (CabTally.of rfl rfl rfl fun _ hy => (List.mem_filter.1 hy).1) hs

theorem sleepSync (k : Nat) (hs : P s) : P (sleepSync k s) := by
  unfold Machine.sleepSync
  dsimp only
  split
  · split
    · exact hs
    · exact h.setCab' _ _ rfl rfl rfl rfl hs
  · split
    · exact h.setCab' _ _ rfl rfl rfl rfl hs
    · exact hs

theorem setOvenFault (k : Nat) (b : Batch) (hs : P s) : P (setOvenFault k b s) := by
  unfold Machine.setOvenFault
  dsimp only
  split
  · exact hs
  · exact h.hush.raise _ _ _ _ (h.setCourse _ _ ⟨rfl, rfl, rfl, Iff.rfl, Iff.rfl⟩ hs)

theorem enterSleep (k : Nat) (hs : P s) : P (enterSleep k s) := h.changeState _ _ _ (h.lowerTo _ _ hs)

theorem switchOn (k : Nat) (hs : P s) : P (switchOn k s) := by
  unfold Machine.switchOn
  dsimp only
  split
  · exact h.requestHeat _ hs
  · exact hs

theorem judgeNow (k : Nat) (hs : P s) : P (judgeNow k s) := by
  unfold Machine.judgeNow
  dsimp only
  split
  · split
    · exact h.changeState _ _ _ (h.lowerTo _ _ hs)
    · exact hs
  · split
    · exact h.requestHeat _ hs
    · exact hs
  · exact hs

theorem judgeReport (k : Nat) (hs : P s) : P (judgeReport k s) := by
  unfold Machine.judgeReport
  dsimp only
  split
  · split
    · exact h.changeState _ _ _ (h.lowerTo _ _ hs)
    · exact hs
  · exact h.judgeNow _ hs

theorem applySetpoint (k : Nat) (t : Int) (b : Nat) (hs : P s) : P (applySetpoint k t b s) :=
  h.judgeNow _ (h.hush.claimCab _ _ (h.setCab' _ _ rfl rfl rfl rfl hs))

theorem latch (k : Nat) (set : CondSet) (hs : P s) : P (latch k set s) := by
  unfold Machine.latch
  dsimp only
  split
  · exact hs
  · split
    · exact h.setCab' _ _ rfl rfl rfl rfl hs
    · exact h.hush.raise _ _ _ _ (h.setCab' _ _ rfl rfl rfl rfl hs)

theorem setConfirm (k : Nat) (t : Option Nat) (hs : P s) : P (setConfirm k t s) := h.withDay _ hs

theorem startConfirm (k : Nat) (hs : P s) : P (startConfirm k s) := by
  unfold Machine.startConfirm
  split
  · exact hs
  · split
    · exact hs
    · exact h.setConfirm _ _ hs

theorem confirmLevel (k : Nat) (b : Bool) (m : ElementMode) (hs : P s) : P (confirmLevel k b m s) := by
  unfold Machine.confirmLevel
  split
  · exact h.setConfirm _ _ hs
  · exact hs

theorem bandTest (k : Nat) (hs : P s) : P (bandTest k s) := by
  unfold Machine.bandTest
  dsimp only
  split
  · split
    · exact h.hush.evaluateAll (h.setCab _ _ ⟨rfl, rfl, map_map_congr (fun r => by split <;> rfl) _,
        fun y hy => ⟨y, hy, rfl, rfl⟩⟩ hs)
    · split
      · exact h.setCab' _ _ rfl rfl rfl rfl hs
      · exact hs
  · exact hs

/-! ### Courses -/

theorem removeBatch (c : Nat) (hs : P s) : P (removeBatch c s) := by
  unfold Machine.removeBatch
  split
  · exact hs
  · exact h.setCab' _ _ rfl rfl rfl rfl hs

theorem startBatch (c : Nat) (hs : P s) : P (startBatch c s) := by
  unfold Machine.startBatch
  split
  · exact hs
  · exact h.setCab' _ _ rfl rfl rfl rfl hs

theorem enterCourse (c : Nat) (st : CourseState) (h1 : st = .empty ↔ (s.course c).state = .empty)
    (h2 : st = .planned ∨ st = .armed ↔ (s.course c).state = .planned ∨ (s.course c).state = .armed) (hs : P s) :
    P (enterCourse c st s) :=
  h.hush.raise _ _ _ _ (h.setCourse _ _ ⟨rfl, rfl, rfl, h1, h2⟩ hs)

theorem robYoungest (k : Nat) (hs : P s) : P (robYoungest k s) := by
  unfold Machine.robYoungest
  split
  · exact hs
  · exact h.hush.setOwed _ _ (h.hush.dropEarmark _ _ hs)

theorem settleDraw (c k cls free : Nat) (hs : P s) : P (settleDraw c k cls free s) := by
  unfold Machine.settleDraw
  split
  · exact h.hush.dropEarmark _ _ hs
  · split
    · exact h.hush.setOwed _ _ hs
    · split
      · dsimp only
        split
        · exact h.hush.walkOwing _ (h.hush.dropEarmark _ _ hs)
        · exact h.hush.refill _ (h.hush.walkOwing _ (h.robYoungest _ (h.hush.dropEarmark _ _ hs)))
      · exact h.hush.refill _ (h.robYoungest _ (h.hush.setOwed _ _ hs))

theorem bookBatch (k : Nat) (b : Batch) (hs : P s) : P (bookBatch k b s) := by
  unfold Machine.bookBatch
  dsimp only
  have h1 : P (s.setCab k { s.cab k with batches := (s.cab k).batches ++ [b] }) := h.setCab' _ _ rfl rfl rfl rfl hs
  refine h.setCab' _ _ rfl rfl rfl rfl ?_
  split
  · exact h.applySetpoint _ _ _ h1
  · exact h1

/-! ### Paging -/

theorem setRate (t : Nat) (r : Rate) (hs : P s) : P (setRate t r s) := by
  unfold Machine.setRate
  split
  · exact hs
  · exact h.withPaging _ hs

theorem countRate (p : Page) (hs : P s) : P (countRate p s) := by
  unfold Machine.countRate
  split
  · exact hs
  · split
    · exact hs
    · dsimp only
      split
      · exact h.setRate _ _ hs
      · split
        · exact h.setRate _ _ hs
        · exact h.setRate _ _ (h.frame hs rfl rfl rfl rfl)

theorem applyTransmitted (id : Nat) (hs : P s) : P (applyTransmitted id s) := by
  unfold Machine.applyTransmitted
  split
  · exact hs
  · split
    · split
      · exact h.hush.endPage _ _ hs
      · exact h.countRate _ (h.hush.updPage _ _ hs)
    · exact hs

theorem applyAck (id : Nat) (hs : P s) : P (applyAck id s) := by
  unfold Machine.applyAck
  split
  · exact hs
  · split
    · split
      · exact h.hush.endPage _ _ hs
      · exact h.hush.endPage _ _ (h.countRate _ hs)
    · exact h.hush.endPage _ _ hs

theorem returnPage (id : Nat) (hs : P s) : P (returnPage id s) := by
  unfold Machine.returnPage
  split
  · exact hs
  · split
    · exact h.hush.endPage _ _ hs
    · dsimp only
      split
      · exact h.hush.endPage _ _ (h.hush.updPage _ _ hs)
      · exact h.hush.updPage _ _ hs

theorem withBaseFull (b : Bool) (hs : P s) : P (withBaseFull b s) := h.withPaging _ hs

theorem answerDeliver (id : Nat) (b : Bool) (hs : P s) : P (answerDeliver id b s) := by
  unfold Machine.answerDeliver
  split
  · exact hs
  · split
    · split
      · exact h.hush.updPage _ _ hs
      · exact h.hush.selectPass (h.withBaseFull _ (h.returnPage _ hs))
    · exact hs

theorem missDeliver (id : Nat) (hs : P s) : P (missDeliver id s) := by
  unfold Machine.missDeliver
  split
  · exact hs
  · split
    · exact h.hush.selectPass (h.returnPage _ hs)
    · exact hs

theorem baseLost (hs : P s) : P (baseLost s) :=
  h.hush.selectPass (h.withBaseFull _ (h.hush.removeDelivers
    (Hush.forEach (f := Machine.returnPage) (fun k _ hs => h.returnPage k hs) _ hs)))

theorem refreshPager (a : Nat) (hs : P s) : P (refreshPager a s) := by
  unfold Machine.refreshPager
  split
  · exact hs
  · exact h.withPaging _ hs

theorem applyCheckIn (a : Nat) (hs : P s) : P (applyCheckIn a s) := by
  unfold Machine.applyCheckIn
  split
  · split
    · exact h.refreshPager _ hs
    · split
      · exact h.withPaging _ hs
      · split
        · exact h.withPaging _ hs
        · split
          · exact hs
          · exact h.withPaging _ (h.hush.raise _ _ _ _ hs)
  · exact hs

theorem applyBaseReport (r : BaseRep) (hs : P s) : P (applyBaseReport r s) := by
  unfold Machine.applyBaseReport
  dsimp only
  exact h.hush.selectPass (h.withBaseFull _
    (Hush.forEach (f := Machine.applyCheckIn) (fun k _ hs => h.applyCheckIn k hs) _
      (Hush.foldl (f := fun t (x : Nat × Nat) => Machine.refreshPager x.1 (Machine.applyAck x.2 t))
        (fun x _ hs => h.refreshPager _ (h.applyAck _ hs)) _
        (Hush.forEach (f := Machine.applyTransmitted) (fun k _ hs => h.applyTransmitted k hs) _ hs))))

theorem agePagers (age : Option Nat) (hs : P s) : P (agePagers age s) := by
  unfold Machine.agePagers
  split
  · exact hs
  · dsimp only
    split
    · exact h.withPaging _ (h.withPaging _ hs)
    · exact hs

/-! ### Power -/

theorem giveGrant (c : Nat) (hs : P s) : P (giveGrant c s) := h.setConsumer _ _ hs

theorem admitWalk : ∀ (l : List Nat) {s : State}, P s → P (admitWalk l s)
  | [], _, hs => hs
  | c :: cs, s, hs => by
    unfold Machine.admitWalk
    split
    · dsimp only
      split
      · exact admitWalk cs (h.changeState _ _ _ (h.giveGrant _ hs))
      · exact admitWalk cs (h.giveGrant _ hs)
    · exact hs

theorem admission (hs : P s) : P (admission s) := h.admitWalk _ hs

theorem withSettle (t : Option Nat) (hs : P s) : P (withSettle t s) := h.withPower _ hs

theorem restoreCheck (hs : P s) : P (restoreCheck s) := by
  unfold Machine.restoreCheck
  split
  · split
    · exact hs
    · split
      · dsimp only
        split
        · exact h.withSettle _ (h.hush.raise _ _ _ _ (h.changeState _ _ _ (h.changeState _ _ _ (h.giveGrant _ hs))))
        · exact h.withSettle _ (h.hush.raise _ _ _ _ (h.giveGrant _ hs))
      · exact hs
  · exact hs

theorem powerTry (hs : P s) : P (powerTry s) := by
  have h0 : P (s.withCalls { s.calls with admission := false, restore := false }) := h.hush.calls _ hs
  unfold Machine.powerTry
  dsimp only
  split
  · split
    · exact h.restoreCheck (h.admission h0)
    · exact h.restoreCheck h0
  · split
    · exact h.admission h0
    · exact h0

theorem shedOne (c why : Nat) (hs : P s) : P (shedOne c why s) := by
  unfold Machine.shedOne
  extract_lets x lv s1 s2
  have h1 : P s1 := h.setConsumer _ _ hs
  refine h.hush.raise _ _ _ _ ?_
  show P (if c < 24 then _ else _)
  split
  · exact h.changeState _ _ _ h1
  · exact h1

theorem shedCheck (hs : P s) : P (shedCheck s) := by
  unfold Machine.shedCheck
  split
  · split
    · exact h.withSettle _ (h.shedOne _ _ hs)
    · split
      · exact hs
      · exact h.hush.raise _ _ _ _ (h.withPower _ hs)
  · exact hs

theorem revoke : ∀ (k n : Nat) {s : State}, P s → P (revoke k n s).1
  | 0, _, _, hs => hs
  | k + 1, n, s, hs => by
    unfold Machine.revoke
    split
    · split
      · exact hs
      · exact revoke k (n + 1) (h.shedOne _ _ hs)
    · exact hs

theorem addMeter (m e : Nat) (hs : P s) : P (addMeter m e s) := by
  have h1 : ∀ x : Meter, P (s.setMeter m x) := fun x => h.withPower _ hs
  unfold Machine.addMeter
  dsimp only
  split
  · exact h.hush.raise _ _ _ _ (h1 _)
  · exact h1 _

theorem powerReport (c d : Nat) (hs : P s) : P (powerReport c d s) := by
  unfold Machine.powerReport
  extract_lets e s1 src s2 s3
  have h2 : P s2 := h.setConsumer _ _ (h.addMeter _ _ (h.addMeter _ _ hs))
  refine h.restoreCheck (h.shedCheck ?_)
  show P (if s2.measuredTotal ≤ s2.power.shedHigh then _ else _)
  split
  · exact h.withPower _ h2
  · exact h2

theorem powerLockout (hs : P s) : P (powerLockout s) :=
  h.withPower _ (Hush.forEach (f := fun c t =>
    t.setConsumer c { t.consumer c with grant := 0, request := 0, mark := false, reqTime := none })
    (fun _ _ ht => h.setConsumer _ _ ht) (List.range 26) hs)

/-! ### The hold and lockout -/

theorem endHold (k : Option NoticeKind) (d : Nat) (hs : P s) : P (endHold k d s) := by
  unfold Machine.endHold
  dsimp only
  split
  · exact h.withHold _ (h.hush.raiseTo _ _ _ _ _ hs)
  · exact h.withHold _ hs

theorem lockoutPage (hs : P s) : P (lockoutPage s) := h.hush.claimPage _ _ _ _ _ (h.hush.freeCount _ hs)

/-! ### The bus and its nodes -/

theorem setFetchAhead (a : Nat) (hs : P s) : P (setFetchAhead a s) := by
  unfold Machine.setFetchAhead
  dsimp only
  split
  · exact h.setNode _ _ hs
  · exact h.withBus _ (h.setNode _ _ hs)

theorem discoveryStep (hs : P s) : P (discoveryStep s) := by
  unfold Machine.discoveryStep
  split
  · exact hs
  · exact h.hush.queueOrdinary _ (h.withBus _ hs)

theorem tellBack (b : Binding) (hs : P s) : P (tellBack b s) := by
  unfold Machine.tellBack
  split
  · exact h.setCab' _ _ rfl rfl rfl rfl hs
  · exact h.hush.selectPass hs
  · exact hs

theorem tellSilent (b : Binding) (hs : P s) : P (tellSilent b s) := by
  unfold Machine.tellSilent
  split
  · exact h.setCab' _ _ rfl rfl rfl rfl hs
  · exact hs

theorem bindNode (a : Nat) (hs : P s) : P (bindNode a s) := by
  unfold Machine.bindNode
  extract_lets n b s1
  have h1 : P s1 := by
    show P (if b = .unbound then _ else _)
    split
    · exact h.hush.removeSet _ (h.setNode _ _ hs)
    · exact h.setNode _ _ hs
  split
  · exact h.hush.raise _ _ _ _ h1
  · exact h1

theorem renamed (a : Option Nat) (hs : P s) : P (renamed a s) := by
  unfold Machine.renamed
  split
  · exact hs
  · split
    · exact h.bindNode _ hs
    · exact hs

theorem renameFrom (a b : Option Nat) (hs : P s) : P (renameFrom a b s) := by
  unfold Machine.renameFrom
  split
  · exact h.renamed _ hs
  · exact h.renamed _ (h.renamed _ hs)

theorem unsetBaselines (a : Option Nat) (hs : P s) : P (unsetBaselines a s) := by
  unfold Machine.unsetBaselines
  split
  · exact hs
  · exact h.setNode _ _ hs

theorem answered (a : Nat) (hs : P s) : P (answered a s) := by
  unfold Machine.answered
  dsimp only
  split
  · exact h.tellBack _ (h.setNode _ _ hs)
  · exact h.setNode _ _ hs

theorem goSilent (a : Nat) (hs : P s) : P (goSilent a s) :=
  h.tellSilent _ (h.hush.raise _ _ _ _ (h.setNode _ _ hs))

theorem reconcile (a : Nat) (b : RespBody) (hs : P s) : P (reconcile a b s) := by
  unfold Machine.reconcile
  extract_lets n differs
  split
  · exact h.hush.queueSet _ _ hs
  · exact hs

theorem endTx (hs : P s) : P (endTx s) := h.withBus _ hs

theorem countMiss (a : Nat) (hs : P s) : P (countMiss a s) := by
  unfold Machine.countMiss
  dsimp only
  split
  · exact h.goSilent _ (h.setNode _ _ hs)
  · exact h.setNode _ _ hs

theorem missTx (f : InFlight) (hs : P s) : P (missTx f s) := by
  unfold Machine.missTx
  split
  · exact h.hush.restartPoll _ (h.hush.refreshPoll _ (h.setNode _ _ (h.countMiss _ hs)))
  · exact h.countMiss _ hs
  · dsimp only
    split
    · exact h.countMiss _ hs
    · exact h.missDeliver _ (h.countMiss _ hs)
  · split
    · exact h.countMiss _ hs
    · exact hs

theorem failAttempt (f : InFlight) (hs : P s) : P (failAttempt f s) := by
  unfold Machine.failAttempt
  split
  · exact h.withBus _ hs
  · exact h.missTx _ (h.endTx hs)

theorem transmit (t : Tx) (hs : P s) : P (transmit t s) := by
  have h1 : P (s.withBus { s.bus with btx := busFrame t.addr t.kind (s.payload t) }) := h.withBus _ hs
  unfold Machine.transmit
  dsimp only
  split
  · split
    · exact h.setNode _ _ h1
    · exact h1
  · exact h1

theorem sendTx (t : Tx) (u : Bool) (hs : P s) : P (sendTx t u s) := h.transmit _ (h.withBus _ hs)

theorem sendNext (hs : P s) : P (sendNext s) := by
  unfold Machine.sendNext
  split
  · exact h.sendTx _ _ (h.withBus _ hs)
  · exact h.sendTx _ _ (h.withBus _ hs)
  · exact h.sendTx _ _ (h.withBus _ hs)
  · exact hs

theorem reachMs (t : Nat) (hs : P s) : P (reachMs t s) := h.withDay _ hs

end OfTally

end Sys2Proof.Machine
end

section
/-! SUPPORT. The three accounts of R3 with what an operation under way has in hand: racks it has taken from their section
and not yet put into another, and plates it has taken to PLATED and not yet credited. With nothing in hand they are the
laws of Safety.lean. -/

namespace Sys2Proof.Machine

/-! ### Sums -/

theorem total_eq_sum (l : List Nat) : total l = l.sum := (List.sum_eq_foldl).symm

@[simp] theorem total_nil : total [] = 0 := rfl

theorem total_cons (n : Nat) (l : List Nat) : total (n :: l) = n + total l := by
  rw [total_eq_sum, total_eq_sum, List.sum_cons]

theorem total_append (l m : List Nat) : total (l ++ m) = total l + total m := by
  rw [total_eq_sum, total_eq_sum, total_eq_sum, List.sum_append]

/-- A sum over the entries that satisfy a test, position by position. -/
theorem total_filter {α : Type} (q : α → Prop) [DecidablePred q] (f : α → Nat) (d : α) (l : List α) :
    total ((l.filter fun x => q x).map f) =
      ∑ i ∈ Finset.range l.length, if q (l.getD i d) then f (l.getD i d) else 0 := by
  induction l with
  | nil => rfl
  | cons x xs ih =>
    rw [List.length_cons, Finset.sum_range_succ']
    simp only [List.getD_cons_succ, List.getD_cons_zero, ← ih]
    by_cases h : q x <;> simp [h, total_cons, Nat.add_comm]

/-! ### The plates of racks -/

/-- The plates of a class in a list of racks. -/
def platesOf (cls : Nat) (l : List Rack) : Nat := total ((l.filter fun r => r.cls = cls).map (·.count))

/-- Those of the HELD racks in it. -/
def heldOf (cls : Nat) (l : List Rack) : Nat := total ((l.filter fun r => r.cls = cls ∧ r.reason ≠ none).map (·.count))

/-- The plates of one rack, if they are of the class. -/
def Rack.plates (cls : Nat) (r : Rack) : Nat := if r.cls = cls then r.count else 0

/-- The racks whose plates are WASHING. -/
def Line.atWork (l : Line) : List Rack := l.staged ++ l.inside

@[simp] theorem platesOf_nil (cls : Nat) : platesOf cls [] = 0 := rfl
@[simp] theorem heldOf_nil (cls : Nat) : heldOf cls [] = 0 := rfl

@[simp] theorem platesOf_cons (cls : Nat) (r : Rack) (l : List Rack) : platesOf cls (r :: l) = r.plates cls + platesOf cls l := by
  unfold platesOf Rack.plates
  by_cases h : r.cls = cls <;> simp [h, total_cons]

@[simp] theorem platesOf_append (cls : Nat) (l m : List Rack) : platesOf cls (l ++ m) = platesOf cls l + platesOf cls m := by
  unfold platesOf
  rw [List.filter_append, List.map_append, total_append]

@[simp] theorem heldOf_append (cls : Nat) (l m : List Rack) : heldOf cls (l ++ m) = heldOf cls l + heldOf cls m := by
  unfold heldOf
  rw [List.filter_append, List.map_append, total_append]

theorem heldOf_cons_held (cls : Nat) {r : Rack} (l : List Rack) (h : r.reason ≠ none) :
    heldOf cls (r :: l) = r.plates cls + heldOf cls l := by
  unfold heldOf Rack.plates
  by_cases hc : r.cls = cls <;> simp [h, hc, total_cons]

theorem heldOf_cons_free (cls : Nat) {r : Rack} (l : List Rack) (h : r.reason = none) :
    heldOf cls (r :: l) = heldOf cls l := by
  unfold heldOf
  simp [h]

/-- What the account reads of a rack. -/
def Rack.body (r : Rack) : Nat × Nat × Nat × Option HoldReason := (r.tag, r.cls, r.count, r.reason)

theorem body_of_stand {l m : List Rack} (h : l.map Rack.stand = m.map Rack.stand) : l.map Rack.body = m.map Rack.body := by
  have e : ∀ l : List Rack, l.map Rack.body = (l.map Rack.stand).map fun x => (x.1, x.2.1, x.2.2.1, x.2.2.2.1) :=
    fun l => by rw [List.map_map]; rfl
  rw [e, e, h]

theorem platesOf_body (cls : Nat) {l m : List Rack} (h : (l.map Rack.body).Perm (m.map Rack.body)) :
    platesOf cls l = platesOf cls m := by
  have e : ∀ l : List Rack, platesOf cls l = total (((l.map Rack.body).filter fun x => x.2.1 = cls).map fun x => x.2.2.1) := by
    intro l
    rw [List.filter_map, List.map_map]
    rfl
  rw [e, e]
  exact total_perm ((h.filter _).map _)

theorem heldOf_body (cls : Nat) {l m : List Rack} (h : (l.map Rack.body).Perm (m.map Rack.body)) :
    heldOf cls l = heldOf cls m := by
  have e : ∀ l : List Rack, heldOf cls l =
      total (((l.map Rack.body).filter fun x => x.2.1 = cls ∧ x.2.2.2 ≠ none).map fun x => x.2.2.1) := by
    intro l
    rw [List.filter_map, List.map_map]
    rfl
  rw [e, e]
  exact total_perm ((h.filter _).map _)

theorem tags_body {l m : List Rack} (h : (l.map Rack.body).Perm (m.map Rack.body)) :
    (l.map (·.tag)).Perm (m.map (·.tag)) := by
  have e : ∀ l : List Rack, l.map (·.tag) = (l.map Rack.body).map (·.1) := fun l => by rw [List.map_map]; rfl
  rw [e, e]
  exact h.map _

/-- Racks with the same bodies have the same reasons. -/
theorem free_body {l m : List Rack} (h : (l.map Rack.body).Perm (m.map Rack.body)) (hm : ∀ r ∈ m, r.reason = none) :
    ∀ r ∈ l, r.reason = none := fun r hr => by
  obtain ⟨q, hq, e⟩ := List.mem_map.1 (h.subset (List.mem_map_of_mem hr))
  simp only [Rack.body, Prod.mk.injEq] at e
  rw [← e.2.2.2]
  exact hm q hq

/-- Racks that stand alike are found under the same tests. -/
theorem mem_stand {l m : List Rack} (h : l.map Rack.stand = m.map Rack.stand) {r : Rack} (hr : r ∈ l) :
    ∃ q ∈ m, q.stand = r.stand := by
  have : r.stand ∈ m.map Rack.stand := h ▸ List.mem_map_of_mem hr
  exact List.mem_map.1 this

/-- Where tags are distinct, the racks without a tag are the others. -/
theorem perm_filter_tag {l : List Rack} (hn : (l.map (·.tag)).Nodup) {r : Rack} (hr : r ∈ l) :
    l.Perm (r :: l.filter fun q => q.tag ≠ r.tag) := by
  induction l with
  | nil => cases hr
  | cons x xs ih =>
    rw [List.map_cons, List.nodup_cons] at hn
    obtain ⟨hx, hxs⟩ := hn
    rcases List.mem_cons.1 hr with rfl | h
    · have e : xs.filter (fun q => q.tag ≠ r.tag) = xs :=
        List.filter_eq_self.2 fun q hq => decide_eq_true fun e => hx (List.mem_map.2 ⟨q, hq, e⟩)
      rw [List.filter_cons, if_neg (by simp), e]
    · have hne : x.tag ≠ r.tag := fun e => hx (List.mem_map.2 ⟨r, h, e.symm⟩)
      rw [List.filter_cons, if_pos (decide_eq_true hne)]
      exact ((ih hxs h).cons x).trans (List.Perm.swap _ _ _)

/-- Where tags are distinct, a tag names one rack. -/
theorem eq_of_tag {l : List Rack} (hn : (l.map (·.tag)).Nodup) {r q : Rack} (hr : r ∈ l) (hq : q ∈ l) (h : q.tag = r.tag) :
    q = r := List.inj_on_of_nodup_map hn hq hr h

/-! ### The accounts -/

/-- The tables that R3 reads have their sizes. -/
structure Seated (s : State) : Prop where
  wares : s.wares.length = 8
  courses : s.courses.length = 32
  cabs : s.cabs.length = 24
  lines : s.lines.length = 2

/-- What an operation has in hand: racks of one line, and plates of one class that are in PLATED, but still counted in the
lots of a warmer and credited to no course and not to the house. -/
structure Hand where
  line : Nat
  racks : List Rack
  cls : Nat
  plates : Nat

def Hand.empty : Hand := ⟨0, [], 0, 0⟩

/-- The plates in hand of a class. -/
def Hand.of (b : Hand) (cls : Nat) : Nat := if cls = b.cls then b.plates else 0

/-- A route to cabinet `k` names a rack AT_EXIT with `k` as its destination. -/
def Routed (x : Line) (tag k : Nat) : Prop := ∃ r ∈ x.exits, r.tag = tag ∧ r.reason = none ∧ r.dest = some k

/-- R3 for WASHING and HELD. -/
structure RackBut (b : Hand) (s : State) : Prop where
  washing : ∀ cls, cls < 8 → (s.ware cls).washing =
    platesOf cls (s.line 0).atWork + platesOf cls (s.line 1).atWork + platesOf cls b.racks
  held : ∀ cls, cls < 8 → (s.ware cls).held = heldOf cls (s.line 0).exits + heldOf cls (s.line 1).exits
  tags : ∀ j, (((s.line j).racks ++ if j = b.line then b.racks else []).map (·.tag)).Nodup
  working : ∀ j, ∀ r ∈ (s.line j).atWork, r.reason = none
  inHand : ∀ r ∈ b.racks, r.reason = none
  routes : ∀ k, ∀ y ∈ (s.cab k).routes, Routed (s.line y.line) y.tag k

/-- The lot total of a warmer of the class. -/
def Cab.lotsOf (cls : Nat) (c : Cab) : Nat := if c.kind = .warmer ∧ c.cls = some cls then c.lotTotal else 0

/-- R3 for IN_WARMER. -/
structure LotBut (b : Hand) (s : State) : Prop where
  inWarmer : ∀ cls, cls < 8 → (s.ware cls).inWarmer + b.of cls = ∑ k ∈ Finset.range 24, (s.cab k).lotsOf cls
  classed : ∀ k, ((s.cab k).cls ≠ none → (s.cab k).kind = .warmer) ∧ ((s.cab k).cls = none → (s.cab k).lots = [])

/-- What a course of the class has out. -/
def Course.out (cls : Nat) (c : Course) : Nat := if c.state ≠ .empty ∧ c.cls = cls then c.plated - c.returned else 0

/-- R3 for PLATED. -/
structure PlatedBut (b : Hand) (s : State) : Prop where
  sums : ∀ cls, cls < 8 → (s.ware cls).plated =
    (s.ware cls).house + ∑ c ∈ Finset.range 32, (s.course c).out cls + b.of cls
  returned : ∀ c, (s.course c).returned ≤ (s.course c).plated
  unfired : ∀ c, (s.course c).state = .planned ∨ (s.course c).state = .armed → (s.course c).plated = 0

/-- The laws that are to be kept, each where it held at the start. -/
structure Aim where
  rack : Prop
  lot : Prop
  plated : Prop

/-- The accounts that are to be kept, with what is in hand. -/
structure Account (a : Aim) (b : Hand) (s : State) : Prop where
  seated : Seated s
  rack : a.rack → RackBut b s
  lot : a.lot → LotBut b s
  plated : a.plated → PlatedBut b s

/-! ### With nothing in hand they are the laws -/

/-- A property of every entry of a table, and of the entry read past its end. -/
theorem forall_getD {α : Type} {l : List α} {d : α} {q : α → Prop} (hd : q d) :
    (∀ i, q (l.getD i d)) ↔ ∀ x ∈ l, q x := by
  refine ⟨fun h x hx => ?_, fun h i => ?_⟩
  · obtain ⟨i, hi, rfl⟩ := List.mem_iff_getElem.1 hx
    simpa [List.getD_eq_getElem?_getD, hi] using h i
  · rw [List.getD_eq_getElem?_getD]
    by_cases hi : i < l.length
    · simpa [hi] using h _ (List.getElem_mem hi)
    · simpa [hi] using hd

theorem lines_eq {s : State} (h : s.lines.length = 2) : s.lines = [s.line 0, s.line 1] := by
  obtain ⟨a, b, hl⟩ := List.length_eq_two.1 h
  simp [State.line, hl]

theorem Hand.empty_racks (j : Nat) : (if j = Hand.empty.line then Hand.empty.racks else []) = [] := ite_self _

theorem rackBut_empty {s : State} (hs : Seated s) : RackBut Hand.empty s ↔ RackLaw s := by
  have sum : ∀ f : Line → Nat, total (s.lines.map f) = f (s.line 0) + f (s.line 1) := fun f => by
    rw [lines_eq hs.lines]
    simp [total_cons, State.line]
  constructor
  · intro h
    refine ⟨fun cls hc => ?_, fun cls hc => ?_, ?_, ?_, h.routes⟩
    · rw [sum, h.washing cls hc]
      rfl
    · rw [sum, h.held cls hc]
      rfl
    · refine (forall_getD (d := Line.initial) (q := fun l => ((l.staged ++ l.inside ++ l.exits).map (·.tag)).Nodup)
        List.nodup_nil).1 fun j => ?_
      have := h.tags j
      rw [Hand.empty_racks, List.append_nil] at this
      exact this
    · exact (forall_getD (d := Line.initial) (q := fun l => ∀ r ∈ l.staged ++ l.inside, r.reason = none)
        (fun r hr => by cases hr)).1 h.working
  · intro h
    refine ⟨fun cls hc => ?_, fun cls hc => ?_, fun j => ?_, ?_, fun r hr => (List.not_mem_nil hr).elim, h.routes⟩
    · rw [h.washing cls hc, sum]
      rfl
    · rw [h.held cls hc, sum]
      rfl
    · rw [Hand.empty_racks, List.append_nil]
      exact (forall_getD (d := Line.initial) (q := fun l => ((l.staged ++ l.inside ++ l.exits).map (·.tag)).Nodup)
        List.nodup_nil).2 h.tags j
    · exact (forall_getD (d := Line.initial) (q := fun l => ∀ r ∈ l.staged ++ l.inside, r.reason = none)
        (fun r hr => by cases hr)).2 h.working

theorem Hand.empty_of (cls : Nat) : Hand.empty.of cls = 0 := ite_self _

theorem lotBut_empty {s : State} (hs : Seated s) : LotBut Hand.empty s ↔ LotLaw s := by
  have sum : ∀ cls, total ((s.cabs.filter fun c => c.kind = .warmer ∧ c.cls = some cls).map fun c =>
      total (c.lots.map (·.count))) = ∑ k ∈ Finset.range 24, (s.cab k).lotsOf cls := fun cls => by
    rw [total_filter (fun c : Cab => c.kind = .warmer ∧ c.cls = some cls) (fun c => total (c.lots.map (·.count)))
      Cab.initial, hs.cabs]
    rfl
  have classed := forall_getD (l := s.cabs) (d := Cab.initial)
    (q := fun c => (c.cls ≠ none → c.kind = .warmer) ∧ (c.cls = none → c.lots = []))
    ⟨fun h => absurd rfl h, fun _ => rfl⟩
  refine ⟨fun h => ⟨fun cls hc => ?_, classed.1 h.classed⟩, fun h => ⟨fun cls hc => ?_, classed.2 h.classed⟩⟩
  · rw [sum, ← h.inWarmer cls hc, Hand.empty_of, Nat.add_zero]
  · rw [← sum, ← h.inWarmer cls hc, Hand.empty_of, Nat.add_zero]

theorem platedBut_empty {s : State} (hs : Seated s) : PlatedBut Hand.empty s ↔ PlatedLaw s := by
  have sum : ∀ cls, total ((s.courses.filter fun c => c.state ≠ .empty ∧ c.cls = cls).map fun c =>
      c.plated - c.returned) = ∑ c ∈ Finset.range 32, (s.course c).out cls := fun cls => by
    rw [total_filter (fun c : Course => c.state ≠ .empty ∧ c.cls = cls) (fun c => c.plated - c.returned)
      Course.initial, hs.courses]
    rfl
  have returned := forall_getD (l := s.courses) (d := Course.initial) (q := fun c => c.returned ≤ c.plated) (Nat.le_refl 0)
  have unfired := forall_getD (l := s.courses) (d := Course.initial)
    (q := fun c => c.state = .planned ∨ c.state = .armed → c.plated = 0) (fun _ => rfl)
  refine ⟨fun h => ⟨fun cls hc => ?_, returned.1 h.returned, unfired.1 h.unfired⟩,
    fun h => ⟨fun cls hc => ?_, returned.2 h.returned, unfired.2 h.unfired⟩⟩
  · rw [sum, h.sums cls hc, Hand.empty_of, Nat.add_zero]
  · rw [← sum, h.sums cls hc, Hand.empty_of, Nat.add_zero]

theorem Sized.seated {s : State} (h : Sized s) : Seated s := ⟨h.wares, h.courses, h.cabs, h.lines⟩

/-! ### Where what they read stands -/

theorem Routed.stand {x y : Line} (h : y.exits.map Rack.stand = x.exits.map Rack.stand) {tag k : Nat} (hx : Routed x tag k) :
    Routed y tag k := by
  obtain ⟨r, hr, h1, h2, h3⟩ := hx
  obtain ⟨q, hq, e⟩ := mem_stand h.symm hr
  simp only [Rack.stand, Prod.mk.injEq] at e
  exact ⟨q, hq, e.1.trans h1, e.2.2.2.1.trans h2, e.2.2.2.2.trans h3⟩

/-- A line has its racks as they were, but for their destinations. -/
structure LineBody (old new : Line) : Prop where
  staged : new.staged.map Rack.body = old.staged.map Rack.body
  inside : new.inside.map Rack.body = old.inside.map Rack.body
  exits : new.exits.map Rack.body = old.exits.map Rack.body

theorem LineTally.body {x y : Line} (h : LineTally x y) : LineBody x y :=
  ⟨body_of_stand h.staged, body_of_stand h.inside, body_of_stand h.exits⟩

theorem LineBody.atWork {x y : Line} (h : LineBody x y) : y.atWork.map Rack.body = x.atWork.map Rack.body := by
  simp only [Line.atWork, List.map_append, h.staged, h.inside]

theorem LineBody.racks {x y : Line} (h : LineBody x y) : y.racks.map Rack.body = x.racks.map Rack.body := by
  simp only [Line.racks, List.map_append, h.staged, h.inside, h.exits]

/-- Destinations and routes may change together. -/
theorem RackBut.rerouted {b : Hand} {s t : State} (hs : RackBut b s) (h1 : ∀ c, (t.ware c).washing = (s.ware c).washing)
    (h2 : ∀ c, (t.ware c).held = (s.ware c).held) (hl : ∀ j, LineBody (s.line j) (t.line j))
    (hr : ∀ k, ∀ y ∈ (t.cab k).routes, Routed (t.line y.line) y.tag k) : RackBut b t where
  washing cls hc := by
    rw [h1, hs.washing cls hc, platesOf_body cls (.of_eq (hl 0).atWork), platesOf_body cls (.of_eq (hl 1).atWork)]
  held cls hc := by
    rw [h2, hs.held cls hc, heldOf_body cls (.of_eq (hl 0).exits), heldOf_body cls (.of_eq (hl 1).exits)]
  tags j := by
    have := hs.tags j
    rw [List.map_append] at this ⊢
    exact ((tags_body (.of_eq (hl j).racks)).append_right _).nodup_iff.2 this
  working j := free_body (.of_eq (hl j).atWork) (hs.working j)
  inHand := hs.inHand
  routes := hr

theorem RackBut.congr {b : Hand} {s t : State} (hs : RackBut b s) (h1 : ∀ c, (t.ware c).washing = (s.ware c).washing)
    (h2 : ∀ c, (t.ware c).held = (s.ware c).held) (hl : ∀ j, LineTally (s.line j) (t.line j))
    (hr : ∀ k, ∀ y ∈ (t.cab k).routes, ∃ z ∈ (s.cab k).routes, z.line = y.line ∧ z.tag = y.tag) : RackBut b t :=
  hs.rerouted h1 h2 (fun j => (hl j).body) fun k y hy => by
    obtain ⟨z, hz, e1, e2⟩ := hr k y hy
    have := (hs.routes k z hz).stand (hl z.line).exits
    rwa [e1, e2] at this

theorem LotBut.congr {b : Hand} {s t : State} (hs : LotBut b s) (h1 : ∀ c, (t.ware c).inWarmer = (s.ware c).inWarmer)
    (hc : ∀ k, (t.cab k).kind = (s.cab k).kind ∧ (t.cab k).cls = (s.cab k).cls ∧
      (t.cab k).lots.map (·.count) = (s.cab k).lots.map (·.count)) : LotBut b t where
  inWarmer cls hcl := by
    rw [h1, hs.inWarmer cls hcl]
    refine Finset.sum_congr rfl fun k _ => ?_
    obtain ⟨e1, e2, e3⟩ := hc k
    unfold Cab.lotsOf Cab.lotTotal
    rw [e1, e2, e3]
  classed k := by
    obtain ⟨e1, e2, e3⟩ := hc k
    rw [e1, e2]
    refine ⟨(hs.classed k).1, fun h => ?_⟩
    rw [(hs.classed k).2 h] at e3
    exact List.map_eq_nil_iff.1 e3

theorem CourseTally.out {x y : Course} (h : CourseTally x y) (cls : Nat) : y.out cls = x.out cls := by
  unfold Course.out
  rw [h.cls, h.plated, h.returned]
  simp only [ne_eq, h.empty]

theorem PlatedBut.congr {b : Hand} {s t : State} (hs : PlatedBut b s) (h1 : ∀ c, (t.ware c).plated = (s.ware c).plated)
    (h2 : ∀ c, (t.ware c).house = (s.ware c).house) (hc : ∀ c, CourseTally (s.course c) (t.course c)) :
    PlatedBut b t where
  sums cls hcl := by
    rw [h1, h2, hs.sums cls hcl, Finset.sum_congr rfl fun c _ => ((hc c).out cls).symm]
  returned c := by
    rw [(hc c).returned, (hc c).plated]
    exact hs.returned c
  unfired c h := (hc c).plated.trans (hs.unfired c ((hc c).unfired.1 h))

/-- The accounts are kept by what leaves what they read. -/
theorem Account.ofTally (a : Aim) (b : Hand) : OfTally (Account a b) := fun s t h hs => by
  have hw : ∀ c, t.ware c = s.ware c := fun c => congrArg (List.getD · c Ware.initial) h.wares
  exact
    { seated := ⟨by rw [h.wares]; exact hs.seated.wares, h.courses.trans hs.seated.courses, h.cabs.trans hs.seated.cabs,
        h.lines.trans hs.seated.lines⟩
      rack := fun r => (hs.rack r).congr (fun c => by rw [hw]) (fun c => by rw [hw]) h.line fun k => (h.cab k).routes
      lot := fun l => (hs.lot l).congr (fun c => by rw [hw]) fun k => ⟨(h.cab k).kind, (h.cab k).cls, (h.cab k).lots⟩
      plated := fun q => (hs.plated q).congr (fun c => by rw [hw]) (fun c => by rw [hw]) h.course }

theorem Account.unmoved {a : Aim} {b : Hand} {s t : State} (hs : Account a b s) (h : Unmoved s t) : Account a b t :=
  Account.ofTally a b s t h hs

end Sys2Proof.Machine
end

section
/-! SUPPORT. The operations on racks and routes, each with what it does to the account of WASHING and HELD: a rack is taken
in hand, put into a section, leaves, or becomes routed. -/

namespace Sys2Proof.Machine

variable {a : Aim} {b b' : Hand} {s t : State}

/-! ### Transfers -/

@[simp] theorem transfer_courses (c : Nat) (p q : Place) (n : Nat) (s : State) : (transfer c p q n s).courses = s.courses := rfl
@[simp] theorem transfer_cabs (c : Nat) (p q : Place) (n : Nat) (s : State) : (transfer c p q n s).cabs = s.cabs := rfl
@[simp] theorem transfer_lines (c : Nat) (p q : Place) (n : Nat) (s : State) : (transfer c p q n s).lines = s.lines := rfl
@[simp] theorem transfer_cab (c : Nat) (p q : Place) (n : Nat) (s : State) (k : Nat) :
    (transfer c p q n s).cab k = s.cab k := rfl
@[simp] theorem transfer_line (c : Nat) (p q : Place) (n : Nat) (s : State) (l : Nat) :
    (transfer c p q n s).line l = s.line l := rfl
@[simp] theorem transfer_course (c : Nat) (p q : Place) (n : Nat) (s : State) (i : Nat) :
    (transfer c p q n s).course i = s.course i := rfl

theorem move_holds_other (w : Ware) (p q x : Place) (n : Nat) (h1 : x ≠ p) (h2 : x ≠ q) :
    (w.move p q n).holds x = w.holds x := by
  cases p <;> cases q <;> cases x <;> first | rfl | exact absurd rfl h1 | exact absurd rfl h2

/-- A transfer leaves the other places. -/
theorem transfer_holds_other (cls : Nat) (p q x : Place) (n : Nat) (s : State) (c : Nat) (h1 : x ≠ p) (h2 : x ≠ q) :
    ((transfer cls p q n s).ware c).holds x = (s.ware c).holds x := by
  unfold transfer
  rw [State.ware_setWare_ite]
  split
  · rename_i h
    rw [h.1, move_holds_other _ _ _ _ _ h1 h2]
  · rfl

/-- And house plated. -/
theorem transfer_house (cls : Nat) (p q : Place) (n : Nat) (s : State) (c : Nat) :
    ((transfer cls p q n s).ware c).house = (s.ware c).house := by
  unfold transfer
  rw [State.ware_setWare_ite]
  split
  · rename_i h
    rw [h.1]
    cases p <;> cases q <;> rfl
  · rfl

/-- A transfer of plates that the source holds takes them from it. -/
theorem transfer_source (hs : Seated s) {cls c n : Nat} (hc : c < 8) {p q : Place} (hpq : p ≠ q)
    (hn : cls = c → n ≤ (s.ware c).holds p) :
    ((transfer cls p q n s).ware c).holds p + (if cls = c then n else 0) = (s.ware c).holds p := by
  unfold transfer
  rw [State.ware_setWare_ite, hs.wares]
  by_cases e : cls = c
  · subst e
    have hn := hn rfl
    rw [if_pos ⟨rfl, hc⟩, if_pos rfl]
    cases p <;> cases q <;> first | exact absurd rfl hpq | (simp only [Ware.move, Ware.put, Ware.holds] at hn ⊢; omega)
  · rw [if_neg (fun h => e h.1.symm), if_neg e, Nat.add_zero]

/-- And gives them to the other place. -/
theorem transfer_dest (hs : Seated s) {cls c n : Nat} (hc : c < 8) {p q : Place} (hpq : p ≠ q)
    (hn : cls = c → n ≤ (s.ware c).holds p) :
    ((transfer cls p q n s).ware c).holds q = (s.ware c).holds q + (if cls = c then n else 0) := by
  unfold transfer
  rw [State.ware_setWare_ite, hs.wares]
  by_cases e : cls = c
  · subst e
    have hn := hn rfl
    rw [if_pos ⟨rfl, hc⟩, if_pos rfl]
    cases p <;> cases q <;> first | exact absurd rfl hpq | (simp only [Ware.move, Ware.put, Ware.holds] at hn ⊢; omega)
  · rw [if_neg (fun h => e h.1.symm), if_neg e, Nat.add_zero]

/-! ### What the other two accounts read -/

/-- Nothing but racks and the places they stand in has changed. -/
structure RacksOnly (s t : State) : Prop where
  wares : t.wares.length = s.wares.length
  inWarmer : ∀ c, (t.ware c).inWarmer = (s.ware c).inWarmer
  plated : ∀ c, (t.ware c).plated = (s.ware c).plated
  house : ∀ c, (t.ware c).house = (s.ware c).house
  courses : t.courses = s.courses
  cabs : t.cabs = s.cabs
  lines : t.lines.length = s.lines.length

theorem RacksOnly.trans {u : State} (h : RacksOnly s t) (g : RacksOnly t u) : RacksOnly s u :=
  ⟨g.wares.trans h.wares, fun c => (g.inWarmer c).trans (h.inWarmer c), fun c => (g.plated c).trans (h.plated c),
    fun c => (g.house c).trans (h.house c), g.courses.trans h.courses, g.cabs.trans h.cabs, g.lines.trans h.lines⟩

theorem RacksOnly.setLine (s : State) (l : Nat) (x : Line) : RacksOnly s (s.setLine l x) :=
  ⟨rfl, fun _ => rfl, fun _ => rfl, fun _ => rfl, rfl, rfl, by simp⟩

/-- A place that racks and SOILED and CLEAN plates stand in. -/
def Place.ofRacks : Place → Bool
  | .soiled | .washing | .held | .clean => true
  | .inWarmer | .plated => false

theorem RacksOnly.transfer (s : State) (cls : Nat) {p q : Place} (n : Nat) (hp : p.ofRacks = true) (hq : q.ofRacks = true) :
    RacksOnly s (transfer cls p q n s) := by
  have other : ∀ x : Place, x.ofRacks = false → ∀ c, ((Machine.transfer cls p q n s).ware c).holds x = (s.ware c).holds x :=
    fun x hx c => transfer_holds_other cls p q x n s c (fun e => by rw [e, hp] at hx; cases hx)
      (fun e => by rw [e, hq] at hx; cases hx)
  exact ⟨by simp [Machine.transfer], other .inWarmer rfl, other .plated rfl, transfer_house cls p q n s, rfl, rfl, rfl⟩

theorem Seated.of (hs : Seated s) (h1 : t.wares.length = s.wares.length) (h2 : t.courses.length = s.courses.length)
    (h3 : t.cabs.length = s.cabs.length) (h4 : t.lines.length = s.lines.length) : Seated t :=
  ⟨h1.trans hs.wares, h2.trans hs.courses, h3.trans hs.cabs, h4.trans hs.lines⟩

theorem RacksOnly.seated (h : RacksOnly s t) (hs : Seated s) : Seated t :=
  hs.of h.wares (by rw [h.courses]) (by rw [h.cabs]) h.lines

theorem RacksOnly.cab (h : RacksOnly s t) (k : Nat) : t.cab k = s.cab k := congrArg (List.getD · k Cab.initial) h.cabs

/-- A change of racks alone keeps the accounts if it keeps that of the racks. -/
theorem Account.racksOnly (hs : Account a b s) (h : RacksOnly s t) (hb : b'.of = b.of) (hr : a.rack → RackBut b' t) :
    Account a b' t := by
  refine ⟨h.seated hs.seated, hr, fun l => ?_, fun q => ?_⟩
  · have := (hs.lot l).congr (t := t) h.inWarmer fun k => by rw [h.cab]; exact ⟨rfl, rfl, rfl⟩
    exact ⟨fun c hc => by rw [hb]; exact this.inWarmer c hc, this.classed⟩
  · have e : ∀ c, t.course c = s.course c := fun c => congrArg (List.getD · c Course.initial) h.courses
    have := (hs.plated q).congr (t := t) h.plated h.house fun c => by rw [e]; exact CourseTally.refl _
    exact ⟨fun c hc => by rw [hb]; exact this.sums c hc, this.returned, this.unfired⟩

/-! ### One line changes -/

theorem Seated.line_initial (hs : Seated s) {l : Nat} (h : 2 ≤ l) : s.line l = Line.initial := by
  unfold State.line
  rw [List.getD_eq_getElem?_getD, List.getElem?_eq_none (by rw [hs.lines]; exact h)]
  rfl

/-- A line that has a rack is one of the two. -/
theorem Seated.line_lt (hs : Seated s) {l : Nat} {r : Rack} (h : r ∈ (s.line l).racks) : l < 2 := by
  by_contra hl
  rw [hs.line_initial (by omega)] at h
  cases h

theorem Seated.line_setLine (hs : Seated s) {l : Nat} (hl : l < 2) (x : Line) (j : Nat) :
    (s.setLine l x).line j = if j = l then x else s.line j := by
  rw [State.line_setLine_ite, hs.lines]
  simp [hl]

/-- The racks in hand are of the line that changes. -/
def Hand.at (b : Hand) (l : Nat) : Prop := b.racks = [] ∨ b.line = l

theorem RackBut.tagsAt (hs : RackBut b s) {l : Nat} (hb : b.at l) :
    (((s.line l).racks ++ b.racks).map (·.tag)).Nodup := by
  have := hs.tags l
  rcases hb with e | e
  · rw [e, ite_self] at this
    rwa [e]
  · rwa [if_pos e.symm] at this

/-- One line changes its racks, with the racks in hand and the two places. -/
theorem RackBut.move (hs : RackBut b s) {l : Nat} (hl : l < 2) (hb' : b'.at l) {x : Line}
    (line : ∀ j, t.line j = if j = l then x else s.line j)
    (washing : ∀ c, c < 8 → (t.ware c).washing + platesOf c (s.line l).atWork + platesOf c b.racks =
      (s.ware c).washing + platesOf c x.atWork + platesOf c b'.racks)
    (held : ∀ c, c < 8 → (t.ware c).held + heldOf c (s.line l).exits = (s.ware c).held + heldOf c x.exits)
    (tags : ((x.racks ++ b'.racks).map (·.tag)).Nodup)
    (working : ∀ r ∈ x.atWork ++ b'.racks, r.reason = none)
    (routes : ∀ k, ∀ y ∈ (t.cab k).routes, Routed (t.line y.line) y.tag k) : RackBut b' t where
  washing c hc := by
    have h1 := washing c hc
    have h2 := hs.washing c hc
    rw [line 0, line 1]
    obtain rfl | rfl : l = 0 ∨ l = 1 := by omega
    · rw [if_pos rfl, if_neg (by decide)]
      omega
    · rw [if_neg (by decide), if_pos rfl]
      omega
  held c hc := by
    have h1 := held c hc
    have h2 := hs.held c hc
    rw [line 0, line 1]
    obtain rfl | rfl : l = 0 ∨ l = 1 := by omega
    · rw [if_pos rfl, if_neg (by decide)]
      omega
    · rw [if_neg (by decide), if_pos rfl]
      omega
  tags j := by
    have sub : ∀ {u v w : List Rack}, ((u ++ v).map (·.tag)).Nodup → (w = v ∨ w = []) → ((u ++ w).map (·.tag)).Nodup := by
      rintro u v w h (rfl | rfl)
      · exact h
      · rw [List.append_nil]
        exact h.sublist ((List.sublist_append_left u v).map _)
    rw [line j]
    by_cases e : j = l
    · subst e
      rw [if_pos rfl]
      refine sub tags ?_
      split
      · exact .inl rfl
      · exact .inr rfl
    · rw [if_neg e]
      refine sub (v := []) (sub (hs.tags j) (.inr rfl)) (.inl ?_)
      rcases hb' with h | h
      · rw [h, ite_self]
      · rw [if_neg (fun g => e (g.trans h))]
  working j r hr := by
    rw [line j] at hr
    split at hr
    · exact working r (List.mem_append_left _ hr)
    · exact hs.working j r hr
  inHand r hr := working r (List.mem_append_right _ hr)
  routes := routes

/-- Routes stand where every route that named the old line names the new one. -/
theorem RackBut.routes_of (hs : RackBut b s) {l : Nat} {x : Line} (line : ∀ j, t.line j = if j = l then x else s.line j)
    (cab : ∀ k, ∀ y ∈ (t.cab k).routes, y ∈ (s.cab k).routes)
    (keep : ∀ k, ∀ y ∈ (t.cab k).routes, y.line = l → Routed (s.line l) y.tag k → Routed x y.tag k) :
    ∀ k, ∀ y ∈ (t.cab k).routes, Routed (t.line y.line) y.tag k := fun k y hy => by
  have h := hs.routes k y (cab k y hy)
  rw [line]
  split
  · rename_i e
    exact keep k y hy e (by rwa [e] at h)
  · exact h

theorem Routed.mono {x y : Line} {tag k : Nat} (h : Routed x tag k) (hx : ∀ r ∈ x.exits, r.tag = tag → r.reason = none → r ∈ y.exits) :
    Routed y tag k := by
  obtain ⟨r, hr, h1, h2, h3⟩ := h
  exact ⟨r, hx r hr h1 h2, h1, h2, h3⟩

/-! ### A rack in hand becomes HELD or CLEAN -/

theorem Rack.plates_le_washing (hs : RackBut b s) {r : Rack} (hr : r ∈ b.racks) {c : Nat} (hc : c < 8) (e : r.cls = c) :
    r.count ≤ (s.ware c).washing := by
  have h1 : r.plates c ≤ platesOf c b.racks := by
    obtain ⟨u, v, e⟩ := List.append_of_mem hr
    rw [e, platesOf_append, platesOf_cons]
    omega
  have h2 := hs.washing c hc
  rw [Rack.plates, if_pos e] at h1
  omega

/-- A rack in hand joins the exit section's tail, and its plates leave WASHING: for HELD where it has a reason now, for
CLEAN where it has none. -/
theorem Account.exitRack {l c n : Nat} {r q : Rack} {rest : List Rack} (hs : Account a ⟨l, r :: rest, c, n⟩ s) (hl : l < 2)
    (why : Option HoldReason) (hq : r.reason = none → q = { r with reason := why }) :
    Account a ⟨l, rest, c, n⟩ (transfer r.cls .washing (if why = none then .clean else .held) r.count
      (withExits l ((s.line l).exits ++ [q]) s)) := by
  generalize hx : ({ s.line l with exits := (s.line l).exits ++ [q] } : Line) = x
  have e : withExits l ((s.line l).exits ++ [q]) s = s.setLine l x := by rw [← hx]; rfl
  have hp : ((if why = none then Place.clean else Place.held) : Place).ofRacks = true := by split <;> rfl
  rw [e]
  refine hs.racksOnly ((RacksOnly.setLine s l x).trans (RacksOnly.transfer _ _ _ rfl hp)) rfl fun hR => ?_
  have hr := hs.rack hR
  have seat : Seated (s.setLine l x) := (RacksOnly.setLine s l x).seated hs.seated
  have line := hs.seated.line_setLine hl x
  have free : r.reason = none := hr.inHand r List.mem_cons_self
  obtain rfl := hq free
  have hn : ∀ c, c < 8 → r.cls = c → r.count ≤ ((s.setLine l x).ware c).holds .washing := fun c hc e =>
    Rack.plates_le_washing hr List.mem_cons_self hc e
  have work : x.atWork = (s.line l).atWork := by rw [← hx]; rfl
  have exits : x.exits = (s.line l).exits ++ [{ r with reason := why }] := by rw [← hx]
  refine hr.move hl (.inr rfl) line (fun c hc => ?_) (fun c hc => ?_) ?_ ?_ (hr.routes_of line (fun _ _ h => h) ?_)
  · have h1 : ((transfer r.cls .washing (if why = none then .clean else .held) r.count (s.setLine l x)).ware c).washing +
        r.plates c = (s.ware c).washing := transfer_source seat hc (by split <;> decide) (hn c hc)
    rw [work, platesOf_cons]
    dsimp only
    omega
  · rw [exits, heldOf_append]
    by_cases hw : why = none
    · have h2 : ((transfer r.cls .washing (if why = none then .clean else .held) r.count (s.setLine l x)).ware c).held =
          (s.ware c).held := transfer_holds_other _ _ _ .held _ _ _ (by decide) (by rw [if_pos hw]; decide)
      rw [h2, heldOf_cons_free _ _ (by exact hw), heldOf_nil]
      omega
    · have h2 : ((transfer r.cls .washing (if why = none then .clean else .held) r.count (s.setLine l x)).ware c).held =
          (s.ware c).held + r.plates c := by
        rw [if_neg hw]
        exact transfer_dest (q := .held) seat hc (by decide) (hn c hc)
      rw [h2, heldOf_cons_held _ _ (by exact hw), heldOf_nil]
      show _ = _ + (_ + (r.plates c + 0))
      omega
  · have := hr.tagsAt (l := l) (.inr rfl)
    rw [← hx]
    simpa [Line.racks] using this
  · intro q hq
    rw [work] at hq
    rcases List.mem_append.1 hq with h | h
    · exact hr.working l q h
    · exact hr.inHand q (List.mem_cons_of_mem _ h)
  · intro k y _ _ h
    refine h.mono fun q hq _ _ => ?_
    rw [exits]
    exact List.mem_append_left _ hq

end Sys2Proof.Machine
end

section
/-! SUPPORT. The operations on racks and routes, and the routing passes: each keeps the three accounts. -/

namespace Sys2Proof.Machine

variable {a : Aim} {b b' : Hand} {s t : State}

/-! ### Routes that name a rack -/

/-- No route names the rack. -/
def Unrouted (l tag : Nat) (s : State) : Prop := ∀ k, ∀ y ∈ (s.cab k).routes, ¬ (y.line = l ∧ y.tag = tag)

/-- No other cabinet than `k` has a route that names the rack. -/
def RoutedOnlyTo (k l tag : Nat) (s : State) : Prop := ∀ j, j ≠ k → ∀ y ∈ (s.cab j).routes, ¬ (y.line = l ∧ y.tag = tag)

theorem RackBut.nodup_exits (hs : RackBut b s) (l : Nat) : ((s.line l).exits.map (·.tag)).Nodup :=
  (hs.tags l).sublist (List.Sublist.map _ (((List.sublist_append_right _ _)).trans (List.sublist_append_left _ _)))

/-- A rack of the exit section that a route names is AT_EXIT with the route's cabinet as its destination. -/
theorem RackBut.dest_of_route (hs : RackBut b s) {l k : Nat} {r : Rack} (hr : r ∈ (s.line l).exits) {y : Route}
    (hy : y ∈ (s.cab k).routes) (h : y.line = l ∧ y.tag = r.tag) : r.reason = none ∧ r.dest = some k := by
  obtain ⟨q, hq, h1, h2, h3⟩ := hs.routes k y hy
  rw [h.1] at hq
  obtain rfl := eq_of_tag (hs.nodup_exits l) hr hq (h1.trans h.2)
  exact ⟨h2, h3⟩

theorem RackBut.unrouted_of_held (hs : RackBut b s) {l : Nat} {r : Rack} (hr : r ∈ (s.line l).exits) (h : r.reason ≠ none) :
    Unrouted l r.tag s := fun _ _ hy e => h (hs.dest_of_route hr hy e).1

theorem RackBut.unrouted_of_dest (hs : RackBut b s) {l : Nat} {r : Rack} (hr : r ∈ (s.line l).exits) (h : r.dest = none) :
    Unrouted l r.tag s := fun _ _ hy e => by
  have := (hs.dest_of_route hr hy e).2
  rw [h] at this
  cases this

theorem RackBut.routedOnlyTo (hs : RackBut b s) {l k : Nat} {r : Rack} (hr : r ∈ (s.line l).exits) (h : r.dest = some k) :
    RoutedOnlyTo k l r.tag s := fun j hj y hy e => by
  have := (hs.dest_of_route hr hy e).2
  rw [h] at this
  exact hj (Option.some.inj this).symm

/-- A rack is named by the routes of one cabinet. -/
theorem RackBut.routedOnlyTo_of_route (hs : RackBut b s) {k : Nat} {y : Route} (hy : y ∈ (s.cab k).routes) :
    RoutedOnlyTo k y.line y.tag s := by
  obtain ⟨r, hr, h1, _, h3⟩ := hs.routes k y hy
  rw [← h1]
  exact hs.routedOnlyTo hr h3

theorem dropRoute_cab (k l tag : Nat) (s : State) (j : Nat) : ∀ y ∈ ((dropRoute k l tag s).cab j).routes,
    y ∈ (s.cab j).routes ∧ (j = k → ¬ (y.line = l ∧ y.tag = tag)) := by
  unfold dropRoute
  intro y
  rw [State.cab_setCab_ite]
  split
  · rename_i h
    obtain ⟨rfl, _⟩ := h
    intro hy
    simp only [List.mem_filter, Bool.not_eq_true', Bool.and_eq_false_iff, decide_eq_false_iff_not] at hy
    exact ⟨hy.1, fun _ e => hy.2.elim (fun h => h e.1) fun h => h e.2⟩
  · rename_i h
    intro hy
    refine ⟨hy, fun e => ?_⟩
    subst e
    have : s.cab j = Cab.initial := by
      unfold State.cab
      rw [List.getD_eq_getElem?_getD, List.getElem?_eq_none (by simpa using h)]
      rfl
    rw [this] at hy
    cases hy

theorem RoutedOnlyTo.dropRoute {k l tag : Nat} (h : RoutedOnlyTo k l tag s) : Unrouted l tag (dropRoute k l tag s) :=
  fun j y hy => by
    obtain ⟨h1, h2⟩ := dropRoute_cab k l tag s j y hy
    by_cases e : j = k
    · exact h2 e
    · exact h j e y h1

/-! ### Racks leave the staged section and the machine -/

theorem Line.racks_eq (x : Line) : x.racks = x.atWork ++ x.exits := rfl

/-- Racks are taken in hand, or change sections before the exit. -/
theorem Account.takeWork {l : Nat} {x : Line} {taken : List Rack} (hs : Account a Hand.empty s) (hl : l < 2)
    (he : x.exits = (s.line l).exits)
    (h : a.rack → ((x.atWork ++ taken).map Rack.body).Perm ((s.line l).atWork.map Rack.body)) :
    Account a ⟨l, taken, 0, 0⟩ (s.setLine l x) := by
  refine hs.racksOnly (RacksOnly.setLine s l x) rfl fun hR => ?_
  have hr := hs.rack hR
  have line := hs.seated.line_setLine hl x
  have hp := h hR
  refine hr.move hl (.inr rfl) line (fun c hc => ?_) (fun c hc => ?_) ?_ ?_ (hr.routes_of line (fun _ _ h => h) ?_)
  · have := platesOf_body c hp
    rw [platesOf_append] at this
    show (s.ware c).washing + _ + 0 = _
    dsimp only
    omega
  · rw [he]
    rfl
  · have := hr.tagsAt (l := l) (.inl rfl)
    simp only [Hand.empty, List.append_nil, Line.racks_eq, List.map_append] at this
    have p : ((x.racks ++ taken).map (·.tag)).Perm (((x.atWork ++ taken) ++ x.exits).map (·.tag)) := by
      rw [Line.racks_eq, List.append_assoc, List.append_assoc]
      exact (List.perm_append_comm.append_left _).map _
    refine p.nodup_iff.2 ?_
    rw [List.map_append, he]
    exact ((tags_body hp).append_right _).nodup_iff.2 this
  · exact free_body hp (hr.working l)
  · intro k y _ _ h
    exact h.mono fun q hq _ _ => by rwa [he]

/-- A rack in hand goes to SOILED. -/
theorem Account.soilRack {l c n : Nat} {r : Rack} {rest : List Rack} (hs : Account a ⟨l, r :: rest, c, n⟩ s) (hl : l < 2) :
    Account a ⟨l, rest, c, n⟩ (transfer r.cls .washing .soiled r.count s) := by
  refine hs.racksOnly (RacksOnly.transfer _ _ _ rfl rfl) rfl fun hR => ?_
  have hr := hs.rack hR
  have line : ∀ j, (transfer r.cls .washing .soiled r.count s).line j = if j = l then s.line l else s.line j := fun j => by
    split <;> simp_all
  refine hr.move hl (.inr rfl) line (fun c hc => ?_) (fun c hc => ?_) ?_ ?_ hr.routes
  · have h1 : ((transfer r.cls .washing .soiled r.count s).ware c).washing + r.plates c = (s.ware c).washing :=
      transfer_source (p := .washing) (q := .soiled) hs.seated hc (by decide) fun e => Rack.plates_le_washing hr List.mem_cons_self hc e
    rw [platesOf_cons]
    dsimp only
    omega
  · have h2 : ((transfer r.cls .washing .soiled r.count s).ware c).held = (s.ware c).held :=
      transfer_holds_other _ _ _ .held _ _ _ (by decide) (by decide)
    rw [h2]
  · have := hr.tagsAt (l := l) (.inr rfl)
    exact this.sublist (((List.sublist_cons_self _ _).append_left _).map _)
  · intro q hq
    rcases List.mem_append.1 hq with h | h
    · exact hr.working l q h
    · exact hr.inHand q (List.mem_cons_of_mem _ h)

/-- With no rack and no plate in hand, nothing is. -/
theorem Account.emptyHand {l c : Nat} (hs : Account a ⟨l, [], c, 0⟩ s) : Account a Hand.empty s := by
  have e : ∀ cls, (⟨l, [], c, 0⟩ : Hand).of cls = Hand.empty.of cls := fun cls => (ite_self _).trans (ite_self _).symm
  refine ⟨hs.seated, fun hR => ?_, fun hL => ?_, fun hP => ?_⟩
  · have hr := hs.rack hR
    exact { hr with tags := fun j => by have := hr.tags j; rw [ite_self] at this; rwa [Hand.empty_racks] }
  · have h := hs.lot hL
    exact { h with inWarmer := fun cls hc => e cls ▸ h.inWarmer cls hc }
  · have h := hs.plated hP
    exact { h with sums := fun cls hc => e cls ▸ h.sums cls hc }

/-! ### HELD racks -/

theorem Account.holdRack {l c n : Nat} {r : Rack} {rest : List Rack} (hs : Account a ⟨l, r :: rest, c, n⟩ s) (hl : l < 2)
    (why : HoldReason) : Account a ⟨l, rest, c, n⟩ (holdRack l r why s) := by
  have h := Account.ofTally a ⟨l, rest, c, n⟩
  have h1 := hs.exitRack hl (some why) fun _ => rfl
  rw [if_neg (by simp)] at h1
  have h2 := h.hush.raise .rackHeld l r.tag why.code h1
  unfold Machine.holdRack
  refine h.hush.callClose ?_
  split
  · exact h.hush.pageDish _ _ _ _ h2
  · exact h.hush.pageDish _ _ _ _ h2

theorem Account.holdRacks {l : Nat} (hl : l < 2) (rest : List Rack) : ∀ (taken : List Rack) {s : State},
    Account a ⟨l, taken ++ rest, 0, 0⟩ s →
      Account a ⟨l, rest, 0, 0⟩ (taken.foldl (fun t y => Machine.holdRack l y .skipped t) s)
  | [], _, hs => hs
  | _ :: taken, _, hs => holdRacks hl rest taken (hs.holdRack hl .skipped)

end Sys2Proof.Machine
end

section
/-! SUPPORT. The operations on racks and routes that begin and end with nothing in hand. -/

namespace Sys2Proof.Machine

variable {a : Aim} {b b' : Hand} {s t : State}

/-! ### The staged section and the machine -/

theorem withStaged_eq (l : Nat) (x : List Rack) (s : State) : withStaged l x s = s.setLine l { s.line l with staged := x } := rfl

theorem Account.removeStaged {l : Nat} (hs : Account a Hand.empty s) (hl : l < 2) :
    Account a Hand.empty (removeStaged l s) := by
  have go : ∀ (rs : List Rack) {s : State}, Account a ⟨l, rs, 0, 0⟩ s → Account a ⟨l, [], 0, 0⟩
      (rs.foldl (fun t r => raise .rackLeft l r.tag leftClosed (transfer r.cls .washing .soiled r.count t)) s) := by
    intro rs
    induction rs with
    | nil => exact fun hs => hs
    | cons r rs ih => exact fun hs => ih ((Account.ofTally _ _).hush.raise _ _ _ _ (hs.soilRack hl))
  refine (go _ (hs.takeWork (x := { s.line l with staged := [] }) hl rfl fun _ => ?_)).emptyHand
  exact List.perm_append_comm.map _

/-- What EXIT takes from the machine: the racks ahead of the first with the tag, that one, and the rest stay. -/
theorem perm_exit {l : List Rack} (hn : (l.map (·.tag)).Nodup) {tag : Nat} {r : Rack} (hr : l.find? (·.tag = tag) = some r) :
    ((l.takeWhile (·.tag ≠ tag) ++ [r]) ++
      l.filter fun y => y.tag ≠ tag ∧ y ∉ l.takeWhile (·.tag ≠ tag)).Perm l := by
  induction l with
  | nil => cases hr
  | cons x xs ih =>
    rw [List.map_cons, List.nodup_cons] at hn
    obtain ⟨hx, hxs⟩ := hn
    by_cases e : x.tag = tag
    · have hr' : x = r := by simpa [e] using hr
      subst hr'
      have h : xs.filter (fun y => y.tag ≠ tag) = xs :=
        List.filter_eq_self.2 fun q hq => decide_eq_true fun h => hx (List.mem_map.2 ⟨q, hq, h.trans e.symm⟩)
      simp only [List.takeWhile_cons, List.filter_cons, e, ne_eq, not_true_eq_false, decide_false, Bool.false_eq_true,
        if_false, List.nil_append, List.not_mem_nil, not_false_eq_true, and_true] at h ⊢
      rw [h]
      exact List.Perm.refl _
    · have hr' : xs.find? (·.tag = tag) = some r := by simpa [e] using hr
      have h : xs.filter (fun y => y.tag ≠ tag ∧ y ∉ x :: xs.takeWhile (·.tag ≠ tag)) =
          xs.filter fun y => y.tag ≠ tag ∧ y ∉ xs.takeWhile (·.tag ≠ tag) := by
        refine List.filter_congr fun y hy => ?_
        have : y ≠ x := fun h => hx (List.mem_map.2 ⟨y, hy, by rw [h]⟩)
        simp [this]
      have hp := (ih hxs hr').cons x
      simp only [List.takeWhile_cons, List.filter_cons, e, ne_eq, not_false_eq_true, decide_true, if_true,
        List.mem_cons, true_or, not_true_eq_false, and_false, decide_false, Bool.false_eq_true, if_false,
        List.cons_append] at hp h ⊢
      rw [h]
      exact hp

theorem withInside_eq (l : Nat) (x : List Rack) (s : State) : withInside l x s = s.setLine l { s.line l with inside := x } := rfl

theorem RackBut.nodup_inside (hs : RackBut b s) (l : Nat) : ((s.line l).inside.map (·.tag)).Nodup :=
  (hs.tags l).sublist (List.Sublist.map _
    (((List.sublist_append_right _ _).trans (List.sublist_append_left _ _)).trans (List.sublist_append_left _ _)))

theorem RackBut.nodup_staged (hs : RackBut b s) (l : Nat) : ((s.line l).staged.map (·.tag)).Nodup :=
  (hs.tags l).sublist (List.Sublist.map _
    (((List.sublist_append_left _ _).trans (List.sublist_append_left _ _)).trans (List.sublist_append_left _ _)))

/-- Racks of the machine are taken in hand. -/
theorem Account.takeInside {l : Nat} {taken rest : List Rack} (hs : Account a Hand.empty s) (hl : l < 2)
    (h : a.rack → (taken ++ rest).Perm (s.line l).inside) : Account a ⟨l, taken, 0, 0⟩ (withInside l rest s) := by
  refine hs.takeWork (x := { s.line l with inside := rest }) hl rfl fun hR => List.Perm.map _ ?_
  show (((s.line l).staged ++ rest) ++ taken).Perm ((s.line l).staged ++ (s.line l).inside)
  rw [List.append_assoc]
  exact (List.perm_append_comm.trans (h hR)).append_left _

theorem Seated.lt_of_inside (hs : Seated s) {l : Nat} {r : Rack} (h : r ∈ (s.line l).inside) : l < 2 :=
  hs.line_lt (List.mem_append_left _ (List.mem_append_right _ h))

theorem Seated.lt_of_staged (hs : Seated s) {l : Nat} {r : Rack} (h : r ∈ (s.line l).staged) : l < 2 :=
  hs.line_lt (List.mem_append_left _ (List.mem_append_left _ h))

theorem Seated.lt_of_exits (hs : Seated s) {l : Nat} {r : Rack} (h : r ∈ (s.line l).exits) : l < 2 :=
  hs.line_lt (List.mem_append_right _ h)

theorem Account.transitHold {l : Nat} {r : Rack} (hs : Account a Hand.empty s) (hr : r ∈ (s.line l).inside) :
    Account a Hand.empty (transitHold l r s) := by
  have hl := hs.seated.lt_of_inside hr
  have h1 := hs.takeInside (taken := [r]) hl fun hR => (perm_filter_tag ((hs.rack hR).nodup_inside l) hr).symm
  exact (Account.ofTally a Hand.empty).backpressure l (h1.holdRack hl .transit).emptyHand

theorem Account.enterEvent (l tag : Nat) (hs : Account a Hand.empty s) : Account a Hand.empty (enterEvent l tag s) := by
  unfold Machine.enterEvent
  dsimp only
  split
  · exact (Account.ofTally a Hand.empty).hush.raise _ _ _ _ hs
  · rename_i r hr
    have hm := List.mem_of_find?_eq_some hr
    have ht : r.tag = tag := by simpa using List.find?_some hr
    subst ht
    refine (hs.takeWork (taken := []) (hs.seated.lt_of_staged hm) (by rfl) fun hR => ?_).emptyHand
    have hp := (perm_filter_tag ((hs.rack hR).nodup_staged l) hm).map Rack.body
    show ((((s.line l).staged.filter (fun q : Rack => q.tag ≠ r.tag) ++ ((s.line l).inside ++ [_])) ++ []).map Rack.body).Perm
      (((s.line l).staged ++ (s.line l).inside).map Rack.body)
    simp only [List.append_nil, List.map_append, List.map_cons, List.map_nil] at hp ⊢
    refine List.Perm.trans ?_ (hp.symm.append_right _)
    rw [← List.append_assoc]
    exact List.perm_append_comm

/-! ### Racks leave the exit section -/

theorem withExits_eq (l : Nat) (x : List Rack) (s : State) : withExits l x s = s.setLine l { s.line l with exits := x } := rfl

theorem heldOf_filter_free (cls : Nat) {l : List Rack} {tag : Nat} (h : ∀ q ∈ l, q.tag = tag → q.reason = none) :
    heldOf cls (l.filter (·.tag ≠ tag)) = heldOf cls l := by
  unfold heldOf
  rw [List.filter_filter]
  congr 2
  refine List.filter_congr fun q hq => ?_
  have := h q hq
  simp only [Bool.decide_and, Bool.and_eq_left_iff_imp, Bool.and_eq_true, decide_eq_true_eq]
  exact fun e ht => e.2 (this ht)

/-- The racks with a tag leave the exit section, AT_EXIT and not routed. -/
theorem Account.leave {l tag : Nat} (hs : Account a Hand.empty s)
    (hf : a.rack → ∀ q ∈ (s.line l).exits, q.tag = tag → q.reason = none) (hu : a.rack → Unrouted l tag s) :
    Account a Hand.empty (withExits l ((s.line l).exits.filter (·.tag ≠ tag)) s) := by
  rw [withExits_eq]
  by_cases hl : l < 2
  · refine hs.racksOnly (RacksOnly.setLine s l _) rfl fun hR => ?_
    have hr := hs.rack hR
    have line := hs.seated.line_setLine hl { s.line l with exits := (s.line l).exits.filter (·.tag ≠ tag) }
    refine hr.move hl (.inl rfl) line (fun c hc => rfl) (fun c hc => ?_) ?_ ?_ (hr.routes_of line (fun _ _ h => h) ?_)
    · rw [heldOf_filter_free c (hf hR)]
      rfl
    · have := hr.tagsAt (l := l) (.inl rfl)
      exact this.sublist ((((List.filter_sublist).append_left _).append_right _).map _)
    · intro q hq
      rcases List.mem_append.1 hq with h | h
      · exact hr.working l q h
      · cases h
    · intro k y hy e h
      refine h.mono fun q hq ht _ => List.mem_filter.2 ⟨hq, decide_eq_true fun h => ?_⟩
      exact hu hR k y hy ⟨e, ht.symm.trans h⟩
  · have e := hs.seated.line_initial (l := l) (by omega)
    exact (Account.ofTally a Hand.empty).setLine l _ (by rw [e]; exact ⟨rfl, rfl, rfl⟩) hs

theorem Account.leaveExit {l tag : Nat} (why : Nat) (hs : Account a Hand.empty s)
    (hf : a.rack → ∀ q ∈ (s.line l).exits, q.tag = tag → q.reason = none) (hu : a.rack → Unrouted l tag s) :
    Account a Hand.empty (leaveExit l tag why s) :=
  (Account.ofTally a Hand.empty).backpressure _ ((Account.ofTally a Hand.empty).hush.raise _ _ _ _ (hs.leave hf hu))

theorem RackBut.plates_le_held (hs : RackBut b s) {l : Nat} (hl : l < 2) {r : Rack} (hr : r ∈ (s.line l).exits)
    (hh : r.reason ≠ none) {c : Nat} (hc : c < 8) : r.plates c ≤ (s.ware c).held := by
  have h1 : r.plates c ≤ heldOf c (s.line l).exits := by
    obtain ⟨u, v, e⟩ := List.append_of_mem hr
    rw [e, heldOf_append, heldOf_cons_held c v hh]
    omega
  have h2 := hs.held c hc
  obtain rfl | rfl : l = 0 ∨ l = 1 := by omega
  · omega
  · omega

theorem RackBut.heldOf_leave (hs : RackBut b s) {l : Nat} {r : Rack} (hr : r ∈ (s.line l).exits) (hh : r.reason ≠ none)
    (c : Nat) : heldOf c (s.line l).exits = r.plates c + heldOf c ((s.line l).exits.filter (·.tag ≠ r.tag)) := by
  rw [← heldOf_cons_held c _ hh]
  exact heldOf_body c ((perm_filter_tag (hs.nodup_exits l) hr).map _)

/-- What leaves HELD for `dst` with the rack `r`. -/
theorem RackBut.transfer_held (hs : RackBut b s) (seat : Seated s) {l : Nat} {r : Rack} (hr : r ∈ (s.line l).exits)
    (hh : r.reason ≠ none) {dst : Place} (hd : dst ≠ .held) {c : Nat} (hc : c < 8) :
    ((transfer r.cls .held dst r.count s).ware c).held + r.plates c = (s.ware c).held ∧
      ((transfer r.cls .held dst r.count s).ware c).holds dst = (s.ware c).holds dst + r.plates c := by
  have hn : r.cls = c → r.count ≤ (s.ware c).holds .held := fun e => by
    have := hs.plates_le_held (seat.lt_of_exits hr) hr hh hc
    rwa [Rack.plates, if_pos e] at this
  exact ⟨transfer_source (p := .held) seat hc hd.symm hn, transfer_dest (p := .held) seat hc hd.symm hn⟩

/-- A HELD rack goes to SOILED and leaves. -/
theorem Account.soilHeld {l : Nat} {r : Rack} (why : Nat) (hs : Account a Hand.empty s) (hl : l < 2)
    (hm : a.rack → r ∈ (s.line l).exits ∧ r.reason ≠ none) :
    Account a Hand.empty (Machine.leaveExit l r.tag why (transfer r.cls .held .soiled r.count s)) := by
  have h := Account.ofTally a Hand.empty
  refine h.backpressure _ (h.hush.raise _ _ _ _ ?_)
  rw [withExits_eq]
  generalize hx : ({ (transfer r.cls .held .soiled r.count s).line l with
    exits := ((transfer r.cls .held .soiled r.count s).line l).exits.filter (·.tag ≠ r.tag) } : Line) = x
  have ro : RacksOnly s (transfer r.cls .held .soiled r.count s) := RacksOnly.transfer _ _ _ rfl rfl
  refine hs.racksOnly (ro.trans (RacksOnly.setLine _ l x)) rfl fun hR => ?_
  have hr := hs.rack hR
  obtain ⟨hm, hh⟩ := hm hR
  have line := (ro.seated hs.seated).line_setLine hl x
  have exits : x.exits = (s.line l).exits.filter (·.tag ≠ r.tag) := by rw [← hx]; rfl
  have work : x.atWork = (s.line l).atWork := by rw [← hx]; rfl
  refine hr.move hl (.inl rfl) line (fun c hc => ?_) (fun c hc => ?_) ?_ ?_ (hr.routes_of line (fun _ _ h => h) ?_)
  · have := transfer_holds_other r.cls .held .soiled .washing r.count s c (by decide) (by decide)
    rw [work]
    exact congrArg (· + _ + _) this
  · have h1 := (hr.transfer_held hs.seated hm hh (dst := .soiled) (by decide) hc).1
    have h2 := hr.heldOf_leave hm hh c
    rw [exits]
    show ((transfer r.cls .held .soiled r.count s).ware c).held + _ = _
    omega
  · have := hr.tagsAt (l := l) (.inl rfl)
    rw [Line.racks_eq, exits, work]
    exact this.sublist ((((List.filter_sublist).append_left _).append_right _).map _)
  · rw [work]
    intro q hq
    rcases List.mem_append.1 hq with h | h
    · exact hr.working l q h
    · cases h
  · intro k y hy e h
    refine h.mono fun q hq ht _ => ?_
    rw [exits]
    exact List.mem_filter.2 ⟨hq, decide_eq_true fun h => hr.unrouted_of_held hm hh k y hy ⟨e, ht.symm.trans h⟩⟩

/-- A HELD rack goes back to the staged section. -/
theorem Account.restage {l : Nat} {r : Rack} (hs : Account a Hand.empty s) (hm : r ∈ (s.line l).exits)
    (hh : a.rack → r.reason ≠ none) : Account a Hand.empty (restage l r s) := by
  have hl := hs.seated.lt_of_exits hm
  generalize hq : ({ r with
    reason := none, entry := none, transit := 0, dest := none, routeTime := none, loaded := 0,
    noticed := false } : Rack) = q
  generalize hx : ({ s.line l with
    exits := (s.line l).exits.filter (·.tag ≠ r.tag), staged := (s.line l).staged ++ [q] } : Line) = x
  have ro : RacksOnly s (transfer r.cls .held .washing r.count s) := RacksOnly.transfer _ _ _ rfl rfl
  have seat := ro.seated hs.seated
  have e : Machine.restage l r s = (transfer r.cls .held .washing r.count s).setLine l x := by
    unfold Machine.restage
    dsimp only
    rw [hq, withExits_eq, withStaged_eq, State.line_setLine_ite, if_pos ⟨rfl, by rw [seat.lines]; exact hl⟩, State.setLine_setLine, ← hx]
    rfl
  rw [e]
  refine hs.racksOnly (ro.trans (RacksOnly.setLine _ l x)) rfl fun hR => ?_
  have hr := hs.rack hR
  have line := seat.line_setLine hl x
  have exits : x.exits = (s.line l).exits.filter (·.tag ≠ r.tag) := by rw [← hx]
  have work : x.atWork = (s.line l).staged ++ [q] ++ (s.line l).inside := by rw [← hx]; rfl
  have plates : ∀ c, q.plates c = r.plates c := fun c => by rw [← hq]; rfl
  refine hr.move hl (.inl rfl) line (fun c hc => ?_) (fun c hc => ?_) ?_ ?_ (hr.routes_of line (fun _ _ h => h) ?_)
  · have h1 : ((transfer r.cls .held .washing r.count s).ware c).washing = (s.ware c).washing + r.plates c :=
      (hr.transfer_held hs.seated hm (hh hR) (dst := .washing) (by decide) hc).2
    rw [work, Line.atWork, platesOf_append, platesOf_append, platesOf_append, platesOf_cons, platesOf_nil, plates]
    show ((transfer r.cls .held .washing r.count s).ware c).washing + _ + _ = _
    omega
  · have h1 := (hr.transfer_held hs.seated hm (hh hR) (dst := .washing) (by decide) hc).1
    have h2 := hr.heldOf_leave hm (hh hR) c
    rw [exits]
    show ((transfer r.cls .held .washing r.count s).ware c).held + _ = _
    omega
  · have h1 := hr.tagsAt (l := l) (.inl rfl)
    have hp : (x.racks.map (·.tag)).Perm ((s.line l).racks.map (·.tag)) := by
      rw [Line.racks_eq, Line.racks_eq, work, exits, Line.atWork]
      have h2 : ((s.line l).exits.map (·.tag)).Perm (q.tag :: ((s.line l).exits.filter (·.tag ≠ r.tag)).map (·.tag)) := by
        have : q.tag = r.tag := by rw [← hq]
        rw [this]
        exact (perm_filter_tag (hr.nodup_exits l) hm).map _
      simp only [List.map_append, List.map_cons, List.append_assoc, List.singleton_append]
      refine List.Perm.append_left _ ?_
      refine List.Perm.trans ?_ (h2.symm.append_left _)
      exact (List.perm_middle (a := q.tag)).symm
    simp only [Hand.empty, List.append_nil] at h1 ⊢
    exact hp.nodup_iff.2 h1
  · rw [work]
    intro y hy
    have free : q.reason = none := by rw [← hq]
    simp only [Hand.empty, List.append_nil, List.mem_append, List.mem_singleton] at hy
    rcases hy with (h | rfl) | h
    · exact hr.working l y (List.mem_append_left _ h)
    · exact free
    · exact hr.working l y (List.mem_append_right _ h)
  · intro k y hy e h
    refine h.mono fun q hq ht _ => ?_
    rw [exits]
    exact List.mem_filter.2 ⟨hq, decide_eq_true fun h => hr.unrouted_of_held hm (hh hR) k y hy ⟨e, ht.symm.trans h⟩⟩

/-- A new rack is announced. -/
theorem Account.announce {l : Nat} {r : Rack} (hs : Account a Hand.empty s) (hl : l < 2)
    (hn : r.count ≤ (s.ware r.cls).soiled) (ht : (s.line l).hasTag r.tag = false) (hf : r.reason = none) :
    Account a Hand.empty (withStaged l ((s.line l).staged ++ [r]) (transfer r.cls .soiled .washing r.count s)) := by
  rw [withStaged_eq]
  generalize hx : ({ (transfer r.cls .soiled .washing r.count s).line l with
    staged := (s.line l).staged ++ [r] } : Line) = x
  have ro : RacksOnly s (transfer r.cls .soiled .washing r.count s) := RacksOnly.transfer _ _ _ rfl rfl
  refine hs.racksOnly (ro.trans (RacksOnly.setLine _ l x)) rfl fun hR => ?_
  have hr := hs.rack hR
  have line := (ro.seated hs.seated).line_setLine hl x
  have exits : x.exits = (s.line l).exits := by rw [← hx]; rfl
  have work : x.atWork = (s.line l).staged ++ [r] ++ (s.line l).inside := by rw [← hx]; rfl
  refine hr.move hl (.inl rfl) line (fun c hc => ?_) (fun c hc => ?_) ?_ ?_ (hr.routes_of line (fun _ _ h => h) ?_)
  · have h1 : ((transfer r.cls .soiled .washing r.count s).ware c).washing = (s.ware c).washing + r.plates c :=
      transfer_dest (p := .soiled) (q := .washing) hs.seated hc (by decide) fun e => by subst e; exact hn
    rw [work, Line.atWork, platesOf_append, platesOf_append, platesOf_append, platesOf_cons, platesOf_nil]
    show ((transfer r.cls .soiled .washing r.count s).ware c).washing + _ + _ = _
    omega
  · have := transfer_holds_other r.cls .soiled .washing .held r.count s c (by decide) (by decide)
    rw [exits]
    exact congrArg (· + _) this
  · have h1 := hr.tagsAt (l := l) (.inl rfl)
    have hp : (x.racks.map (·.tag)).Perm (r.tag :: (s.line l).racks.map (·.tag)) := by
      rw [Line.racks_eq, Line.racks_eq, work, exits, Line.atWork]
      simp only [List.map_append, List.map_cons, List.map_nil, List.append_assoc]
      exact List.perm_middle
    simp only [Hand.empty, List.append_nil] at h1 ⊢
    refine hp.nodup_iff.2 (List.nodup_cons.2 ⟨fun h => ?_, h1⟩)
    obtain ⟨q, hq, e⟩ := List.mem_map.1 h
    have : (s.line l).hasTag r.tag = true := List.any_eq_true.2 ⟨q, hq, decide_eq_true e⟩
    rw [ht] at this
    cases this
  · rw [work]
    intro y hy
    simp only [Hand.empty, List.append_nil, List.mem_append, List.mem_singleton] at hy
    rcases hy with (h | rfl) | h
    · exact hr.working l y (List.mem_append_left _ h)
    · exact hf
    · exact hr.working l y (List.mem_append_right _ h)
  · intro k y _ _ h
    exact h.mono fun q hq _ _ => by rwa [exits]

/-! ### Routes end -/

theorem Account.dropRoute (k l tag : Nat) (hs : Account a Hand.empty s) : Account a Hand.empty (dropRoute k l tag s) :=
  (Account.ofTally a Hand.empty).dropRoute k l tag hs

theorem updExit_body {l tag : Nat} {f : Rack → Rack} (hf : ∀ r, (f r).body = r.body) (s : State) (j : Nat) :
    LineBody (s.line j) ((updExit l tag f s).line j) := by
  unfold updExit
  rw [withExits_eq, State.line_setLine_ite]
  split
  · rename_i h
    rw [h.1]
    exact ⟨rfl, rfl, map_map_congr (fun r => by split <;> simp [hf]) _⟩
  · exact ⟨rfl, rfl, rfl⟩

/-- Of a rack under another tag nothing changes. -/
theorem Routed.updExit {l l' tag tag' k : Nat} {f : Rack → Rack} (ht : ¬ (l' = l ∧ tag' = tag))
    (h : Routed (s.line l') tag' k) : Routed ((updExit l tag f s).line l') tag' k := by
  unfold Machine.updExit
  rw [withExits_eq, State.line_setLine_ite]
  split
  · rename_i e
    obtain ⟨rfl, _⟩ := e
    refine h.mono fun q hq e _ => List.mem_map.2 ⟨q, hq, if_neg fun e' => ht ⟨rfl, ?_⟩⟩
    exact e.symm.trans e'
  · exact h

theorem RacksOnly.updExit (l tag : Nat) (f : Rack → Rack) (s : State) : RacksOnly s (updExit l tag f s) :=
  RacksOnly.setLine s l _

theorem Account.unrouteRack {l tag : Nat} (hs : Account a Hand.empty s) (hu : a.rack → Unrouted l tag s) :
    Account a Hand.empty (unrouteRack l tag s) := by
  refine (Account.ofTally a Hand.empty).hush.callRoute l (hs.racksOnly (RacksOnly.updExit l tag _ s) rfl fun hR => ?_)
  have hr := hs.rack hR
  refine hr.rerouted (fun _ => rfl) (fun _ => rfl) (updExit_body (fun r => by rfl) s) fun k y hy => ?_
  exact (hr.routes k y hy).updExit (hu hR k y hy)

theorem unrouteRack_cab (l tag : Nat) (s : State) (j : Nat) : (unrouteRack l tag s).cab j = s.cab j := by
  unfold unrouteRack callRoute
  split <;> rfl

/-- The cabinet controller cancels a route of its own. -/
theorem Account.cancelRoute {k : Nat} {r : Route} (hs : Account a Hand.empty s)
    (ho : a.rack → RoutedOnlyTo k r.line r.tag s) : Account a Hand.empty (cancelRoute k r s) :=
  (hs.dropRoute _ _ _).unrouteRack fun hR => (ho hR).dropRoute

theorem cancelRoute_cab (k : Nat) (r : Route) (s : State) (j : Nat) : ∀ y ∈ ((cancelRoute k r s).cab j).routes,
    y ∈ (s.cab j).routes := by
  unfold cancelRoute
  intro y hy
  rw [unrouteRack_cab] at hy
  exact (dropRoute_cab _ _ _ _ _ y hy).1

theorem Account.cancelSome {k : Nat} : ∀ (rs : List Route) {s : State}, Account a Hand.empty s →
    (a.rack → ∀ r ∈ rs, RoutedOnlyTo k r.line r.tag s) →
    Account a Hand.empty (rs.foldl (fun t r => Machine.cancelRoute k r t) s)
  | [], _, hs, _ => hs
  | r :: rs, _, hs, ho => cancelSome rs (hs.cancelRoute fun hR => ho hR r List.mem_cons_self) fun hR q hq j hj y hy =>
      ho hR q (List.mem_cons_of_mem _ hq) j hj y (cancelRoute_cab k r _ j y hy)

theorem Account.unrouteAll : ∀ (rs : List Route) {s : State}, Account a Hand.empty s →
    (a.rack → ∀ r ∈ rs, Unrouted r.line r.tag s) →
    Account a Hand.empty (rs.foldl (fun t r => Machine.unrouteRack r.line r.tag t) s)
  | [], _, hs, _ => hs
  | r :: rs, _, hs, ho => unrouteAll rs (hs.unrouteRack fun hR => ho hR r List.mem_cons_self) fun hR q hq j y hy =>
      ho hR q (List.mem_cons_of_mem _ hq) j y (by rwa [unrouteRack_cab] at hy)

theorem Account.cancelRoutes (k : Nat) (hs : Account a Hand.empty s) : Account a Hand.empty (cancelRoutes k s) := by
  refine Account.unrouteAll _ ((Account.ofTally a Hand.empty).setCab k _ (CabTally.of rfl rfl rfl fun y hy => ?_) hs)
    fun hR r hr j y hy => ?_
  · cases hy
  · rw [State.cab_setCab_ite] at hy
    split at hy
    · cases hy
    · rename_i hj
      have ho := (hs.rack hR).routedOnlyTo_of_route hr
      by_cases e : j = k
      · subst e
        have : s.cab j = Cab.initial := by
          unfold State.cab
          rw [List.getD_eq_getElem?_getD, List.getElem?_eq_none (by simpa using hj)]
          rfl
        rw [this] at hy
        cases hy
      · exact ho j e y hy

end Sys2Proof.Machine
end

section
/-! SUPPORT. Routing passes, rack events and close completion of a line keep the three accounts. -/

namespace Sys2Proof.Machine

variable {a : Aim} {b b' : Hand} {s t : State}

/-! ### A rack is routed -/

/-- A rack AT_EXIT with the tag waits for a route. -/
def Waiting (l tag : Nat) (s : State) : Prop :=
  ∃ q ∈ (s.line l).exits, q.tag = tag ∧ q.reason = none ∧ q.dest = none

theorem Waiting.ofTally (l tag : Nat) : OfTally (Waiting l tag) := fun s t h hs => by
  obtain ⟨r, hr, h1, h2, h3⟩ := hs
  obtain ⟨q, hq, e⟩ := mem_stand (h.line l).exits.symm hr
  simp only [Rack.stand, Prod.mk.injEq] at e
  exact ⟨q, hq, e.1.trans h1, e.2.2.2.1.trans h2, e.2.2.2.2.trans h3⟩

theorem Waiting.updExit {l tag tag' : Nat} {f : Rack → Rack} (ht : tag' ≠ tag) (h : Waiting l tag' s) :
    Waiting l tag' (updExit l tag f s) := by
  unfold Machine.updExit
  rw [withExits_eq]
  obtain ⟨q, hq, h1, h2, h3⟩ := h
  refine ⟨q, ?_, h1, h2, h3⟩
  rw [State.line_setLine_ite]
  split
  · exact List.mem_map.2 ⟨q, hq, if_neg fun e => ht (h1.symm.trans e)⟩
  · exact hq

/-- The record of a cabinet that takes a route. -/
def Cab.routed (c : Cab) (line tag n : Nat) : Cab := { c with routes := c.routes ++ [⟨line, tag, n, 0⟩], sleepT := none }

theorem acceptRoute_unmoved (k l tag n : Nat) (s : State) :
    Unmoved (s.setCab k ((s.cab k).routed l tag n)) (acceptRoute k l tag n s) := by
  unfold acceptRoute
  dsimp only
  split
  · exact (Unmoved.ofTally _).requestHeat k (Unmoved.refl _)
  · exact Unmoved.refl _

theorem LineBody.trans {x y z : Line} (h : LineBody x y) (g : LineBody y z) : LineBody x z :=
  ⟨g.staged.trans h.staged, g.inside.trans h.inside, g.exits.trans h.exits⟩

/-- A waiting rack of the line, marked as routed to `k`, answers a route that names it. -/
theorem Waiting.routed {l tag k : Nat} (hs : Seated s) (h : Waiting l tag s) {f : Rack → Rack}
    (hf : ∀ r, (f r).body = r.body ∧ (f r).dest = some k) : Routed ((Machine.updExit l tag f s).line l) tag k := by
  obtain ⟨q, hq, h1, h2, _⟩ := h
  have hl := hs.lt_of_exits hq
  obtain ⟨h3, h4⟩ := hf q
  simp only [Rack.body, Prod.mk.injEq] at h3
  refine ⟨f q, ?_, h3.1.trans h1, h3.2.2.2.trans h2, h4⟩
  unfold Machine.updExit
  rw [withExits_eq, State.line_setLine_ite, if_pos ⟨rfl, by rw [hs.lines]; exact hl⟩]
  exact List.mem_map.2 ⟨q, hq, if_pos h1⟩

theorem cab_setCab_routed (k l tag n : Nat) (s : State) (j : Nat) :
    ((s.setCab k ((s.cab k).routed l tag n)).cab j).kind = (s.cab j).kind ∧
      ((s.setCab k ((s.cab k).routed l tag n)).cab j).cls = (s.cab j).cls ∧
      ((s.setCab k ((s.cab k).routed l tag n)).cab j).lots = (s.cab j).lots ∧
      ∀ y ∈ ((s.setCab k ((s.cab k).routed l tag n)).cab j).routes,
        y ∈ (s.cab j).routes ∨ j = k ∧ y.line = l ∧ y.tag = tag := by
  rw [State.cab_setCab_ite]
  split
  · rename_i h
    obtain ⟨rfl, _⟩ := h
    refine ⟨rfl, rfl, rfl, fun y hy => ?_⟩
    rcases List.mem_append.1 hy with h | h
    · exact .inl h
    · rw [List.mem_singleton] at h
      exact .inr ⟨rfl, by rw [h], by rw [h]⟩
  · exact ⟨rfl, rfl, rfl, fun y hy => .inl hy⟩

/-- A waiting rack is routed: its cabinet's entry joins the list, and its destination is set. -/
theorem Account.routeTo {k l tag n : Nat} {f : Rack → Rack} (hs : Account a Hand.empty s) (hw : a.rack → Waiting l tag s)
    (hf : ∀ r, (f r).body = r.body ∧ (f r).dest = some k) :
    Account a Hand.empty (updExit l tag f (acceptRoute k l tag n s)) := by
  have hu := acceptRoute_unmoved k l tag n s
  generalize hs' : s.setCab k ((s.cab k).routed l tag n) = s' at hu
  generalize acceptRoute k l tag n s = u at hu
  have cab : ∀ j, (s'.cab j).kind = (s.cab j).kind ∧ (s'.cab j).cls = (s.cab j).cls ∧ (s'.cab j).lots = (s.cab j).lots ∧
      ∀ y ∈ (s'.cab j).routes, y ∈ (s.cab j).routes ∨ j = k ∧ y.line = l ∧ y.tag = tag := by
    rw [← hs']
    exact cab_setCab_routed k l tag n s
  have lines : ∀ j, s'.line j = s.line j := by rw [← hs']; exact fun _ => rfl
  have courses : ∀ j, s'.course j = s.course j := by rw [← hs']; exact fun _ => rfl
  have wares : s'.wares = s.wares := by rw [← hs']; rfl
  have seat' : Seated s' := hs.seated.of (by rw [wares]) (by rw [← hs']; rfl) (by rw [← hs']; simp) (by rw [← hs']; rfl)
  have seat : Seated u := seat'.of (by rw [hu.wares]) hu.courses hu.cabs hu.lines
  have ware : ∀ c, (updExit l tag f u).ware c = s.ware c := fun c =>
    congrArg (List.getD · c Ware.initial) (hu.wares.trans wares)
  refine ⟨(RacksOnly.updExit l tag f u).seated seat, fun hR => ?_, fun hL => ?_, fun hP => ?_⟩
  · have hr := hs.rack hR
    obtain ⟨q, hq, h1, _, h3⟩ := hw hR
    have un : Unrouted l tag s := h1 ▸ hr.unrouted_of_dest hq h3
    refine hr.rerouted (fun c => by rw [ware]) (fun c => by rw [ware]) (fun j => ?_) fun j y hy => ?_
    · have h := (hu.line j).body
      rw [lines] at h
      exact h.trans (updExit_body (fun r => (hf r).1) u j)
    · obtain ⟨z, hz, e1, e2⟩ := (hu.cab j).routes y hy
      rcases (cab j).2.2.2 z hz with h | ⟨rfl, h1, h2⟩
      · have h4 := (hr.routes j z h).stand (y := u.line z.line) (lines z.line ▸ (hu.line z.line).exits)
        rw [e1, e2] at h4
        exact h4.updExit fun e => un j z h ⟨e1.trans e.1, e2.trans e.2⟩
      · rw [← e1, ← e2, h1, h2]
        refine Waiting.routed seat ?_ hf
        refine Waiting.ofTally l tag s' u hu ?_
        unfold Waiting
        rw [lines]
        exact hw hR
  · refine (hs.lot hL).congr (fun c => by rw [ware]) fun j => ?_
    have h := hu.cab j
    obtain ⟨e1, e2, e3, _⟩ := cab j
    exact ⟨h.kind.trans e1, h.cls.trans e2, h.lots.trans (by rw [e3])⟩
  · refine (hs.plated hP).congr (fun c => by rw [ware]) (fun c => by rw [ware]) fun c => ?_
    have h := hu.course c
    rwa [courses] at h

theorem Account.routeRack {l : Nat} {r : Rack} (hs : Account a Hand.empty s) (hw : a.rack → Waiting l r.tag s) :
    Account a Hand.empty (routeRack l r s) := by
  have h := Account.ofTally a Hand.empty
  unfold Machine.routeRack
  dsimp only
  split
  · split
    · exact hs
    · exact h.hush.raise _ _ _ _ (h.updExit _ _ _ (fun _ => rfl) hs)
  · refine h.hush.raise _ _ _ _ (Account.routeTo ?_ ?_ fun r => ⟨by rfl, by rfl⟩)
    · split
      · exact h.frame hs rfl rfl rfl rfl
      · exact hs
    · split
      · exact fun hR => (Waiting.ofTally l r.tag).frame (hw hR) rfl rfl rfl rfl
      · exact hw

/-- The other racks still wait. -/
theorem Waiting.routeRack {l tag : Nat} {r : Rack} (ht : tag ≠ r.tag) (h : Waiting l tag s) :
    Waiting l tag (routeRack l r s) := by
  have w := Waiting.ofTally l tag
  unfold Machine.routeRack
  dsimp only
  split
  · split
    · exact h
    · exact w.hush.raise _ _ _ _ (h.updExit ht)
  · refine w.hush.raise _ _ _ _ (Waiting.updExit ht (w _ _ (acceptRoute_unmoved _ _ _ _ _) ?_))
    split
    · exact h
    · exact h

theorem Account.routeRacks {l : Nat} : ∀ (rs : List Rack) {s : State}, Account a Hand.empty s →
    (a.rack → (rs.map (·.tag)).Nodup ∧ ∀ r ∈ rs, Waiting l r.tag s) →
    Account a Hand.empty (rs.foldl (fun t r => Machine.routeRack l r t) s)
  | [], _, hs, _ => hs
  | r :: rs, _, hs, hw => routeRacks rs (hs.routeRack fun hR => (hw hR).2 r List.mem_cons_self) fun hR => by
      obtain ⟨h1, h2⟩ := hw hR
      rw [List.map_cons, List.nodup_cons] at h1
      refine ⟨h1.2, fun q hq => (h2 q (List.mem_cons_of_mem _ hq)).routeRack fun e => ?_⟩
      exact h1.1 (List.mem_map.2 ⟨q, hq, e⟩)

theorem Account.routingPass (l : Nat) (hs : Account a Hand.empty s) : Account a Hand.empty (routingPass l s) := by
  refine Account.routeRacks _ hs fun hR => ?_
  have sub : (if (s.line l).strict then (s.line l).exits.takeWhile (·.reason.isNone) else (s.line l).exits).Sublist
      (s.line l).exits := by
    split
    · exact List.takeWhile_sublist _
    · exact List.Sublist.refl _
  refine ⟨((hs.rack hR).nodup_exits l).sublist ((List.filter_sublist.trans sub).map _), fun r hr => ?_⟩
  obtain ⟨h1, h2⟩ := List.mem_filter.1 hr
  simp only [Bool.and_eq_true, Option.isNone_iff_eq_none] at h2
  exact ⟨r, sub.subset h1, rfl, h2.1, h2.2⟩

/-! ### EXIT -/

theorem Account.exitEvent (l tag : Nat) (rinse : Int) (hs : Account a Hand.empty s) :
    Account a Hand.empty (exitEvent l tag rinse s) := by
  have h := Account.ofTally a Hand.empty
  unfold Machine.exitEvent
  dsimp only
  split
  · exact h.hush.raise _ _ _ _ hs
  · rename_i r hr
    have hl := hs.seated.lt_of_inside (List.mem_of_find?_eq_some hr)
    have h1 := hs.takeInside hl fun hR => perm_exit ((hs.rack hR).nodup_inside l) hr
    have h2 := Account.holdRacks hl [r] _ h1
    split
    · exact h.backpressure _ (h2.holdRack hl .rinse).emptyHand
    · exact Account.routingPass l (h.backpressure _ (h.hush.callClose
        (h2.exitRack (q := r) hl none fun e => by rw [← e]).emptyHand))

theorem Account.applyEvent (l : Nat) (e : RackEvent) (hs : Account a Hand.empty s) :
    Account a Hand.empty (applyEvent l e s) := by
  have h1 : Account a Hand.empty (s.setLine l { s.line l with lastEvent := some (RackEvent.seq e) }) :=
    (Account.ofTally a Hand.empty).setLine l _ ⟨rfl, rfl, rfl⟩ hs
  unfold Machine.applyEvent
  dsimp only
  split
  · exact h1.enterEvent _ _
  · exact h1.exitEvent _ _ _

theorem Account.windowEvent (l : Nat) (e : RackEvent) (hs : Account a Hand.empty s) :
    Account a Hand.empty (windowEvent l e s) := by
  unfold Machine.windowEvent
  split
  · exact hs.applyEvent _ _
  · dsimp only
    split
    · refine Account.applyEvent _ _ ?_
      split
      · exact (Account.ofTally a Hand.empty).hush.raise _ _ _ _ hs
      · exact hs
    · exact hs

theorem Account.applyEvents (l : Nat) (es : List RackEvent) (hs : Account a Hand.empty s) :
    Account a Hand.empty (applyEvents l es s) := by
  unfold Machine.applyEvents
  split
  · exact Hush.foldl (f := fun t e => Machine.applyEvent l e t) (fun e _ hs => hs.applyEvent l e) es hs
  · exact Hush.foldl (f := fun t e => Machine.windowEvent l e t) (fun e _ hs => hs.windowEvent l e) es hs

/-! ### Close completion -/

/-- A rack of the exit section as close completion finds it: it leaves with its route. -/
theorem Account.closeRack {l : Nat} {r : Rack} (hs : Account a Hand.empty s) (hl : l < 2)
    (hm : a.rack → r ∈ (s.line l).exits) : Account a Hand.empty (closeRack l r s) := by
  have free : a.rack → r.reason = none → ∀ q ∈ (s.line l).exits, q.tag = r.tag → q.reason = none := fun hR h q hq e => by
    rw [eq_of_tag ((hs.rack hR).nodup_exits l) (hm hR) hq e]
    exact h
  unfold Machine.closeRack
  dsimp only
  split
  · rename_i h
    exact hs.soilHeld _ hl fun hR => ⟨hm hR, by rw [h]; exact Option.some_ne_none _⟩
  · rename_i k h1 h2
    exact (hs.dropRoute k l r.tag).leaveExit _ (fun hR => free hR h1) fun hR =>
      ((hs.rack hR).routedOnlyTo (hm hR) h2).dropRoute
  · rename_i h1 h2
    exact hs.leaveExit _ (fun hR => free hR h1) fun hR => (hs.rack hR).unrouted_of_dest (hm hR) h2

theorem raise_line (n : NoticeKind) (x y z : Nat) (s : State) (j : Nat) : (raise n x y z s).line j = s.line j := rfl
theorem raise_cab (n : NoticeKind) (x y z : Nat) (s : State) (j : Nat) : (raise n x y z s).cab j = s.cab j := rfl

theorem backpressure_exits (l : Nat) (s : State) (j : Nat) : ((backpressure l s).line j).exits = (s.line j).exits := by
  have h : ∀ x, ((withStops l x s).line j).exits = (s.line j).exits := fun x => by
    unfold withStops
    rw [State.line_setLine_ite]
    split
    · rename_i h
      rw [h.1]
    · rfl
  unfold backpressure
  dsimp only
  split
  · exact h _
  · split
    · exact h _
    · rfl

theorem leaveExit_exits (l tag why : Nat) (s : State) (hl : l < s.lines.length) :
    ((leaveExit l tag why s).line l).exits = (s.line l).exits.filter (·.tag ≠ tag) := by
  unfold leaveExit
  dsimp only
  rw [backpressure_exits, raise_line, withExits_eq, State.line_setLine _ _ _ hl]

theorem closeRack_exits (l : Nat) (r : Rack) (s : State) (hl : l < s.lines.length) :
    ((closeRack l r s).line l).exits = (s.line l).exits.filter (·.tag ≠ r.tag) := by
  unfold closeRack
  dsimp only
  split
  · exact leaveExit_exits _ _ _ _ hl
  · exact leaveExit_exits _ _ _ _ hl
  · exact leaveExit_exits _ _ _ _ hl

theorem Account.closeRacks {l : Nat} (hl : l < 2) : ∀ (rs : List Rack) {s : State}, Account a Hand.empty s →
    (a.rack → (rs.map (·.tag)).Nodup ∧ ∀ r ∈ rs, r ∈ (s.line l).exits) →
    Account a Hand.empty (rs.foldl (fun t r => Machine.closeRack l r t) s)
  | [], _, hs, _ => hs
  | r :: rs, _, hs, hw => closeRacks hl rs (hs.closeRack hl fun hR => (hw hR).2 r List.mem_cons_self) fun hR => by
      obtain ⟨h1, h2⟩ := hw hR
      rw [List.map_cons, List.nodup_cons] at h1
      refine ⟨h1.2, fun q hq => ?_⟩
      rw [closeRack_exits _ _ _ (by rw [hs.seated.lines]; exact hl)]
      refine List.mem_filter.2 ⟨h2 q (List.mem_cons_of_mem _ hq), decide_eq_true fun e => ?_⟩
      exact h1.1 (List.mem_map.2 ⟨q, hq, e⟩)

theorem Account.closeLine {l : Nat} (hl : l < 2) (hs : Account a Hand.empty s) : Account a Hand.empty (closeLine l s) :=
  (Account.ofTally a Hand.empty).withStops _ _ ((Account.ofTally a Hand.empty).release _
    (Account.closeRacks hl _ hs fun hR => ⟨(hs.rack hR).nodup_exits l, fun _ hr => hr⟩))

/-! ### A route runs out -/

theorem Account.routeTimeout {l tag : Nat} {k : Nat} (hs : Account a Hand.empty s) (he : s.expiredRoute l tag = some k) :
    Account a Hand.empty (Machine.unrouteRack l tag (raise .routeExpired l tag k (Machine.dropRoute k l tag s))) := by
  refine Account.unrouteRack ((Account.ofTally a Hand.empty).hush.raise _ _ _ _ (hs.dropRoute _ _ _)) fun hR => ?_
  unfold State.expiredRoute at he
  split at he
  · cases he
  · rename_i r hr
    unfold Line.exitRack at hr
    have hm := List.mem_of_find?_eq_some hr
    have ht : r.tag = tag := by simpa using List.find?_some hr
    split at he
    · rename_i k' _ h1 _
      split at he
      · cases he
        have : RoutedOnlyTo k l tag s := ht ▸ (hs.rack hR).routedOnlyTo hm h1
        exact fun j y hy => this.dropRoute j y (by rwa [raise_cab] at hy)
      · cases he
    · cases he

end Sys2Proof.Machine
end

section
/-! SUPPORT. The operations on the lots of warmers: unloading, loads, and the taking of a plate. -/

namespace Sys2Proof.Machine

variable {a : Aim} {b b' : Hand} {s t : State}

/-! ### One cabinet changes -/

/-- Of a sum over positions one entry changes. -/
theorem sum_change {n k : Nat} {f g : Nat → Nat} (hk : k < n) (h : ∀ j, j ≠ k → f j = g j) :
    ∑ i ∈ Finset.range n, f i + g k = ∑ i ∈ Finset.range n, g i + f k := by
  have hm := Finset.mem_range.2 hk
  have e : ∑ i ∈ (Finset.range n).erase k, f i = ∑ i ∈ (Finset.range n).erase k, g i :=
    Finset.sum_congr rfl fun j hj => h j (Finset.ne_of_mem_erase hj)
  rw [← Finset.add_sum_erase _ f hm, ← Finset.add_sum_erase _ g hm, e]
  omega

/-- The class and the plates of a cabinet's lots are as they were. -/
def SameLots (x y : Cab) : Prop := y.kind = x.kind ∧ y.cls = x.cls ∧ y.lots.map (·.count) = x.lots.map (·.count)

theorem SameLots.lotsOf {x y : Cab} (h : SameLots x y) (cls : Nat) : y.lotsOf cls = x.lotsOf cls := by
  obtain ⟨h1, h2, h3⟩ := h
  unfold Cab.lotsOf Cab.lotTotal
  rw [h1, h2, h3]

/-- A slot with a class is a warmer's, and one with none has no lots. -/
def Cab.classed (c : Cab) : Prop := (c.cls ≠ none → c.kind = .warmer) ∧ (c.cls = none → c.lots = [])

theorem SameLots.classed {x y : Cab} (h : SameLots x y) (hx : x.classed) : y.classed := by
  obtain ⟨h1, h2, h3⟩ := h
  refine ⟨fun e => h1.trans (hx.1 (h2 ▸ e)), fun e => ?_⟩
  rw [hx.2 (h2 ▸ e)] at h3
  simpa using h3

theorem LotBut.move (hs : LotBut b s) {k : Nat} (hk : k < 24) (cab : ∀ j, j ≠ k → SameLots (s.cab j) (t.cab j))
    (classed : (t.cab k).classed)
    (inWarmer : ∀ c, c < 8 → (t.ware c).inWarmer + b'.of c + (s.cab k).lotsOf c =
      (s.ware c).inWarmer + b.of c + (t.cab k).lotsOf c) : LotBut b' t where
  inWarmer c hc := by
    have h1 := inWarmer c hc
    have h2 := hs.inWarmer c hc
    have h3 := sum_change (f := fun j => (t.cab j).lotsOf c) (g := fun j => (s.cab j).lotsOf c) hk
      fun j hj => (cab j hj).lotsOf c
    omega
  classed j := by
    by_cases e : j = k
    · rw [e]
      exact classed
    · exact (cab j e).classed (hs.classed j)

theorem Cab.lotsOf_classed {c : Cab} {cls : Nat} (h : c.classed) (hc : c.cls = some cls) (i : Nat) :
    c.lotsOf i = if cls = i then c.lotTotal else 0 := by
  have hk : c.kind = .warmer := h.1 (by rw [hc]; exact Option.some_ne_none _)
  unfold Cab.lotsOf
  simp only [hk, hc, true_and, Option.some.injEq]

theorem Cab.lotsOf_none {c : Cab} (h : c.lots = []) (i : Nat) : c.lotsOf i = 0 := by
  unfold Cab.lotsOf Cab.lotTotal
  rw [h]
  exact ite_self _

theorem Cab.lotsOf_unclassed {c : Cab} (h : c.cls = none) (i : Nat) : c.lotsOf i = 0 := by
  unfold Cab.lotsOf
  rw [h]
  exact if_neg fun e => nomatch e.2

/-- IN_WARMER has the plates of every warmer. -/
theorem LotBut.lotsOf_le (hs : LotBut b s) {k c : Nat} (hk : k < 24) (hc : c < 8) :
    (s.cab k).lotsOf c ≤ (s.ware c).inWarmer + b.of c := by
  rw [hs.inWarmer c hc]
  exact Finset.single_le_sum (f := fun k => (s.cab k).lotsOf c) (fun _ _ => Nat.zero_le _) (Finset.mem_range.2 hk)

/-! ### What the other two accounts read -/

/-- Nothing but lots, some routes, and the places of the lots' plates has changed. -/
structure LotsOnly (s t : State) : Prop where
  wares : t.wares.length = s.wares.length
  washing : ∀ c, (t.ware c).washing = (s.ware c).washing
  held : ∀ c, (t.ware c).held = (s.ware c).held
  plated : ∀ c, (t.ware c).plated = (s.ware c).plated
  house : ∀ c, (t.ware c).house = (s.ware c).house
  courses : t.courses = s.courses
  lines : t.lines = s.lines
  cabs : t.cabs.length = s.cabs.length
  routes : ∀ k, ∀ y ∈ (t.cab k).routes, ∃ z ∈ (s.cab k).routes, z.line = y.line ∧ z.tag = y.tag

theorem LotsOnly.trans {u : State} (h : LotsOnly s t) (g : LotsOnly t u) : LotsOnly s u :=
  ⟨g.wares.trans h.wares, fun c => (g.washing c).trans (h.washing c), fun c => (g.held c).trans (h.held c),
    fun c => (g.plated c).trans (h.plated c), fun c => (g.house c).trans (h.house c), g.courses.trans h.courses,
    g.lines.trans h.lines, g.cabs.trans h.cabs, fun k y hy => by
      obtain ⟨z, hz, h1, h2⟩ := g.routes k y hy
      obtain ⟨w, hw, h3, h4⟩ := h.routes k z hz
      exact ⟨w, hw, h3.trans h1, h4.trans h2⟩⟩

/-- The routes of a cabinet name what they named. -/
theorem LotsOnly.setCab (s : State) (k : Nat) (x : Cab)
    (hx : ∀ y ∈ x.routes, ∃ z ∈ (s.cab k).routes, z.line = y.line ∧ z.tag = y.tag) : LotsOnly s (s.setCab k x) :=
  ⟨rfl, fun _ => rfl, fun _ => rfl, fun _ => rfl, fun _ => rfl, rfl, rfl, by simp, fun j y hy => by
    rw [State.cab_setCab_ite] at hy
    split at hy
    · rename_i h
      rw [h.1]
      exact hx y hy
    · exact ⟨y, hy, rfl, rfl⟩⟩

theorem LotsOnly.transfer (s : State) (cls : Nat) {p q : Place} (n : Nat) (hp : p = .clean ∧ q = .inWarmer ∨
    p = .inWarmer ∧ q = .clean) : LotsOnly s (transfer cls p q n s) := by
  have other : ∀ x : Place, x ≠ .clean → x ≠ .inWarmer → ∀ c,
      ((Machine.transfer cls p q n s).ware c).holds x = (s.ware c).holds x := fun x h1 h2 c => by
    rcases hp with ⟨rfl, rfl⟩ | ⟨rfl, rfl⟩
    · exact transfer_holds_other _ _ _ _ _ _ _ h1 h2
    · exact transfer_holds_other _ _ _ _ _ _ _ h2 h1
  exact ⟨by simp [Machine.transfer], other .washing (by decide) (by decide), other .held (by decide) (by decide),
    other .plated (by decide) (by decide), transfer_house cls p q n s, rfl, rfl, rfl, fun _ y hy => ⟨y, hy, rfl, rfl⟩⟩

theorem LotsOnly.line (h : LotsOnly s t) (l : Nat) : t.line l = s.line l := congrArg (List.getD · l Line.initial) h.lines

theorem LotsOnly.course (h : LotsOnly s t) (c : Nat) : t.course c = s.course c :=
  congrArg (List.getD · c Course.initial) h.courses

theorem LotsOnly.seated (h : LotsOnly s t) (hs : Seated s) : Seated t :=
  hs.of h.wares (by rw [h.courses]) h.cabs (by rw [h.lines])

/-- A change of lots alone keeps the accounts if it keeps that of the lots. -/
theorem Account.lotsOnly (hs : Account a b s) (h : LotsOnly s t) (hl : a.lot → LotBut b t) : Account a b t :=
  ⟨h.seated hs.seated,
    fun r => (hs.rack r).congr h.washing h.held (fun j => by rw [h.line]; exact LineTally.refl _) h.routes, hl,
    fun q => (hs.plated q).congr h.plated h.house fun c => by rw [h.course]; exact CourseTally.refl _⟩

/-! ### Unloading -/

theorem Seated.cab_initial (hs : Seated s) {k : Nat} (h : 24 ≤ k) : s.cab k = Cab.initial := by
  unfold State.cab
  rw [List.getD_eq_getElem?_getD, List.getElem?_eq_none (by rw [hs.cabs]; exact h)]
  rfl

/-- A slot with a class is one of the 24. -/
theorem Seated.cab_lt (hs : Seated s) {k cls : Nat} (h : (s.cab k).cls = some cls) : k < 24 := by
  by_contra hk
  rw [hs.cab_initial (by omega)] at h
  cases h

theorem Seated.cab_setCab (hs : Seated s) {k : Nat} (hk : k < 24) (x : Cab) (j : Nat) :
    (s.setCab k x).cab j = if j = k then x else s.cab j := by
  rw [State.cab_setCab_ite, hs.cabs]
  simp [hk]

theorem SameLots.refl (c : Cab) : SameLots c c := ⟨rfl, rfl, rfl⟩

theorem Account.unload (k : Nat) (hs : Account a Hand.empty s) : Account a Hand.empty (unload k s) := by
  unfold Machine.unload
  dsimp only
  split
  · exact hs
  · rename_i cls hc
    have hk := hs.seated.cab_lt hc
    generalize hx : ({ s.cab k with lots := [] } : Cab) = x
    have kind : x.kind = (s.cab k).kind := by rw [← hx]
    have lots : x.lots = [] := by rw [← hx]
    have h1 : LotsOnly s (s.setCab k x) := LotsOnly.setCab s k _ fun y hy => by
      rw [← hx] at hy
      exact ⟨y, hy, rfl, rfl⟩
    refine hs.lotsOnly (h1.trans (LotsOnly.transfer _ _ _ (.inr ⟨rfl, rfl⟩))) fun hL => ?_
    have hl := hs.lot hL
    have cab := hs.seated.cab_setCab hk x
    refine hl.move hk (fun j hj => ?_) ?_ fun i hi => ?_
    · rw [transfer_cab, cab, if_neg hj]
      exact SameLots.refl _
    · rw [transfer_cab, cab, if_pos rfl]
      exact ⟨fun _ => kind.trans ((hl.classed k).1 (by rw [hc]; exact Option.some_ne_none _)), fun _ => lots⟩
    · have le := hl.lotsOf_le hk hi
      rw [Cab.lotsOf_classed (hl.classed k) hc, Hand.empty_of] at le
      have h2 : ((transfer cls .inWarmer .clean (s.cab k).lotTotal (s.setCab k x)).ware i).inWarmer +
          (if cls = i then (s.cab k).lotTotal else 0) = (s.ware i).inWarmer :=
        transfer_source (p := .inWarmer) (h1.seated hs.seated) hi (by decide) fun e => by
          rw [if_pos e] at le
          exact le
      rw [transfer_cab, cab, if_pos rfl, Cab.lotsOf_none lots,
        Cab.lotsOf_classed (hl.classed k) hc]
      omega

/-- A slot that has no lots is configured. -/
theorem Account.configureSlot {k : Nat} {x : Cab} (hs : Account a Hand.empty s) (hk : k < 24)
    (h0 : (s.cab k).cls = none ∨ (s.cab k).lots = []) (hl : x.lots = []) (hr : x.routes = [])
    (hc : x.cls ≠ none → x.kind = .warmer) : Account a Hand.empty (s.setCab k x) := by
  refine hs.lotsOnly (LotsOnly.setCab s k x fun y hy => ?_) fun hL => ?_
  · rw [hr] at hy
    cases hy
  · have cab := hs.seated.cab_setCab hk x
    refine (hs.lot hL).move hk (fun j hj => ?_) ?_ fun i _ => ?_
    · rw [cab, if_neg hj]
      exact SameLots.refl _
    · rw [cab, if_pos rfl]
      exact ⟨hc, fun _ => hl⟩
    · have e : (s.cab k).lotsOf i = 0 := h0.elim (fun h => Cab.lotsOf_unclassed h i) fun h => Cab.lotsOf_none h i
      rw [cab, if_pos rfl, e, Cab.lotsOf_none hl]
      rfl

/-! ### Loads -/

theorem fillRoutes_names : ∀ (n : Nat) (rs : List Route),
    (fillRoutes n rs).map (fun r => (r.line, r.tag)) = rs.map fun r => (r.line, r.tag)
  | _, [] => rfl
  | n, r :: rs => by
    unfold fillRoutes
    rw [List.map_cons, List.map_cons, fillRoutes_names]

/-- Filling names no rack anew. -/
theorem mem_fillRoutes {n : Nat} {rs : List Route} {y : Route} (h : y ∈ fillRoutes n rs) :
    ∃ z ∈ rs, z.line = y.line ∧ z.tag = y.tag := by
  have : (y.line, y.tag) ∈ rs.map fun r => (r.line, r.tag) :=
    fillRoutes_names n rs ▸ List.mem_map.2 ⟨y, h, rfl⟩
  obtain ⟨z, hz, e⟩ := List.mem_map.1 this
  exact ⟨z, hz, congrArg Prod.fst e, congrArg Prod.snd e⟩

theorem mem_routesToCancel : ∀ {n : Nat} {rs : List Route} {y : Route}, y ∈ routesToCancel n rs → y ∈ rs
  | _, [], _, h => h
  | n, r :: rs, y, h => by
    unfold routesToCancel at h
    split at h
    · cases h
    · split at h
      · exact List.mem_cons_of_mem _ (mem_routesToCancel h)
      · rcases List.mem_cons.1 h with rfl | h
        · exact List.mem_cons_self
        · exact List.mem_cons_of_mem _ (mem_routesToCancel h)

theorem addLot_kind (c : Cab) (n now : Nat) : (c.addLot n now).kind = c.kind := by
  unfold Cab.addLot
  dsimp only
  split
  · rfl
  · split <;> rfl

theorem addLot_cls (c : Cab) (n now : Nat) : (c.addLot n now).cls = c.cls := by
  unfold Cab.addLot
  dsimp only
  split
  · rfl
  · split <;> rfl

theorem lotTotal_addLot (c : Cab) (n now : Nat) : (c.addLot n now).lotTotal = c.lotTotal + n := by
  unfold Cab.addLot Cab.lotTotal
  dsimp only
  split
  · simp [total_append, total_cons]
  · rename_i h
    split
    · rename_i h0
      rw [List.getLast?_eq_none_iff] at h0
      rw [h0] at h
      exact absurd (by decide) h
    · rename_i l hl
      obtain ⟨ys, e⟩ := List.getLast?_eq_some_iff.1 hl
      rw [e]
      simp [total_append, total_cons, Nat.add_assoc]

/-- The rack that a route of `k` names, as the load finds it: no other cabinet names it, and it is AT_EXIT. -/
structure Loaded (k l tag : Nat) (s : State) : Prop where
  only : RoutedOnlyTo k l tag s
  free : ∀ q ∈ (s.line l).exits, q.tag = tag → q.reason = none

theorem RackBut.loaded (hs : RackBut b s) {k : Nat} {y : Route} (hy : y ∈ (s.cab k).routes) : Loaded k y.line y.tag s := by
  refine ⟨hs.routedOnlyTo_of_route hy, fun q hq e => ?_⟩
  exact (hs.dest_of_route hq hy ⟨rfl, e.symm⟩).1

theorem Loaded.ofTally (k l tag : Nat) : OfTally (Loaded k l tag) := fun s t h hs => by
  refine ⟨fun j hj y hy e => ?_, fun q hq e => ?_⟩
  · obtain ⟨z, hz, h1, h2⟩ := (h.cab j).routes y hy
    exact hs.only j hj z hz ⟨h1.trans e.1, h2.trans e.2⟩
  · obtain ⟨r, hr, h1⟩ := mem_stand (h.line l).exits hq
    simp only [Rack.stand, Prod.mk.injEq] at h1
    exact h1.2.2.2.1.symm.trans (hs.free r hr (h1.1.trans e))

theorem Loaded.leaveExit {k l tag : Nat} (l' tag' why : Nat) (h : Loaded k l tag s) :
    Loaded k l tag (leaveExit l' tag' why s) := by
  have h1 : Loaded k l tag (withExits l' ((s.line l').exits.filter (·.tag ≠ tag')) s) := by
    refine ⟨h.only, fun q hq e => h.free q ?_ e⟩
    rw [withExits_eq, State.line_setLine_ite] at hq
    split at hq
    · rename_i hl
      rw [hl.1]
      exact List.mem_of_mem_filter hq
    · exact hq
  exact (Loaded.ofTally k l tag).backpressure _ ((Loaded.ofTally k l tag).hush.raise _ _ _ _ h1)

theorem Loaded.settleRoute {k l tag : Nat} (old new : Route) (h : Loaded k l tag s) :
    Loaded k l tag (settleRoute k old new s) := by
  have g := Loaded.ofTally k l tag
  unfold Machine.settleRoute
  extract_lets s1
  have h1 : Loaded k l tag s1 := by
    show Loaded k l tag (if _ then _ else _)
    split
    · exact h
    · exact g.loadRack _ _ _ h
  split
  · exact (g.dropRoute _ _ _ h1).leaveExit _ _ _
  · exact h1

theorem Account.settleRoute {k : Nat} {old new : Route} (hs : Account a Hand.empty s)
    (hn : a.rack → Loaded k new.line new.tag s) : Account a Hand.empty (settleRoute k old new s) := by
  have h := Account.ofTally a Hand.empty
  have g := Loaded.ofTally k new.line new.tag
  unfold Machine.settleRoute
  extract_lets s1
  have h1 : Account a Hand.empty s1 ∧ (a.rack → Loaded k new.line new.tag s1) := by
    show Account a Hand.empty (if _ then _ else _) ∧ (_ → Loaded _ _ _ (if _ then _ else _))
    split
    · exact ⟨hs, hn⟩
    · exact ⟨h.loadRack _ _ _ hs, fun hR => g.loadRack _ _ _ (hn hR)⟩
  obtain ⟨ha, hl⟩ := h1
  split
  · exact (ha.dropRoute _ _ _).leaveExit _ (fun hR => (hl hR).free) fun hR => (hl hR).only.dropRoute
  · exact ha

theorem Account.settleRoutes {k : Nat} : ∀ (l : List (Route × Route)) {s : State}, Account a Hand.empty s →
    (a.rack → ∀ x ∈ l, Loaded k x.2.line x.2.tag s) →
    Account a Hand.empty (l.foldl (fun t x => Machine.settleRoute k x.1 x.2 t) s)
  | [], _, hs, _ => hs
  | x :: l, _, hs, hn => settleRoutes l (hs.settleRoute fun hR => hn hR x List.mem_cons_self) fun hR y hy =>
      (hn hR y (List.mem_cons_of_mem _ hy)).settleRoute _ _

theorem cancelSome_cls {k j : Nat} : ∀ (rs : List Route) (s : State),
    ((rs.foldl (fun t r => cancelRoute k r t) s).cab j).cls = (s.cab j).cls
  | [], _ => rfl
  | r :: rs, s => (cancelSome_cls rs _).trans (by
      unfold cancelRoute
      rw [unrouteRack_cab]
      unfold dropRoute
      rw [State.cab_setCab_ite]
      split
      · rename_i h
        rw [h.1]
      · rfl)

/-- Plates of CLEAN go into one lot of a warmer, and into its routes. -/
theorem Account.addLot {k cls n m : Nat} (hs : Account a Hand.empty s) (hc : (s.cab k).cls = some cls)
    (hn : n ≤ (s.ware cls).clean) {u : State} (hu : Unmoved (transfer cls .clean .inWarmer n s) u) (now : Nat) :
    Account a Hand.empty (u.setCab k { (u.cab k).addLot n now with
      routes := fillRoutes m (s.cab k).routes, sleepT := none }) := by
  have hk := hs.seated.cab_lt hc
  have h1 : LotsOnly s (transfer cls .clean .inWarmer n s) := LotsOnly.transfer _ _ _ (.inl ⟨rfl, rfl⟩)
  have seat := h1.seated hs.seated
  have seat' : Seated u := seat.of (by rw [hu.wares]) hu.courses hu.cabs hu.lines
  have cab := seat'.cab_setCab hk { (u.cab k).addLot n now with routes := fillRoutes m (s.cab k).routes, sleepT := none }
  have ware : ∀ c, u.ware c = (transfer cls .clean .inWarmer n s).ware c := fun c =>
    congrArg (List.getD · c Ware.initial) hu.wares
  refine ⟨seat'.of rfl rfl (by simp) rfl, fun hR => ?_, fun hL => ?_, fun hP => ?_⟩
  · refine (hs.rack hR).congr (fun c => ?_) (fun c => ?_) (fun j => ?_) fun j y hy => ?_
    · exact (congrArg Ware.washing (ware c)).trans (h1.washing c)
    · exact (congrArg Ware.held (ware c)).trans (h1.held c)
    · exact hu.line j
    · rw [cab] at hy
      split at hy
      · rename_i e
        rw [e]
        exact mem_fillRoutes hy
      · exact (hu.cab j).routes y hy
  · have hl := hs.lot hL
    refine hl.move hk (fun j hj => ?_) ?_ fun i hi => ?_
    · rw [cab, if_neg hj]
      exact ⟨(hu.cab j).kind, (hu.cab j).cls, (hu.cab j).lots⟩
    · rw [cab, if_pos rfl]
      have e : (u.cab k).cls = some cls := (hu.cab k).cls.trans hc
      refine ⟨fun _ => ?_, fun h => ?_⟩
      · show ((u.cab k).addLot n now).kind = _
        rw [addLot_kind, (hu.cab k).kind]
        exact (hl.classed k).1 (by rw [hc]; exact Option.some_ne_none _)
      · have h : ((u.cab k).addLot n now).cls = none := h
        rw [addLot_cls, e] at h
        cases h
    · have h2 : (u.ware i).inWarmer = (s.ware i).inWarmer + if cls = i then n else 0 := by
        rw [ware]
        exact transfer_dest (p := .clean) (q := .inWarmer) hs.seated hi (by decide) fun e => by subst e; exact hn
      have sl : SameLots (s.cab k) (u.cab k) := ⟨(hu.cab k).kind, (hu.cab k).cls, (hu.cab k).lots⟩
      have e3 : Cab.lotsOf i { (u.cab k).addLot n now with routes := fillRoutes m (s.cab k).routes, sleepT := none } =
          (s.cab k).lotsOf i + if cls = i then n else 0 := by
        have hcls : ((u.cab k).addLot n now).cls = some cls := (addLot_cls _ _ _).trans ((hu.cab k).cls.trans hc)
        have hkind : ((u.cab k).addLot n now).kind = .warmer := by
          rw [addLot_kind]
          exact (sl.classed (hl.classed k)).1 (by rw [sl.2.1, hc]; exact Option.some_ne_none _)
        rw [← sl.lotsOf, Cab.lotsOf_classed (sl.classed (hl.classed k)) (sl.2.1.trans hc)]
        unfold Cab.lotsOf
        simp only [hcls, hkind, true_and, Option.some.injEq]
        split
        · exact lotTotal_addLot _ _ _
        · rfl
      rw [cab, if_pos rfl, e3]
      show (u.ware i).inWarmer + _ + _ = _
      omega
  · refine (hs.plated hP).congr (fun c => ?_) (fun c => ?_) fun c => hu.course c
    · exact (congrArg Ware.plated (ware c)).trans (h1.plated c)
    · exact (congrArg Ware.house (ware c)).trans (h1.house c)

theorem Account.transfer_zero (cls : Nat) (hs : Account a Hand.empty s) :
    Account a Hand.empty (transfer cls .clean .inWarmer 0 s) := by
  refine hs.lotsOnly (LotsOnly.transfer _ _ _ (.inl ⟨rfl, rfl⟩)) fun hL => ?_
  refine { hs.lot hL with inWarmer := fun i hi => ?_ }
  have h : ((transfer cls .clean .inWarmer 0 s).ware i).inWarmer = (s.ware i).inWarmer + if cls = i then 0 else 0 :=
    transfer_dest (p := .clean) (q := .inWarmer) hs.seated hi (by decide) fun _ => Nat.zero_le _
  rw [h, ite_self]
  exact (hs.lot hL).inWarmer i hi

theorem mismatch_unmoved (k x y : Nat) (q : Prop) [Decidable q] (s : State) :
    Unmoved s (if q then mismatch k x y s else s) := by
  split
  · exact (Unmoved.ofTally s).hush.raise _ _ _ _ (Unmoved.refl _)
  · exact Unmoved.refl _

theorem Account.loadPlates (k n : Nat) (hs : Account a Hand.empty s) : Account a Hand.empty (loadPlates k n s) := by
  have h := Account.ofTally a Hand.empty
  unfold Machine.loadPlates
  extract_lets c routed rest filled used excess gone s1 kept room taken s2 claim
  have h1 : Account a Hand.empty s1 := Account.cancelSome gone hs fun hR r hr => by
    obtain ⟨z, hz, e1, e2⟩ := mem_fillRoutes (List.mem_reverse.1 (mem_routesToCancel hr))
    have := (hs.rack hR).routedOnlyTo_of_route hz
    rwa [e1, e2] at this
  have h2 : Account a Hand.empty s2 := h1.unmoved (mismatch_unmoved _ _ _ _ _)
  have hk2 : s2.cab k = s1.cab k := by
    show (if _ then _ else _ : State).cab k = _
    split <;> rfl
  split
  · exact h2
  · rename_i cls hc
    extract_lets applied s3 s4 after src s5 s6 s7
    have hc2 : (s2.cab k).cls = some cls := by
      rw [hk2]
      exact (cancelSome_cls gone s).trans hc
    have hu4 : Unmoved s3 s4 := mismatch_unmoved _ _ _ _ _
    split
    · rename_i h0
      have e : s3 = transfer cls .clean .inWarmer 0 s2 := congrArg (fun n => transfer cls .clean .inWarmer n s2) h0
      exact Account.unmoved (e ▸ h2.transfer_zero cls) hu4
    · have h5 : Account a Hand.empty s5 := by
        have := h2.addLot (m := applied) hc2 (Nat.min_le_right _ _) hu4 s4.now
        rwa [hk2] at this
      have hu : Unmoved s5 s7 := by
        have g := Unmoved.ofTally s5
        refine g.hush.evaluateAll (g.hush.walkOwing _ ?_)
        show Unmoved s5 (if _ then _ else _)
        split
        · exact g.requestHeat _ (Unmoved.refl _)
        · exact Unmoved.refl _
      refine h.hush.callRoutes (Account.settleRoutes _ (h5.unmoved hu) fun hR x hx => ?_)
      refine Loaded.ofTally _ _ _ _ _ hu ((h5.rack hR).loaded ?_)
      have hk : k < s4.cabs.length := by
        rw [hu4.cabs]
        exact h2.seated.cabs ▸ h2.seated.cab_lt hc2
      rw [State.cab_setCab _ _ _ hk]
      exact (List.of_mem_zip hx).2

theorem Account.applyLoad (k n : Nat) (hs : Account a Hand.empty s) : Account a Hand.empty (applyLoad k n s) := by
  unfold Machine.applyLoad
  split
  · exact hs
  · split
    · exact (Account.ofTally a Hand.empty).hush.raise _ _ _ _ hs
    · exact hs.loadPlates _ _

end Sys2Proof.Machine
end

section
/-! SUPPORT. Draws, and the operations that give a course plates, take them back or empty its slot. -/

namespace Sys2Proof.Machine

variable {a : Aim} {b b' : Hand} {s t : State}

/-! ### One course changes -/

theorem PlatedBut.move (hs : PlatedBut b s) {c : Nat} (hc : c < 32) {x : Course}
    (course : ∀ j, t.course j = if j = c then x else s.course j) (returned : x.returned ≤ x.plated)
    (unfired : x.state = .planned ∨ x.state = .armed → x.plated = 0)
    (sums : ∀ i, i < 8 → (t.ware i).plated + (s.ware i).house + (s.course c).out i + b.of i =
      (s.ware i).plated + (t.ware i).house + x.out i + b'.of i) : PlatedBut b' t where
  sums i hi := by
    have h1 := sums i hi
    have h2 := hs.sums i hi
    have h3 := sum_change (f := fun j => (t.course j).out i) (g := fun j => (s.course j).out i) hc
      fun j hj => by rw [course, if_neg hj]
    have h4 : (t.course c).out i = x.out i := by rw [course, if_pos rfl]
    omega
  returned j := by
    rw [course]
    split
    · exact returned
    · exact hs.returned j
  unfired j h := by
    rw [course] at h ⊢
    split at h
    · rename_i e
      rw [if_pos e]
      exact unfired h
    · rename_i e
      rw [if_neg e]
      exact hs.unfired j h

/-- PLATED has what every course has out. -/
theorem PlatedBut.out_le (hs : PlatedBut b s) {c i : Nat} (hc : c < 32) (hi : i < 8) :
    (s.course c).out i ≤ (s.ware i).plated := by
  have h := Finset.single_le_sum (f := fun c => (s.course c).out i) (fun _ _ => Nat.zero_le _) (Finset.mem_range.2 hc)
  rw [hs.sums i hi]
  omega

theorem Seated.course_setCourse (hs : Seated s) {c : Nat} (hc : c < 32) (x : Course) (j : Nat) :
    (s.setCourse c x).course j = if j = c then x else s.course j := by
  rw [State.course_setCourse_ite, hs.courses]
  simp [hc]

theorem Seated.course_initial (hs : Seated s) {c : Nat} (h : 32 ≤ c) : s.course c = Course.initial := by
  unfold State.course
  rw [List.getD_eq_getElem?_getD, List.getElem?_eq_none (by rw [hs.courses]; exact h)]
  rfl

/-- A course that is not EMPTY has one of the 32 slots. -/
theorem Seated.course_lt (hs : Seated s) {c : Nat} (h : (s.course c).state ≠ .empty) : c < 32 := by
  by_contra hc
  rw [hs.course_initial (by omega)] at h
  exact h rfl

/-- Nothing but courses and the places of their plates has changed. -/
structure PlatesOnly (s t : State) : Prop where
  wares : t.wares.length = s.wares.length
  washing : ∀ c, (t.ware c).washing = (s.ware c).washing
  held : ∀ c, (t.ware c).held = (s.ware c).held
  inWarmer : ∀ c, (t.ware c).inWarmer = (s.ware c).inWarmer
  courses : t.courses.length = s.courses.length
  lines : t.lines = s.lines
  cabs : t.cabs = s.cabs

theorem PlatesOnly.trans {u : State} (h : PlatesOnly s t) (g : PlatesOnly t u) : PlatesOnly s u :=
  ⟨g.wares.trans h.wares, fun c => (g.washing c).trans (h.washing c), fun c => (g.held c).trans (h.held c),
    fun c => (g.inWarmer c).trans (h.inWarmer c), g.courses.trans h.courses, g.lines.trans h.lines, g.cabs.trans h.cabs⟩

theorem PlatesOnly.setCourse (s : State) (c : Nat) (x : Course) : PlatesOnly s (s.setCourse c x) :=
  ⟨rfl, fun _ => rfl, fun _ => rfl, fun _ => rfl, by simp, rfl, rfl⟩

/-- A class changes what R3 for WASHING, HELD and IN_WARMER does not read. -/
theorem PlatesOnly.setWare (s : State) (c : Nat) (x : Ware) (h1 : x.washing = (s.ware c).washing)
    (h2 : x.held = (s.ware c).held) (h3 : x.inWarmer = (s.ware c).inWarmer) : PlatesOnly s (s.setWare c x) := by
  have ware : ∀ f : Ware → Nat, f x = f (s.ware c) → ∀ j, f ((s.setWare c x).ware j) = f (s.ware j) := fun f h j => by
    rw [State.ware_setWare_ite]
    split
    · rename_i e
      rw [e.1, h]
    · rfl
  exact ⟨by simp, ware _ h1, ware _ h2, ware _ h3, rfl, rfl, rfl⟩

theorem PlatesOnly.seated (h : PlatesOnly s t) (hs : Seated s) : Seated t :=
  hs.of h.wares h.courses (by rw [h.cabs]) (by rw [h.lines])

/-- A change of courses and their plates keeps the accounts if it keeps that of the plated ones. -/
theorem Account.platesOnly (hs : Account a b s) (h : PlatesOnly s t) (hp : a.plated → PlatedBut b t) : Account a b t := by
  have line : ∀ l, t.line l = s.line l := fun l => congrArg (List.getD · l Line.initial) h.lines
  have cab : ∀ k, t.cab k = s.cab k := fun k => congrArg (List.getD · k Cab.initial) h.cabs
  exact ⟨h.seated hs.seated,
    fun r => (hs.rack r).congr h.washing h.held (fun j => by rw [line]; exact LineTally.refl _)
      fun k y hy => ⟨y, by rwa [cab] at hy, rfl, rfl⟩,
    fun l => (hs.lot l).congr h.inWarmer fun k => by rw [cab]; exact ⟨rfl, rfl, rfl⟩, hp⟩

/-- One course changes, and plates go back or none do. -/
theorem Account.courseMove {c : Nat} {x : Course} {u : State} (hs : Account a b s) (hu : PlatesOnly s u)
    (hc : u.courses = s.courses) (returned : a.plated → x.returned ≤ x.plated)
    (unfired : a.plated → x.state = .planned ∨ x.state = .armed → x.plated = 0)
    (sums : a.plated → c < 32 → ∀ i, i < 8 → (u.ware i).plated + (s.ware i).house + (s.course c).out i =
      (s.ware i).plated + (u.ware i).house + x.out i)
    (none : a.plated → 32 ≤ c → ∀ i, (u.ware i).plated + (s.ware i).house = (s.ware i).plated + (u.ware i).house) :
    Account a b (u.setCourse c x) := by
  have hp := hu.trans (PlatesOnly.setCourse u c x)
  have seat := hu.seated hs.seated
  have course : ∀ j, u.course j = s.course j := fun j => congrArg (List.getD · j Course.initial) hc
  refine hs.platesOnly hp fun hP => ?_
  have h := hs.plated hP
  by_cases hc : c < 32
  · refine h.move hc (fun j => by rw [seat.course_setCourse hc, course]) (returned hP) (unfired hP) fun i hi => ?_
    have := sums hP hc i hi
    show (u.ware i).plated + _ + _ + _ = _
    show _ = _ + (u.ware i).house + _ + _
    omega
  · have e : ∀ j, (u.setCourse c x).course j = s.course j := fun j => by
      rw [State.course_setCourse_ite, if_neg (by rw [seat.courses]; exact fun h => hc h.2), course]
    refine ⟨fun i hi => ?_, fun j => by rw [e]; exact h.returned j, fun j => by rw [e]; exact h.unfired j⟩
    have h1 := h.sums i hi
    have h2 := none hP (by omega) i
    simp only [e]
    show (u.ware i).plated = (u.ware i).house + _ + _
    omega

theorem Course.out_of {x : Course} {i : Nat} (h1 : x.state ≠ .empty) (h2 : x.cls = i) : x.out i = x.plated - x.returned :=
  if_pos ⟨h1, h2⟩

theorem Course.out_other {x : Course} {i : Nat} (h : x.cls ≠ i) : x.out i = 0 := if_neg fun e => h e.2

theorem Course.out_congr {x y : Course} (h1 : y.state = .empty ↔ x.state = .empty) (h2 : y.cls = x.cls)
    (h3 : y.plated - y.returned = x.plated - x.returned) (i : Nat) : y.out i = x.out i := by
  unfold Course.out
  simp only [ne_eq, h1, h2, h3]

/-- A course keeps what it has out. -/
theorem Account.keepCourse {c : Nat} {x : Course} (hs : Account a b s)
    (h1 : x.state = .empty ↔ (s.course c).state = .empty) (h2 : x.cls = (s.course c).cls)
    (h3 : a.plated → x.plated = (s.course c).plated) (h4 : x.returned = (s.course c).returned)
    (h5 : a.plated → x.state = .planned ∨ x.state = .armed → x.plated = 0) : Account a b (s.setCourse c x) := by
  refine hs.courseMove ⟨rfl, fun _ => rfl, fun _ => rfl, fun _ => rfl, rfl, rfl, rfl⟩ rfl
    (fun hP => by rw [h3 hP, h4]; exact (hs.plated hP).returned c) h5 (fun hP _ i _ => ?_) (fun _ _ _ => rfl)
  rw [Course.out_congr h1 h2 (by rw [h3 hP, h4])]

/-! ### Fire, define, cancel -/

theorem Account.startBatch (c : Nat) (hs : Account a b s) : Account a b (startBatch c s) :=
  (Account.ofTally a b).startBatch c hs

/-- An ARMED course is fired. -/
theorem Account.fireCourse {c : Nat} (hs : Account a b s) (ha : (s.course c).state = .armed) :
    Account a b (fireCourse c s) := by
  have h := Account.ofTally a b
  unfold Machine.fireCourse
  dsimp only
  refine h.hush.evaluate _ (h.hush.raise _ _ _ _ (h.hush.takeEarmarks _ (h.startBatch _ ?_)))
  have h1 : Account a b (takeFireSeq s) := h.frame hs rfl rfl rfl rfl
  refine h1.keepCourse ?_ rfl (fun hP => ((hs.plated hP).unfired c (.inr ha)).symm) rfl fun _ _ => rfl
  show CourseState.fired = .empty ↔ (s.course c).state = .empty
  rw [ha]
  decide

/-- An EMPTY slot is defined. -/
theorem Account.defineCourse {c : Nat} {x : Course} (hs : Account a b s) (he : (s.course c).state = .empty)
    (h1 : x.plated = 0) (h2 : x.returned = 0) : Account a b (s.setCourse c x) := by
  refine hs.courseMove ⟨rfl, fun _ => rfl, fun _ => rfl, fun _ => rfl, rfl, rfl, rfl⟩ rfl (fun _ => by rw [h1, h2])
    (fun _ _ => h1) (fun _ _ i _ => ?_) (fun _ _ _ => rfl)
  have e1 : (s.course c).out i = 0 := if_neg fun h => h.1 he
  have e2 : x.out i = 0 := by
    unfold Course.out
    rw [h1, h2]
    exact ite_self _
  rw [e1, e2]

/-- The record of a cancelled course. -/
def Course.cancel (x : Course) : Course := { x with state := .cancelled, owed := 0, fireTime := none }

/-- A cancel, but for the course's own record, moves nothing. -/
theorem OfTally.cancelCourse {P : State → Prop} (h : OfTally P) (c : Nat)
    (hc : ∀ u, Unmoved s u → P u → P (u.setCourse c (u.course c).cancel)) (hs : P s) : P (cancelCourse c s) := by
  unfold Machine.cancelCourse
  extract_lets old s1 es s2 x s3 s4 s5
  have hu : Unmoved s s2 := (Unmoved.ofTally s).frame ((Unmoved.ofTally s).removeBatch c (Unmoved.refl _)) rfl rfl rfl rfl
  have h3 : P s3 := hc s2 hu (h _ _ hu hs)
  have h4 : P s4 := Hush.forEach (f := walkOwing) (fun k _ ht => h.hush.walkOwing k ht) _ h3
  refine h.hush.raise _ _ _ _ (h.hush.cancelCoursePages _ _ ?_)
  show P (if _ then _ else _)
  split
  · exact h4
  · exact h.hush.evaluateAll h4

/-- A course that is not EMPTY is cancelled. -/
theorem Account.cancelCourse {c : Nat} (hs : Account a b s) (he : (s.course c).state ≠ .empty) :
    Account a b (cancelCourse c s) := by
  refine (Account.ofTally a b).cancelCourse c (fun u hu h => ?_) hs
  refine h.keepCourse ?_ rfl (fun _ => rfl) rfl fun _ h => ?_
  · show CourseState.cancelled = .empty ↔ (u.course c).state = .empty
    rw [(hu.course c).empty]
    exact ⟨fun h => (nomatch h), fun h => absurd h he⟩
  · rcases h with h | h <;> cases h

/-- The slots that are used stay so. -/
theorem cancelCourse_used {i : Nat} (c : Nat) (hs : (s.course i).state ≠ .empty) :
    ((Machine.cancelCourse c s).course i).state ≠ .empty := by
  have h : OfTally fun t => (t.course i).state ≠ .empty := fun _ _ hu hs e => hs ((hu.course i).empty.1 e)
  refine h.cancelCourse c (fun u _ hi => ?_) hs
  rw [State.course_setCourse_ite]
  split
  · exact fun e => (nomatch e)
  · exact hi

/-- A course passes what it has out to house plated, and its slot is EMPTY. -/
theorem Account.emptyCourse {c : Nat} (hs : Account a b s) (he : (s.course c).state ≠ .empty) :
    Account a b (emptyCourse c s) := by
  have hc := hs.seated.course_lt he
  unfold Machine.emptyCourse addHouse
  refine hs.courseMove (PlatesOnly.setWare _ _ _ rfl rfl rfl) rfl (fun _ => Nat.le_refl _) (fun _ _ => rfl)
    (fun hP _ i hi => ?_) (fun _ h => by omega)
  rw [State.ware_setWare_ite, hs.seated.wares]
  have e0 : Course.initial.out i = 0 := if_neg fun h => h.1 rfl
  rw [e0]
  unfold Course.out
  by_cases e : (s.course c).cls = i
  · subst e
    rw [if_pos ⟨rfl, hi⟩, if_pos ⟨he, rfl⟩]
    dsimp only
    omega
  · rw [if_neg fun h => e h.1.symm, if_neg fun h => e h.2]

/-! ### Draws -/

theorem total_takeLots : ∀ (l : List Lot) (n : Nat),
    total ((takeLots l n).map (·.count)) = total (l.map (·.count)) - n
  | [], n => (Nat.zero_sub n).symm
  | x :: l, n => by
    unfold takeLots
    split
    · rename_i h
      rw [h, Nat.sub_zero]
    · split
      · rw [total_takeLots l, List.map_cons, total_cons]
        omega
      · rw [List.map_cons, List.map_cons, total_cons, total_cons]
        dsimp only
        omega

/-- A draw in progress: `n` plates of it are still to be credited. -/
structure Drawing (a : Aim) (k cls n : Nat) (s : State) : Prop where
  account : Account a ⟨0, [], cls, n⟩ s
  cls : (s.cab k).cls = some cls
  lots : n ≤ (s.cab k).lotTotal

/-- A course that a plate of the class may be credited to. -/
structure Creditable (cls c : Nat) (s : State) : Prop where
  cls : (s.course c).cls = cls
  used : (s.course c).state ≠ .empty
  fired : ¬ ((s.course c).state = .planned ∨ (s.course c).state = .armed)

theorem Drawing.ofTally (a : Aim) (k cls n : Nat) : OfTally (Drawing a k cls n) := fun _ _ h hs => by
  refine ⟨hs.account.unmoved h, (h.cab k).cls.trans hs.cls, ?_⟩
  have := hs.lots
  unfold Cab.lotTotal at this ⊢
  rwa [(h.cab k).lots]

theorem Creditable.ofTally (cls c : Nat) : OfTally (Creditable cls c) := fun _ _ h hs =>
  ⟨(h.course c).cls.trans hs.cls, fun e => hs.used ((h.course c).empty.1 e), fun e => hs.fired ((h.course c).unfired.1 e)⟩

/-- One plate leaves the lots of a warmer. -/
def takePlate (k : Nat) (s : State) : State := s.setCab k { s.cab k with lots := takeLots (s.cab k).lots 1 }

/-- A plate taken from the lots of the warmer is credited: to a course or to the house, as `t` says. -/
theorem Drawing.credit {k cls n : Nat} (hs : Drawing a k cls (n + 1) s) (wares : t.wares.length = s.wares.length)
    (washing : ∀ c, (t.ware c).washing = (s.ware c).washing) (held : ∀ c, (t.ware c).held = (s.ware c).held)
    (inWarmer : ∀ c, (t.ware c).inWarmer = (s.ware c).inWarmer) (courses : t.courses.length = s.courses.length)
    (lines : t.lines = s.lines) (cabs : t.cabs = (takePlate k s).cabs)
    (hp : a.plated → PlatedBut ⟨0, [], cls, n⟩ t) : Drawing a k cls n t := by
  have ha := hs.account
  have hk := ha.seated.cab_lt hs.cls
  have line : ∀ l, t.line l = s.line l := fun l => congrArg (List.getD · l Line.initial) lines
  have cab : ∀ j, t.cab j = if j = k then { s.cab k with lots := takeLots (s.cab k).lots 1 } else s.cab j := fun j =>
    (congrArg (List.getD · j Cab.initial) cabs).trans (ha.seated.cab_setCab hk _ j)
  have lots := hs.lots
  have left : Cab.lotTotal { s.cab k with lots := takeLots (s.cab k).lots 1 } = (s.cab k).lotTotal - 1 :=
    total_takeLots _ _
  refine ⟨⟨ha.seated.of wares courses (by rw [cabs]; simp [takePlate]) (by rw [lines]), fun hR => ?_, fun hL => ?_, hp⟩,
    ?_, ?_⟩
  · have h := (ha.rack hR).congr washing held (fun j => by rw [line]; exact LineTally.refl _) fun j y hy => by
      refine ⟨y, ?_, rfl, rfl⟩
      rw [cab] at hy
      split at hy
      · rename_i e
        rw [e]
        exact hy
      · exact hy
    exact { h with }
  · have hl := ha.lot hL
    have kc := hl.classed k
    have kc' : Cab.classed { s.cab k with lots := takeLots (s.cab k).lots 1 } := by
      refine ⟨kc.1, fun h => ?_⟩
      have h : (s.cab k).cls = none := h
      rw [hs.cls] at h
      cases h
    refine hl.move hk (fun j hj => ?_) ?_ fun i _ => ?_
    · rw [cab, if_neg hj]
      exact SameLots.refl _
    · rw [cab, if_pos rfl]
      exact kc'
    · rw [cab, if_pos rfl, Cab.lotsOf_classed kc hs.cls, Cab.lotsOf_classed kc' hs.cls, left, inWarmer]
      unfold Hand.of
      dsimp only
      by_cases e : cls = i
      · rw [if_pos e, if_pos e, if_pos e.symm, if_pos e.symm]
        omega
      · rw [if_neg e, if_neg e, if_neg (Ne.symm e), if_neg (Ne.symm e)]
  · rw [cab, if_pos rfl]
    exact hs.cls
  · rw [cab, if_pos rfl, left]
    omega

theorem Drawing.creditCourse {k cls n c : Nat} (hs : Drawing a k cls (n + 1) s) (hc : Creditable cls c s) :
    Drawing a k cls n ((takePlate k s).setCourse c { s.course c with plated := (s.course c).plated + 1 }) := by
  have hlt := hs.account.seated.course_lt hc.used
  refine hs.credit rfl (fun _ => rfl) (fun _ => rfl) (fun _ => rfl) (by simp [takePlate]) rfl rfl fun hP => ?_
  have hp := hs.account.plated hP
  have le := hp.returned c
  have seat : Seated (takePlate k s) := hs.account.seated.of rfl rfl (by simp [takePlate]) rfl
  refine hp.move hlt (seat.course_setCourse hlt _) (by dsimp only; omega) (fun h => absurd h hc.fired) fun i _ => ?_
  show (s.ware i).plated + _ + _ + _ = (s.ware i).plated + (s.ware i).house + _ + _
  have e := hc.cls
  unfold Hand.of
  by_cases hi : cls = i
  · rw [Course.out_of hc.used (e.trans hi), Course.out_of (by exact hc.used) (by exact e.trans hi), if_pos hi.symm,
      if_pos hi.symm]
    dsimp only
    omega
  · rw [Course.out_other fun h => hi (e.symm.trans h), Course.out_other (by exact fun h => hi (e.symm.trans h)),
      if_neg (Ne.symm hi), if_neg (Ne.symm hi)]

theorem Drawing.creditHouse {k cls n : Nat} (hs : Drawing a k cls (n + 1) s) :
    Drawing a k cls n (addHouse cls 1 (takePlate k s)) := by
  have h1 := PlatesOnly.setWare (takePlate k s) cls { (takePlate k s).ware cls with
    house := ((takePlate k s).ware cls).house + 1 } rfl rfl rfl
  refine hs.credit h1.wares h1.washing h1.held h1.inWarmer rfl rfl rfl fun hP => ?_
  have hp := hs.account.plated hP
  refine ⟨fun i hi => ?_, hp.returned, hp.unfired⟩
  have := hp.sums i hi
  show ((addHouse cls 1 (takePlate k s)).ware i).plated = ((addHouse cls 1 (takePlate k s)).ware i).house +
    (∑ c ∈ Finset.range 32, (s.course c).out i) + _
  unfold addHouse
  rw [State.ware_setWare_ite, show (takePlate k s).wares = s.wares from rfl, hs.account.seated.wares]
  unfold Hand.of at this ⊢
  dsimp only at this ⊢
  by_cases e : i = cls
  · subst e
    rw [if_pos ⟨rfl, hi⟩]
    rw [if_pos rfl] at this ⊢
    show (s.ware i).plated = (s.ware i).house + 1 + _ + _
    omega
  · rw [if_neg fun h => e h.1]
    rw [if_neg e] at this ⊢
    exact this

/-- Both of two properties of what R3 reads. -/
theorem OfTally.and {P Q : State → Prop} (h : OfTally P) (g : OfTally Q) : OfTally fun s => P s ∧ Q s :=
  fun _ _ hu hs => ⟨h _ _ hu hs.1, g _ _ hu hs.2⟩

theorem OfTally.startPlating {P : State → Prop} (h : OfTally P) (c : Nat) (hs : P s) : P (startPlating c s) := by
  unfold Machine.startPlating
  split
  · rename_i hr
    have hu : Unmoved s (Machine.removeBatch c s) := (Unmoved.ofTally s).removeBatch c (Unmoved.refl _)
    refine h.enterCourse c .plating ?_ ?_ (h.removeBatch c hs)
    · rw [(hu.course c).empty, hr]
      decide
    · rw [(hu.course c).unfired, hr]
      decide
  · exact hs

theorem takePlate_course (k : Nat) (s : State) (c : Nat) : (takePlate k s).course c = s.course c := rfl

theorem Drawing.singleDraw {k cls n : Nat} {serving : Option Nat} (hs : Drawing a k cls (n + 1) s)
    (hc : ∀ c, serving = some c → Creditable cls c s) :
    Drawing a k cls n (singleDraw k cls serving s) ∧
      ∀ c, serving = some c → Creditable cls c (singleDraw k cls serving s) := by
  cases serving with
  | none =>
    refine ⟨?_, fun c e => nomatch e⟩
    have h := Drawing.ofTally a k cls n
    have h1 := hs.creditHouse
    unfold Machine.singleDraw
    dsimp only
    refine h.hush.evaluateAll ?_
    split
    · exact h1
    · exact h.hush.refill _ (h.robYoungest _ h1)
  | some c =>
    have h := (Drawing.ofTally a k cls n).and (Creditable.ofTally cls c)
    have hc := hc c rfl
    have hs1 := (Drawing.ofTally a k cls (n + 1)).startPlating c hs
    have hc1 := (Creditable.ofTally cls c).startPlating c hc
    have lt := hs1.account.seated.course_lt hc1.used
    have h1 := hs1.creditCourse hc1
    have seat : Seated (takePlate k (startPlating c s)) := hs1.account.seated.of rfl rfl (by simp [takePlate]) rfl
    have h2 : Creditable cls c ((takePlate k (startPlating c s)).setCourse c
        { (startPlating c s).course c with plated := ((startPlating c s).course c).plated + 1 }) := by
      have e := seat.course_setCourse lt
        { (startPlating c s).course c with plated := ((startPlating c s).course c).plated + 1 } c
      rw [if_pos rfl] at e
      exact ⟨by rw [e]; exact hc1.cls, by rw [e]; exact hc1.used, by rw [e]; exact hc1.fired⟩
    suffices g : Drawing a k cls n (Machine.singleDraw k cls (some c) s) ∧
        Creditable cls c (Machine.singleDraw k cls (some c) s) from
      ⟨g.1, fun _ e => Option.some.inj e ▸ g.2⟩
    have h3 := h.settleDraw c k cls (s.freePlates k) ⟨h1, h2⟩
    unfold Machine.singleDraw
    dsimp only
    refine h.hush.evaluateAll ?_
    split
    · refine h.enterCourse _ _ ?_ ?_ h3
      · exact ⟨fun e => (by cases e), fun e => absurd e h3.2.used⟩
      · exact ⟨fun e => (by rcases e with e | e <;> cases e), fun e => absurd e h3.2.fired⟩
    · exact h3

/-- The serving course of a warmer may be credited. -/
theorem Creditable.of_serving {k cls c : Nat} (hk : (s.cab k).cls = some cls) (h : s.serving k = some c) :
    Creditable cls c s := by
  have h1 := List.find?_some h
  simp only [Bool.and_eq_true, Bool.or_eq_true, decide_eq_true_eq] at h1
  obtain ⟨hst, hcl⟩ := h1
  rw [hk] at hcl
  refine ⟨(Option.some.inj hcl).symm, fun e => ?_, fun e => ?_⟩
  · rw [e] at hst
    rcases hst with h | h <;> cases h
  · rcases hst with h | h <;> rw [h] at e <;> rcases e with e | e <;> cases e

theorem Drawing.drawPlates {k cls : Nat} : ∀ (n : Nat) {serving : Option Nat} {s : State}, Drawing a k cls n s →
    (∀ c, serving = some c → Creditable cls c s) → Drawing a k cls 0 (drawPlates k cls n serving s)
  | 0, _, _, hs, _ => hs
  | n + 1, serving, s, hs, hc => by
    obtain ⟨h1, h2⟩ := hs.singleDraw hc
    unfold Machine.drawPlates
    dsimp only
    refine drawPlates n h1 fun c e => ?_
    split at e
    · cases e
    · rename_i d
      split at e
      · exact Creditable.of_serving h1.cls e
      · cases e
        exact h2 c rfl

/-- Plates of IN_WARMER are taken to PLATED, and are in hand. -/
theorem Account.takeOutPlates {cls m : Nat} (hs : Account a Hand.empty s) (hm : m ≤ (s.ware cls).inWarmer) :
    Account a ⟨0, [], cls, m⟩ (transfer cls .inWarmer .plated m s) := by
  have other : ∀ x : Place, x ≠ .inWarmer → x ≠ .plated → ∀ c,
      ((transfer cls .inWarmer .plated m s).ware c).holds x = (s.ware c).holds x := fun x h1 h2 c =>
    transfer_holds_other _ _ _ _ _ _ _ h1 h2
  have hn : ∀ i, cls = i → m ≤ (s.ware i).holds .inWarmer := fun i e => by subst e; exact hm
  refine ⟨hs.seated.of (by simp [transfer]) rfl rfl rfl, fun hR => ?_, fun hL => ?_, fun hP => ?_⟩
  · have h := (hs.rack hR).congr (t := transfer cls .inWarmer .plated m s) (other .washing (by decide) (by decide))
      (other .held (by decide) (by decide)) (fun _ => LineTally.refl _) fun _ y hy => ⟨y, hy, rfl, rfl⟩
    exact { h with }
  · refine ⟨fun i hi => ?_, (hs.lot hL).classed⟩
    have h1 : ((transfer cls .inWarmer .plated m s).ware i).inWarmer + (if cls = i then m else 0) = (s.ware i).inWarmer :=
      transfer_source (p := .inWarmer) hs.seated hi (by decide) (hn i)
    have h2 := (hs.lot hL).inWarmer i hi
    rw [Hand.empty_of, Nat.add_zero] at h2
    simp only [transfer_cab]
    rw [← h2, ← h1]
    unfold Hand.of
    simp only [eq_comm]
  · refine ⟨fun i hi => ?_, (hs.plated hP).returned, (hs.plated hP).unfired⟩
    have h1 : ((transfer cls .inWarmer .plated m s).ware i).plated = (s.ware i).plated + (if cls = i then m else 0) :=
      transfer_dest (p := .inWarmer) (q := .plated) hs.seated hi (by decide) (hn i)
    have h2 := (hs.plated hP).sums i hi
    rw [Hand.empty_of, Nat.add_zero] at h2
    rw [h1, h2, transfer_house]
    unfold Hand.of
    simp only [transfer_course, eq_comm]

theorem Account.applyDraw (k n : Nat) (hs : Account a Hand.empty s) : Account a Hand.empty (applyDraw k n s) := by
  unfold Machine.applyDraw
  split
  · exact hs
  · extract_lets lots s1
    have hu : Unmoved s s1 := mismatch_unmoved _ _ _ _ _
    have hk : s1.cab k = s.cab k := by
      show (if _ then _ else _ : State).cab k = _
      split <;> rfl
    have h1 : Account a Hand.empty s1 := hs.unmoved hu
    split
    · exact h1
    · rename_i cls hc
      extract_lets m
      split
      · exact h1
      · have hd : Drawing a k cls m (transfer cls .inWarmer .plated m s1) := by
          refine ⟨h1.takeOutPlates (Nat.min_le_right _ _), hc, ?_⟩
          rw [transfer_cab, hk]
          exact (Nat.min_le_left _ _).trans (Nat.min_le_right _ _)
        refine (Account.ofTally a Hand.empty).hush.callRoutes
          (Drawing.drawPlates m hd fun c e => ?_).account.emptyHand
        have g : Creditable cls c s1 := Creditable.of_serving hc e
        exact ⟨g.cls, g.used, g.fired⟩

end Sys2Proof.Machine
end

section
/-! SUPPORT. The entries, reports, closes and lockouts made of these operations, and every row that is not a port command:
each keeps the three accounts. -/

namespace Sys2Proof.Machine.Account

variable {a : Aim} {s : State}

/-! ### Cabinet entries -/

theorem enterOff (k : Nat) (u : Bool) (hs : Account a Hand.empty s) : Account a Hand.empty (enterOff k u s) := by
  have h := Account.ofTally a Hand.empty
  exact unload k (cancelRoutes k (h.setCab' k _ (by rfl) (by rfl) (by rfl) (by rfl)
    (h.changeState k .off u (h.release k hs))))

theorem enterOffline (k : Nat) (hs : Account a Hand.empty s) : Account a Hand.empty (enterOffline k s) := by
  have h := Account.ofTally a Hand.empty
  exact h.setCab _ _ ⟨rfl, rfl, map_map_congr (fun _ => by rfl) _, fun y hy => ⟨y, hy, rfl, rfl⟩⟩
    ((h.changeState k .offline false (h.clearMeasured k (h.release k hs))).cancelRoutes k)

theorem cabLost (k : Nat) (hs : Account a Hand.empty s) : Account a Hand.empty (cabLost k s) := by
  unfold Machine.cabLost
  split
  · exact (Account.ofTally a Hand.empty).setCab' _ _ rfl rfl rfl rfl hs
  · exact hs.enterOffline k

theorem enterFault (k : Nat) (hs : Account a Hand.empty s) : Account a Hand.empty (enterFault k s) := by
  have h := Account.ofTally a Hand.empty
  have h1 := (h.changeState k .fault true (h.release k
    (h.setCab' k { s.cab k with wantedOn := false } rfl rfl rfl rfl hs))).cancelRoutes k
  exact h.hush.pageKitchen _ _ _ _
    (Hush.foldl (f := fun t b => Machine.setOvenFault k b t) (fun b _ ht => h.setOvenFault k b ht) _ h1)

theorem switchOff (k : Nat) (u : Bool) (hs : Account a Hand.empty s) : Account a Hand.empty (switchOff k u s) := by
  have h1 : Account a Hand.empty (s.setCab k { s.cab k with wantedOn := false }) :=
    (Account.ofTally a Hand.empty).setCab' _ _ rfl rfl rfl rfl hs
  unfold Machine.switchOff
  dsimp only
  split
  · exact h1.enterOff k u
  · exact h1

theorem applyConditions (k : Nat) (c : CondSet) (hs : Account a Hand.empty s) :
    Account a Hand.empty (applyConditions k c s) := by
  have h := Account.ofTally a Hand.empty
  unfold Machine.applyConditions
  extract_lets old s1 newFault s2 s3 x
  have h1 : Account a Hand.empty s1 := h.latch _ _ hs
  have h2 : Account a Hand.empty s2 := by
    show Account a Hand.empty (if _ then _ else _)
    split
    · exact h1.enterFault k
    · exact h1
  have h3 : Account a Hand.empty s3 := by
    show Account a Hand.empty (if _ then _ else _)
    split
    · exact h.startConfirm _ h2
    · exact h2
  split
  · exact h.setCab' _ _ rfl rfl rfl rfl h3
  · split
    · exact h.setCab' _ _ rfl rfl rfl rfl h3
    · exact h3

/-! ### Close completion and the end of a step -/

theorem unloadOffline (hs : Account a Hand.empty s) : Account a Hand.empty (unloadOffline s) :=
  Hush.forEach (fun k t ht => by
    split
    · exact ht.unload k
    · exact ht) (List.range 24) hs

theorem dayToOpening (hs : Account a Hand.empty s) : Account a Hand.empty (dayToOpening s) := by
  have h := Account.ofTally a Hand.empty
  exact h.hush.matchDiscovery (h.withPower _ (h.withDay _ hs))

theorem completeClose (hs : Account a Hand.empty s) : Account a Hand.empty (completeClose s) :=
  (Account.ofTally a Hand.empty).hush.raise _ _ _ _
    (((hs.closeLine (l := 0) (by decide)).closeLine (l := 1) (by decide)).unloadOffline.dayToOpening)

theorem closeTest (hs : Account a Hand.empty s) : Account a Hand.empty (closeTest s) := by
  have h1 := (Account.ofTally a Hand.empty).hush.calls { s.calls with close := false } hs
  unfold Machine.closeTest
  dsimp only
  split
  · exact h1.completeClose
  · exact h1

theorem settle : ∀ (n : Nat) {s : State}, Account a Hand.empty s → Account a Hand.empty (settle n s)
  | 0, _, hs => hs
  | n + 1, s, hs => by
    have h := Account.ofTally a Hand.empty
    unfold Machine.settle
    split
    · exact settle n (h.powerTry hs)
    · split
      · exact settle n hs.closeTest
      · split
        · exact settle n ((h.hush.calls _ hs).routingPass 0)
        · split
          · exact settle n ((h.hush.calls _ hs).routingPass 1)
          · exact hs

theorem finish (hs : Account a Hand.empty s) : Account a Hand.empty (finish s) := by
  have h := Account.ofTally a Hand.empty
  exact h.hush.calls _ (h.hush.refreshPolls (Hush.forEach (f := Machine.sleepSync) (fun k _ ht => h.sleepSync k ht) _
    (h.conveyorSync false 1 (h.conveyorSync false 0 (hs.settle _)))))

/-! ### Lockout -/

theorem lockoutCab (k : Nat) (hs : Account a Hand.empty s) : Account a Hand.empty (lockoutCab k s) :=
  (Account.ofTally a Hand.empty).hush.claimCab _ _ (hs.switchOff k true)

theorem enterLockout (c : Nat) (hs : Account a Hand.empty s) : Account a Hand.empty (enterLockout c s) := by
  have h := Account.ofTally a Hand.empty
  have h1 : Account a Hand.empty (lockoutDay c s) := h.hush.matchDiscovery (h.withDay _ hs)
  have h2 := h.hush.releaseAllEarmarks (h.powerLockout (h.endHold (some .holdBroken) (lockoutDay c s).hold.count h1))
  have h3 := Hush.forEach (f := Machine.lockoutCab) (fun k _ ht => lockoutCab k ht) (List.range 24) h2
  exact h.hush.raise _ _ _ _ (h.lockoutPage (h.lockoutLine 1 (h.lockoutLine 0 h3)))

/-! ### Nodes -/

theorem tellLost (b : Binding) (hs : Account a Hand.empty s) : Account a Hand.empty (tellLost b s) := by
  have h := Account.ofTally a Hand.empty
  unfold Machine.tellLost
  split
  · exact hs.cabLost _
  · exact h.lineLost _ hs
  · exact h.baseLost hs
  · exact hs

theorem cabJoined (k : Nat) (hs : Account a Hand.empty s) : Account a Hand.empty (cabJoined k s) := by
  have h := Account.ofTally a Hand.empty
  have h1 : Account a Hand.empty (s.setCab k { s.cab k with reported := false, stale := false }) :=
    h.setCab' _ _ rfl rfl rfl rfl hs
  unfold Machine.cabJoined
  dsimp only
  split
  · exact h.hush.claimCab _ _ (h.setConsumer _ _ h1)
  · split
    · exact h.requestHeat _ h1
    · exact h1.enterOff k false
  · exact h1

theorem tellJoined (b : Binding) (hs : Account a Hand.empty s) : Account a Hand.empty (tellJoined b s) := by
  have h := Account.ofTally a Hand.empty
  unfold Machine.tellJoined
  split
  · exact hs.cabJoined _
  · exact h.lineJoined _ hs
  · exact h.hush.selectPass hs
  · exact hs

theorem goLost (n : Nat) (hs : Account a Hand.empty s) : Account a Hand.empty (goLost n s) := by
  have h := Account.ofTally a Hand.empty
  exact tellLost _ (h.hush.raise _ _ _ _ (h.hush.removeNodeTx _ (h.setNode _ _ hs)))

theorem joinNode (n : Nat) (type : NodeType) (serial : Nat) (hs : Account a Hand.empty s) :
    Account a Hand.empty (joinNode n type serial s) := by
  have h := Account.ofTally a Hand.empty
  exact h.hush.restartPoll _ (h.hush.queuePoll _ (h.setNode _ _ (tellJoined _
    (h.bindNode _ (h.hush.raise _ _ _ _ (h.setNode _ _ hs))))))

theorem applyIdent (n : Nat) (type : NodeType) (serial : Nat) (hs : Account a Hand.empty s) :
    Account a Hand.empty (applyIdent n type serial s) := by
  unfold Machine.applyIdent
  dsimp only
  split
  · split
    · exact (Account.ofTally a Hand.empty).answered _ hs
    · exact (hs.goLost n).joinNode n type serial
  · exact hs.joinNode n type serial

/-! ### Reports -/

theorem applyCounters (n k : Nat) (c : Option (Nat × Nat)) (hs : Account a Hand.empty s) :
    Account a Hand.empty (applyCounters n k c s) := by
  unfold Machine.applyCounters
  split
  · exact hs
  · exact (((Account.ofTally a Hand.empty).setNode _ _ hs).applyLoad _ _).applyDraw _ _

theorem applyCabinetReport (n k : Nat) (r : CabinetRep) (hs : Account a Hand.empty s) :
    Account a Hand.empty (applyCabinetReport n k r s) := by
  have h := Account.ofTally a Hand.empty
  unfold Machine.applyCabinetReport
  extract_lets running src s1 s2 s3 s4 s5
  have h1 : Account a Hand.empty s1 := h.setCab' _ _ rfl rfl rfl rfl hs
  have h3 : Account a Hand.empty s3 :=
    h.confirmLevel _ _ _ (((h.bandTest _ h1).applyCounters n k r.counters).applyConditions k r.conds)
  have h4 : Account a Hand.empty s4 := by
    show Account a Hand.empty (if _ then _ else _)
    split
    · exact h3
    · exact h.judgeReport _ h3
  have h5 : Account a Hand.empty s5 := by
    show Account a Hand.empty (if _ then _ else _)
    split
    · exact h.setCab' _ _ rfl rfl rfl rfl h4
    · exact h4
  exact h.powerReport _ _ (h.powerTry h5)

theorem applyWasherReport (l : Nat) (r : WasherRep) (hs : Account a Hand.empty s) :
    Account a Hand.empty (applyWasherReport l r s) := by
  have h := Account.ofTally a Hand.empty
  exact h.conveyorSync _ _ (h.powerReport _ _ (h.powerTry (h.setRunning _ _ (h.conveyorSync _ _
    ((h.applyRinse l r.rinse hs).applyEvents l r.events)))))

/-! ### Answers -/

theorem applyBody (f : InFlight) (n : Nat) (b : RespBody) (hs : Account a Hand.empty s) :
    Account a Hand.empty (applyBody f n b s) := by
  have h := Account.ofTally a Hand.empty
  unfold Machine.applyBody
  split
  · exact hs.applyIdent _ _ _
  · exact hs.applyCabinetReport _ _ _
  · exact hs.applyWasherReport _ _
  · exact h.applyBaseReport _ hs
  · split
    · split
      · exact hs
      · exact h.answerDeliver _ _ hs
    · exact hs
  · exact hs

theorem applyResponse (f : InFlight) (n : Nat) (b : RespBody) (u : Bool) (hs : Account a Hand.empty s) :
    Account a Hand.empty (applyResponse f n b u s) := by
  have h := Account.ofTally a Hand.empty
  unfold Machine.applyResponse
  extract_lets ident s1 s2 s3 s4
  split
  · exact hs
  · have h1 : Account a Hand.empty s1 := by
      show Account a Hand.empty (if _ then _ else _)
      split
      · exact hs
      · exact h.answered _ hs
    have h2 : Account a Hand.empty s2 := h.reconcile _ _ (h1.applyBody f n b)
    have h3 : Account a Hand.empty s3 := by
      show Account a Hand.empty (if _ then _ else _)
      split
      · exact h.setFetchAhead _ h2
      · exact h2
    split
    · refine h.hush.restartPoll _ (h.hush.refreshPoll _ ?_)
      show Account a Hand.empty (if _ then _ else _)
      split
      · exact h3
      · exact h.setNode _ _ h3
    · exact h3

theorem receive (n : Nat) (b : RespBody) (u : Bool) (hs : Account a Hand.empty s) :
    Account a Hand.empty (receive n b u s) := by
  have h := Account.ofTally a Hand.empty
  unfold Machine.receive
  split
  · exact hs
  · refine finish ?_
    split
    · exact (h.endTx hs).applyResponse _ _ _ _
    · exact h.failAttempt _ hs

theorem receiveBytes (l : List Byte) (hs : Account a Hand.empty s) : Account a Hand.empty (receiveBytes l s) := by
  unfold Machine.receiveBytes
  split
  · exact hs
  · split
    · exact ((Account.ofTally a Hand.empty).failAttempt _ hs).finish
    · exact hs.receive _ _ _

theorem responseTimeout (hs : Account a Hand.empty s) : Account a Hand.empty (responseTimeout s) := by
  unfold Machine.responseTimeout
  split
  · exact hs
  · exact ((Account.ofTally a Hand.empty).failAttempt _ hs).finish

end Sys2Proof.Machine.Account

/-! ### Rows that move nothing -/

namespace Sys2Proof.Machine.OfTally

variable {P : State → Prop} {s : State} (h : OfTally P)
include h

theorem transactionSend (hs : P s) : P (transactionSend s) := by
  unfold Machine.transactionSend
  split
  · exact h.sendNext hs
  · exact hs

theorem busGuardEnd (hs : P s) : P (busGuardEnd s) := by
  have h1 : P (s.withBus { s.bus with guard := .free }) := h.withBus _ hs
  unfold Machine.busGuardEnd
  split
  · dsimp only
    split
    · exact h1
    · exact h.transmit _ h1
  · exact hs

theorem abandonGuardEnd (hs : P s) : P (abandonGuardEnd s) := by
  have h1 : P (s.withBus { s.bus with guard := .free }) := h.withBus _ hs
  unfold Machine.abandonGuardEnd
  split
  · dsimp only
    split
    · exact h1
    · exact h.sendNext h1
  · exact hs

theorem pollTimerExpiry (n : Nat) (hs : P s) : P (pollTimerExpiry n s) := by
  unfold Machine.pollTimerExpiry
  split
  · exact hs
  · rename_i e _
    have h1 : P (Machine.reachMs e (s.setNode n { s.node n with pollEnd := none })) := h.reachMs _ (h.setNode _ _ hs)
    dsimp only
    split
    · exact h1
    · exact h.hush.queuePoll _ h1

theorem discoveryTimerExpiry (hs : P s) : P (discoveryTimerExpiry s) := by
  have h1 : P (s.withBus { s.bus with discTimer := some Config.discoverySec }) := h.withBus _ hs
  unfold Machine.discoveryTimerExpiry
  split
  · dsimp only
    split
    · exact h.discoveryStep h1
    · exact h1
  · exact hs

theorem openingDiscovery (hs : P s) : P (openingDiscovery s) := by
  unfold Machine.openingDiscovery
  split
  · exact h.discoveryStep hs
  · exact hs

theorem holdTimerExpiry (hs : P s) : P (holdTimerExpiry s) := by
  unfold Machine.holdTimerExpiry
  split
  · exact hs
  · exact h.endHold _ _ (h.reachMs _ hs)

theorem serviceSecond (hs : P s) : P (serviceSecond s) := by
  have h1 : P ((clockSecond s).withCabs ((clockSecond s).cabs.map Cab.second)) :=
    h.mapCabs Cab.second (fun _ => CabTally.of rfl rfl rfl fun _ hy => hy) rfl (h.withDay _ hs)
  have h2 := h.mapLines Line.second (fun x => ⟨rfl, by
    unfold Line.second
    dsimp only
    split
    · exact map_map_congr (fun _ => by rfl) _
    · rfl, rfl⟩) h1
  exact h.withPaging _ (h.withBus _ (h.withSettle _ h2))

theorem resendDue (g : Page) (hs : P s) : P (resendDue g s) := by
  unfold Machine.resendDue
  refine h.hush.selectPass ?_
  split
  · exact h.hush.updPage _ _ hs
  · exact h.hush.endPage _ _ hs

end Sys2Proof.Machine.OfTally

namespace Sys2Proof.Machine.Account

variable {a : Aim} {s t : State}

/-! ### Timers -/

theorem silenceTimerExpiry (n : Nat) (hs : Account a Hand.empty s) : Account a Hand.empty (silenceTimerExpiry n s) := by
  unfold Machine.silenceTimerExpiry
  split
  · exact (hs.goLost n).finish
  · exact hs

theorem settleTimerExpiry (hs : Account a Hand.empty s) : Account a Hand.empty (settleTimerExpiry s) := by
  have h := Account.ofTally a Hand.empty
  unfold Machine.settleTimerExpiry
  split
  · exact finish (h.powerTry (h.hush.callRestore (h.shedCheck (h.withSettle _ hs))))
  · exact hs

theorem confirmTimerExpiry (k : Nat) (hs : Account a Hand.empty s) : Account a Hand.empty (confirmTimerExpiry k s) := by
  unfold Machine.confirmTimerExpiry
  split
  · exact hs
  · split
    · exact hs
    · exact (((Account.ofTally a Hand.empty).reachMs _ hs).enterLockout k).finish

theorem plannedFire (c : Nat) (hs : Account a Hand.empty s) : Account a Hand.empty (plannedFire c s) := by
  have h := Account.ofTally a Hand.empty
  unfold Machine.plannedFire
  dsimp only
  split
  · exact hs
  · split
    · exact hs
    · split
      · rename_i hf
        simp only [Bool.and_eq_true, decide_eq_true_eq] at hf
        exact (hs.fireCourse hf.1.1).finish
      · exact h.hush.raise _ _ _ _ (h.setCourse _ _ ⟨rfl, rfl, rfl, Iff.rfl, Iff.rfl⟩ hs)

theorem cookTimeComplete (c : Nat) (hs : Account a Hand.empty s) : Account a Hand.empty (cookTimeComplete c s) := by
  have h := Account.ofTally a Hand.empty
  unfold Machine.cookTimeComplete
  split
  · exact hs
  · exact finish (h.hush.evaluateAll (h.hush.raise _ _ _ _ (h.setCab' _ _ rfl rfl rfl rfl hs)))

theorem overHoldLimit (c : Nat) (hs : Account a Hand.empty s) : Account a Hand.empty (overHoldLimit c s) := by
  have h := Account.ofTally a Hand.empty
  unfold Machine.overHoldLimit
  split
  · exact finish (h.hush.pageKitchen _ _ _ _ (h.setCourse _ _ ⟨rfl, rfl, rfl, Iff.rfl, Iff.rfl⟩ hs))
  · exact hs

theorem lotWarm (k : Nat) (hs : Account a Hand.empty s) : Account a Hand.empty (lotWarm k s) := by
  unfold Machine.lotWarm
  split
  · exact finish ((Account.ofTally a Hand.empty).hush.evaluateAll hs)
  · exact hs

theorem outOfBandExpiry (k : Nat) (hs : Account a Hand.empty s) : Account a Hand.empty (outOfBandExpiry k s) := by
  have h := Account.ofTally a Hand.empty
  unfold Machine.outOfBandExpiry
  dsimp only
  split
  · exact finish (h.hush.evaluateAll (h.setCab _ _
      ⟨rfl, rfl, map_map_congr (fun _ => by rfl) _, fun y hy => ⟨y, hy, rfl, rfl⟩⟩ hs))
  · exact hs

theorem sleepTimerExpiry (k : Nat) (hs : Account a Hand.empty s) : Account a Hand.empty (sleepTimerExpiry k s) := by
  unfold Machine.sleepTimerExpiry
  dsimp only
  split
  · exact finish ((Account.ofTally a Hand.empty).enterSleep _ hs)
  · exact hs

theorem doorTimerExpiry (k : Nat) (hs : Account a Hand.empty s) : Account a Hand.empty (doorTimerExpiry k s) := by
  have h := Account.ofTally a Hand.empty
  unfold Machine.doorTimerExpiry
  dsimp only
  split
  · exact finish (h.hush.pageKitchen _ _ _ _ (h.setCab' _ _ rfl rfl rfl rfl hs))
  · exact hs

theorem transitExpiry (l tag : Nat) (hs : Account a Hand.empty s) : Account a Hand.empty (transitExpiry l tag s) := by
  unfold Machine.transitExpiry
  split
  · exact hs
  · rename_i r hr
    split
    · exact (hs.transitHold (List.mem_of_find?_eq_some hr)).finish
    · exact hs

theorem routeTimeoutRow (l tag : Nat) (hs : Account a Hand.empty s) : Account a Hand.empty (Machine.routeTimeout l tag s) := by
  unfold Machine.routeTimeout
  split
  · exact hs
  · rename_i he
    exact (hs.routeTimeout he).finish

theorem rushTimerEnd (n : Nat) (hs : Account a Hand.empty s) : Account a Hand.empty (rushTimerEnd n s) := by
  have h := Account.ofTally a Hand.empty
  unfold Machine.rushTimerEnd
  split
  · exact finish (h.hush.selectPass (h.hush.setRush _ _ hs))
  · exact hs

theorem rateWindowClose (n : Nat) (hs : Account a Hand.empty s) : Account a Hand.empty (rateWindowClose n s) := by
  have h := Account.ofTally a Hand.empty
  unfold Machine.rateWindowClose
  split
  · exact finish (h.hush.selectPass (h.setRate _ _ hs))
  · exact hs

theorem resendTimerExpiry (id : Nat) (hs : Account a Hand.empty s) : Account a Hand.empty (resendTimerExpiry id s) := by
  unfold Machine.resendTimerExpiry
  split
  · exact hs
  · split
    · exact finish ((Account.ofTally a Hand.empty).resendDue _ hs)
    · exact hs

theorem pageLifetimeExpiry (id : Nat) (hs : Account a Hand.empty s) : Account a Hand.empty (pageLifetimeExpiry id s) := by
  have h := Account.ofTally a Hand.empty
  unfold Machine.pageLifetimeExpiry
  split
  · exact hs
  · split
    · exact finish (h.hush.selectPass (h.hush.endPage _ _ hs))
    · exact hs

/-! ### Resets -/

/-- The power-on state has R3. -/
theorem powerOn (a : Aim) (u : Bool) (s : State) : Account a Hand.empty (powerOnState u s) := by
  have seat := sized_reset.seated
  have h : Account a Hand.empty State.reset :=
    ⟨seat, fun _ => (rackBut_empty seat).2 rackLaw_reset, fun _ => (lotBut_empty seat).2 lotLaw_reset,
      fun _ => (platedBut_empty seat).2 platedLaw_reset⟩
  exact (Account.ofTally a Hand.empty).frame h rfl rfl rfl rfl

/-! ### Every row that is not a port command -/

theorem event {i : Instr} (hi : requestPort i = none) (hn : ∀ q l, i ≠ .undefinedCommandCode q l)
    (hs : Account a Hand.empty s) (he : exec i s = .next t) : Account a Hand.empty t := by
  have h := Account.ofTally a Hand.empty
  cases i <;> simp only [requestPort, reduceCtorEq] at hi
  case powerOn => cases he; exact powerOn a _ s
  case resetN => cases he; exact powerOn a _ s
  case resetNRelease =>
    injection he with he
    subst he
    split
    · exact powerOn a _ s
    · exact hs
  case undefinedCommandCode q l => exact absurd rfl (hn q l)
  case fetch q n =>
    refine live_keeps he hs ?_
    obtain ⟨x, _, e⟩ := fetchReply_port q n s
    rw [e]
    exact h.setPort _ _ hs
  case closeCompletion =>
    exact live_keeps (f := fun s => Machine.finish (Machine.closeTest (callClose s))) he hs
      (h.hush.callClose hs).closeTest.finish
  case identReply => exact live_keeps he hs (hs.receive _ _ _)
  case cabinetReport => exact live_keeps he hs (hs.receive _ _ _)
  case washerReport => exact live_keeps he hs (hs.receive _ _ _)
  case baseReport => exact live_keeps he hs (hs.receive _ _ _)
  case setAck => exact live_keeps he hs (hs.receive _ _ _)
  case deliverAck => exact live_keeps he hs (hs.receive _ _ _)
  case invalidResponse => exact live_keeps he hs (hs.receiveBytes _)
  case responseTimeout => exact live_keeps he hs hs.responseTimeout
  case transactionSend => exact live_keeps he hs (h.transactionSend hs)
  case busGuardEnd => exact live_keeps he hs (h.busGuardEnd hs)
  case abandonGuardEnd => exact live_keeps he hs (h.abandonGuardEnd hs)
  case pollTimerExpiry => exact live_keeps he hs (h.pollTimerExpiry _ hs)
  case discoveryTimerExpiry => exact live_keeps he hs (h.discoveryTimerExpiry hs)
  case discoveryStep => exact live_keeps he hs (h.openingDiscovery hs)
  case silenceTimerExpiry => exact live_keeps he hs (hs.silenceTimerExpiry _)
  case admission => exact live_keeps (f := fun s => Machine.finish (Machine.admission s)) he hs (finish (h.admission hs))
  case settleTimerExpiry => exact live_keeps he hs hs.settleTimerExpiry
  case holdTimerExpiry => exact live_keeps he hs (h.holdTimerExpiry hs)
  case confirmTimerExpiry => exact live_keeps he hs (hs.confirmTimerExpiry _)
  case serviceSecond => exact live_keeps he hs (h.serviceSecond hs)
  case plannedFireTimeReached => exact live_keeps he hs (hs.plannedFire _)
  case cookTimeComplete => exact live_keeps he hs (hs.cookTimeComplete _)
  case overHoldLimit => exact live_keeps he hs (hs.overHoldLimit _)
  case lotWarm => exact live_keeps he hs (hs.lotWarm _)
  case outOfBandExpiry => exact live_keeps he hs (hs.outOfBandExpiry _)
  case sleepTimerExpiry => exact live_keeps he hs (hs.sleepTimerExpiry _)
  case doorTimerExpiry => exact live_keeps he hs (hs.doorTimerExpiry _)
  case transitLimit => exact live_keeps he hs (hs.transitExpiry _ _)
  case routeTimeout => exact live_keeps he hs (hs.routeTimeoutRow _ _)
  case presenceAgeExpiry => exact live_keeps he hs (h.agePagers _ hs)
  case rushTimerEnd => exact live_keeps he hs (hs.rushTimerEnd _)
  case rateWindowClose => exact live_keeps he hs (hs.rateWindowClose _)
  case resendTimerExpiry => exact live_keeps he hs (hs.resendTimerExpiry _)
  case pageLifetimeExpiry => exact live_keeps he hs (hs.pageLifetimeExpiry _)
  case handOff =>
    exact live_keeps (f := fun s => Machine.finish (Machine.selectUpTo 1 s)) he hs (finish (h.hush.selectUpTo 1 hs))

end Sys2Proof.Machine.Account
end

section
/-! SUPPORT. The body of every port command keeps the three accounts. -/

namespace Sys2Proof.Machine.Account

variable {a : Aim} {s t : State}

/-! ### Ware -/

/-- A class changes what each account asks of it. -/
theorem setWare {c : Nat} {x : Ware} (hs : Account a Hand.empty s)
    (rack : a.rack → c < 8 → x.washing = (s.ware c).washing ∧ x.held = (s.ware c).held)
    (lot : a.lot → c < 8 → x.inWarmer = (s.ware c).inWarmer)
    (plated : a.plated → c < 8 → x.plated + (s.ware c).house = (s.ware c).plated + x.house) :
    Account a Hand.empty (s.setWare c x) := by
  have ware : ∀ j, (s.setWare c x).ware j = if j = c ∧ c < 8 then x else s.ware j := fun j => by
    rw [State.ware_setWare_ite, hs.seated.wares]
  have same : ∀ f : Ware → Nat, (c < 8 → f x = f (s.ware c)) → ∀ j, f ((s.setWare c x).ware j) = f (s.ware j) :=
    fun f h j => by
      rw [ware]
      split
      · rename_i e
        rw [e.1, h e.2]
      · rfl
  refine ⟨hs.seated.of (by simp) rfl rfl rfl, fun hR => ?_, fun hL => ?_, fun hP => ?_⟩
  · exact (hs.rack hR).congr (same _ fun h => (rack hR h).1) (same _ fun h => (rack hR h).2) (fun _ => LineTally.refl _)
      fun _ y hy => ⟨y, hy, rfl, rfl⟩
  · exact (hs.lot hL).congr (same _ (lot hL)) fun _ => ⟨rfl, rfl, rfl⟩
  · refine ⟨fun i hi => ?_, (hs.plated hP).returned, (hs.plated hP).unfired⟩
    have h := (hs.plated hP).sums i hi
    show ((s.setWare c x).ware i).plated = ((s.setWare c x).ware i).house + (∑ j ∈ Finset.range 32, (s.course j).out i) + _
    rw [ware]
    split
    · rename_i e
      have := plated hP e.2
      rw [e.1] at h
      rw [e.1]
      omega
    · exact h

theorem classSet (c d : Nat) (hs : Account a Hand.empty s) : Account a Hand.empty (classSetBody c d s).state :=
  checked_keeps hs fun _ => hs.setWare (fun _ _ => ⟨rfl, rfl⟩) (fun _ _ => rfl) fun _ _ => rfl

theorem wareAdd (c n : Nat) (hs : Account a Hand.empty s) : Account a Hand.empty (wareAddBody c n s).state :=
  checked_keeps hs fun _ => hs.setWare (fun _ _ => ⟨rfl, rfl⟩) (fun _ _ => rfl) fun _ _ => rfl

theorem wareMove (c d n : Nat) (hs : Account a Hand.empty s) : Account a Hand.empty (wareMoveBody c d n s).state :=
  checked_keeps hs fun _ => by
    show Account a Hand.empty (if _ then _ else _)
    split
    · exact hs.setWare (fun _ _ => ⟨rfl, rfl⟩) (fun _ _ => rfl) fun _ _ => rfl
    · exact hs.setWare (fun _ _ => ⟨rfl, rfl⟩) (fun _ _ => rfl) fun _ _ => rfl

theorem platesOf_unused {cls : Nat} {l : List Rack} (h : ∀ r ∈ l, r.cls ≠ cls) : platesOf cls l = 0 := by
  unfold platesOf
  rw [List.filter_eq_nil_iff.2 fun r hr => by simpa using h r hr]
  rfl

theorem heldOf_unused {cls : Nat} {l : List Rack} (h : ∀ r ∈ l, r.cls ≠ cls) : heldOf cls l = 0 := by
  unfold heldOf
  rw [List.filter_eq_nil_iff.2 fun r hr => by simpa using fun e => absurd e (h r hr)]
  rfl

/-- A class with no record in use has no plate in them. -/
theorem unused {cls : Nat} (hs : Account a Hand.empty s) (hu : s.classInUse cls = false) (hc : cls < 8) :
    (a.rack → (s.ware cls).washing = 0 ∧ (s.ware cls).held = 0) ∧ (a.lot → (s.ware cls).inWarmer = 0) ∧
      (a.plated → (s.ware cls).plated = (s.ware cls).house) := by
  have free := mt (classInUse_iff s cls).2 (by rw [hu]; exact Bool.false_ne_true)
  push Not at free
  obtain ⟨racks, lots, courses⟩ := free
  have line : ∀ l, ∀ r ∈ (s.line l).racks, r.cls ≠ cls := (forall_getD (d := Line.initial)
    (q := fun l => ∀ r ∈ l.racks, r.cls ≠ cls) fun r hr => by cases hr).2 racks
  have work : ∀ l, platesOf cls (s.line l).atWork = 0 := fun l =>
    platesOf_unused fun r hr => line l r (List.mem_append_left _ hr)
  have exits : ∀ l, heldOf cls (s.line l).exits = 0 := fun l =>
    heldOf_unused fun r hr => line l r (List.mem_append_right _ hr)
  have cab : ∀ k, (s.cab k).lotsOf cls = 0 := (forall_getD (d := Cab.initial) (q := fun c => c.lotsOf cls = 0) rfl).2
    fun c hc => by
      unfold Cab.lotsOf
      split
      · rename_i h
        unfold Cab.lotTotal
        rw [lots c hc h.1 h.2]
        rfl
      · rfl
  have course : ∀ c, (s.course c).out cls = 0 := (forall_getD (d := Course.initial) (q := fun c => c.out cls = 0) rfl).2
    fun c hc => if_neg fun e => courses c hc e.1 e.2
  refine ⟨fun hR => ⟨?_, ?_⟩, fun hL => ?_, fun hP => ?_⟩
  · rw [(hs.rack hR).washing cls hc, work, work]
    rfl
  · rw [(hs.rack hR).held cls hc, exits, exits]
  · have h := (hs.lot hL).inWarmer cls hc
    rw [Finset.sum_eq_zero fun k _ => cab k] at h
    omega
  · rw [(hs.plated hP).sums cls hc, Finset.sum_eq_zero fun c _ => course c, Hand.empty_of,
      Nat.add_zero, Nat.add_zero]

theorem wareStock (c n : Nat) (hs : Account a Hand.empty s) : Account a Hand.empty (wareStockBody c n s).state :=
  checked_keeps hs fun e => by
    obtain ⟨_, h2⟩ := firstFailure_none.mp e
    have hu : s.classInUse c = false := by
      have := (firstFailure_none.mp h2).1
      simp only [Bool.and_eq_true, Bool.not_eq_true'] at this
      exact this.2
    refine hs.setWare (fun hR h => ?_) (fun hL h => ?_) fun hP h => ?_
    · obtain ⟨h1, h2⟩ := (hs.unused hu h).1 hR
      exact ⟨h1.symm, h2.symm⟩
    · exact ((hs.unused hu h).2.1 hL).symm
    · show 0 + _ = _ + 0
      rw [(hs.unused hu h).2.2 hP, Nat.zero_add, Nat.add_zero]

theorem subHouse_setWare {c n : Nat} (x : Ware) (hs : Seated s) :
    subHouse c n (s.setWare c x) = s.setWare c { x with house := if c < 8 then x.house - n else (s.ware c).house - n } := by
  unfold subHouse
  dsimp only
  by_cases hc : c < 8
  · rw [State.ware_setWare_ite, if_pos ⟨rfl, by rw [hs.wares]; exact hc⟩, setWare_setWare, if_pos hc]
  · have : ∀ y : Ware, s.setWare c y = s := fun y => by
      unfold State.setWare State.withWares
      rw [List.set_eq_of_length_le (by rw [hs.wares]; omega)]
    rw [this, this, this]

/-- House plated plates leave PLATED. -/
theorem houseLeaves {c n : Nat} {x : Ware} (hs : Account a Hand.empty s) (hn : n ≤ (s.ware c).house)
    (h1 : x.washing = (s.ware c).washing) (h2 : x.held = (s.ware c).held) (h3 : x.inWarmer = (s.ware c).inWarmer)
    (h4 : n ≤ (s.ware c).plated → x.plated = (s.ware c).plated - n) (h5 : x.house = (s.ware c).house) :
    Account a Hand.empty (subHouse c n (s.setWare c x)) := by
  rw [subHouse_setWare x hs.seated]
  refine hs.setWare (fun _ _ => ⟨h1, h2⟩) (fun _ _ => h3) fun hP hc => ?_
  have h := (hs.plated hP).sums c hc
  have h6 := h4 (by omega)
  show x.plated + _ = _ + (if c < 8 then x.house - n else _)
  rw [if_pos hc]
  omega

theorem wareWriteOff (c q n : Nat) (hs : Account a Hand.empty s) : Account a Hand.empty (wareWriteOffBody c q n s).state :=
  checked_keeps hs fun e => by
    have h3 := (firstFailure_none.mp (firstFailure_none.mp (firstFailure_none.mp e).2).2).1
    dsimp only
    split
    · exact hs.setWare (fun _ _ => ⟨rfl, rfl⟩) (fun _ _ => rfl) fun _ _ => rfl
    · exact hs.setWare (fun _ _ => ⟨rfl, rfl⟩) (fun _ _ => rfl) fun _ _ => rfl
    · have hn : n ≤ (s.ware c).house := by
        unfold State.writeOffLimit at h3
        split at h3
        · contradiction
        · contradiction
        · exact of_decide_eq_true h3
      refine hs.houseLeaves hn rfl rfl rfl (fun h => ?_) rfl
      show (s.ware c).plated - min n (s.ware c).plated = _
      rw [Nat.min_eq_left h]

theorem wareReturn (target x n : Nat) (hs : Account a Hand.empty s) :
    Account a Hand.empty (wareReturnBody target x n s).state :=
  checked_keeps hs fun e => by
    obtain ⟨_, e⟩ := firstFailure_none.mp e
    obtain ⟨h2, e⟩ := firstFailure_none.mp e
    have h4 := of_decide_eq_true (firstFailure_none.mp (firstFailure_none.mp e).2).1
    unfold State.outstanding at h4
    show Account a Hand.empty (if _ then _ else _)
    split
    · rename_i ht
      rw [if_pos ht] at h4
      have hu : (s.course x).state ≠ .empty := by simpa [ht] using h2
      refine hs.courseMove (PlatesOnly.setWare _ _ _ rfl rfl rfl) rfl (fun hP => ?_) (fun hP h => ?_)
        (fun hP hx i hi => ?_) (fun _ h => ?_)
      · have := (hs.plated hP).returned x
        dsimp only
        omega
      · exact (hs.plated hP).unfired x h
      · have le := (hs.plated hP).out_le hx hi
        show ((transfer (s.course x).cls .plated .soiled n s).ware i).plated + _ + _ =
          _ + ((transfer (s.course x).cls .plated .soiled n s).ware i).house + _
        rw [transfer_house]
        by_cases e : (s.course x).cls = i
        · rw [Course.out_of hu e] at le
          have h1 : ((transfer (s.course x).cls .plated .soiled n s).ware i).plated +
              (if (s.course x).cls = i then n else 0) = (s.ware i).plated :=
            transfer_source (p := .plated) (q := .soiled) hs.seated hi (by decide) fun _ => h4.trans le
          rw [if_pos e] at h1
          rw [Course.out_of hu e, Course.out_of (by exact hu) (by exact e)]
          dsimp only
          omega
        · have h1 : ((transfer (s.course x).cls .plated .soiled n s).ware i).plated +
              (if (s.course x).cls = i then n else 0) = (s.ware i).plated :=
            transfer_source (p := .plated) (q := .soiled) hs.seated hi (by decide) fun h => absurd h e
          rw [if_neg e] at h1
          rw [Course.out_other e, Course.out_other (by exact e)]
          omega
      · have := hs.seated.course_lt hu
        omega
    · rename_i ht
      rw [if_neg ht] at h4
      refine hs.houseLeaves h4 rfl rfl rfl (fun h => ?_) rfl
      show (s.ware x).plated - min n (s.ware x).plated = _
      rw [Nat.min_eq_left h]

/-! ### The ports -/

theorem permitSet (x y : Nat) (hs : Account a Hand.empty s) : Account a Hand.empty (permitSetBody x y s).state := by
  have h := Account.ofTally a Hand.empty
  unfold permitSetBody
  split
  · exact hs
  · rename_i q _
    refine checked_keeps hs fun _ => ?_
    have h1 : Account a Hand.empty (s.setPort q { s.port q with perms := y }) := h.setPort _ _ hs
    show Account a Hand.empty (if _ then _ else _)
    split
    · exact h.hush.raiseTo _ _ _ _ _ (h.withDay _ (h.hush.freeCount _ (h.hush.freeCount _ h1)))
    · exact h1

theorem portReset (q : Port) (hs : Account a Hand.empty s) : Account a Hand.empty (portResetBody q s).state := by
  have h := Account.ofTally a Hand.empty
  unfold portResetBody
  extract_lets s1
  refine h.setPort _ _ ?_
  show Account a Hand.empty (if _ then _ else _)
  split
  · exact h.endHold _ _ hs
  · exact hs

theorem holdBegin (q : Port) (hs : Account a Hand.empty s) : Account a Hand.empty (holdBeginBody q s).state := by
  unfold holdBeginBody
  split
  · exact (Account.ofTally a Hand.empty).withHold _ hs
  · split <;> exact hs

theorem holdEnd (q : Port) (hs : Account a Hand.empty s) : Account a Hand.empty (holdEndBody q s).state := by
  unfold holdEndBody
  split
  · exact hs
  · split
    · exact (Account.ofTally a Hand.empty).endHold _ _ hs
    · exact hs

/-! ### The day -/

theorem emptyCourses (l : List Nat) (hs : Account a Hand.empty s) : Account a Hand.empty
    (forEach l (fun c t => if (t.course c).state = .empty then t else Machine.emptyCourse c t) s) :=
  Hush.forEach (fun c t ht => by
    split
    · exact ht
    · rename_i h
      exact ht.emptyCourse h) l hs

theorem openCourses (hs : Account a Hand.empty s) : Account a Hand.empty (openCourses s) := by
  have h := Account.ofTally a Hand.empty
  have frame : ∀ (t : State) (x : Fire) (y : List Fn), Account a Hand.empty t →
      Account a Hand.empty ((t.withFire x).withFns y) := fun t x y ht => h.frame ht rfl rfl rfl rfl
  unfold Machine.openCourses
  dsimp only
  exact frame _ _ _ (h.hush.earmarks _ (hs.emptyCourses (List.range 32)))

theorem openRecords {P : State → Prop} (h : OfTally P) (hs : P s) : P (openRecords s) :=
  h.mapLines Line.openDay (fun _ => ⟨rfl, map_map_congr (fun _ => by rfl) _, rfl⟩)
    (h.mapCabs Cab.openDay (fun _ => CabTally.of rfl rfl rfl fun _ hy => hy) rfl (h.withBus _ (h.withPower _ hs)))

theorem pagingOpen {P : State → Prop} (h : OfTally P) (hs : P s) : P (pagingOpen s) :=
  h.withPaging _ (h.hush.removeDelivers hs)

theorem dayToService {P : State → Prop} (h : OfTally P) (hs : P s) : P (dayToService s) :=
  h.hush.matchDiscovery (h.withDay _ hs)

theorem openRequests {P : State → Prop} (h : OfTally P) (hs : P s) : P (openRequests s) :=
  h.boosterSync 1 (h.boosterSync 0 (Hush.forEach (f := switchOn) (fun k _ ht => h.switchOn k ht) (List.range 24) hs))

theorem openDay (hs : Account a Hand.empty s) : Account a Hand.empty (openDay s) := by
  have h := Account.ofTally a Hand.empty
  have h0 : Account a Hand.empty (zeroClock s) := h.withDay _ hs
  exact h.hush.raise _ _ _ _ (h.powerTry (openRequests h (dayToService h (openRecords h (pagingOpen h h0.openCourses)))))

theorem dayOpen (hs : Account a Hand.empty s) : Account a Hand.empty (dayOpenBody s).state :=
  checked_keeps hs fun _ => okWith_keeps (finish hs.openDay)

/-- The courses that are not EMPTY are cancelled one by one. -/
theorem cancelCourses : ∀ (l : List Nat) {s : State}, Account a Hand.empty s → (∀ c ∈ l, (s.course c).state ≠ .empty) →
    Account a Hand.empty (forEach l Machine.cancelCourse s)
  | [], _, hs, _ => hs
  | c :: l, _, hs, hu => cancelCourses l (hs.cancelCourse (hu c List.mem_cons_self)) fun i hi =>
      cancelCourse_used c (hu i (List.mem_cons_of_mem _ hi))

theorem mem_unfired {c : Nat} (h : c ∈ s.unfired) : (s.course c).state = .planned ∨ (s.course c).state = .armed := by
  have h := (mem_positions (d := Course.initial)).1 h
  rw [Bool.or_eq_true, decide_eq_true_eq, decide_eq_true_eq] at h
  exact h.2

theorem closeDay (hs : Account a Hand.empty s) : Account a Hand.empty (closeDay s) := by
  have h := Account.ofTally a Hand.empty
  have h1 := cancelCourses s.unfired hs fun c hc e => by
    rcases mem_unfired hc with h | h <;> rw [e] at h <;> cases h
  have h2 := Hush.forEach (f := fun k t => Machine.switchOff k false t) (fun k _ ht => switchOff k false ht) (List.range 24) h1
  exact h.hush.callClose (h.hush.raise _ _ _ _ (h.withDay _ (h.powerTry
    ((h2.removeStaged (l := 0) (by decide)).removeStaged (l := 1) (by decide)))))

theorem dayClose (hs : Account a Hand.empty s) : Account a Hand.empty (dayCloseBody s).state :=
  checked_keeps hs fun _ => okWith_keeps (finish hs.closeDay)

theorem clearLockoutLine {P : State → Prop} (h : OfTally P) (l : Nat) (hs : P s) : P (clearLockoutLine l s) :=
  h.boosterSync _ (h.withStops _ _ hs)

theorem lockoutClear (hs : Account a Hand.empty s) : Account a Hand.empty (lockoutClearBody s).state :=
  checked_keeps hs fun _ => by
    have h := Account.ofTally a Hand.empty
    exact okWith_keeps (finish (h.hush.callClose (h.hush.raise _ _ _ _ (h.hush.matchDiscovery
      (clearLockoutLine h _ (clearLockoutLine h _ (h.withDay _ hs)))))))

theorem deviceReset (hs : Account a Hand.empty s) : Account a Hand.empty (deviceResetBody s).state :=
  checked_keeps hs fun _ => powerOn a _ s

/-! ### Functions and courses -/

theorem functionSet (f x m q r : Nat) (hs : Account a Hand.empty s) :
    Account a Hand.empty (functionSetBody f x m q r s).state := by
  have h := Account.ofTally a Hand.empty
  have h1 : ∀ y, Account a Hand.empty (s.setFn f y) := fun y => h.frame hs rfl rfl rfl rfl
  unfold functionSetBody
  split
  · exact hs
  · refine checked_keeps hs fun _ => ?_
    show Account a Hand.empty (if _ then _ else _)
    split
    · exact h1 _
    · split
      · exact h1 _
      · exact h1 _

theorem courseDefine (c : Nat) (x : CourseArgs) (hs : Account a Hand.empty s) :
    Account a Hand.empty (courseDefineBody c x s).state :=
  checked_keeps hs fun e => by
    have h3 := (firstFailure_none.mp (firstFailure_none.mp (firstFailure_none.mp e).2).2).1
    simp only [Bool.and_eq_true, decide_eq_true_eq] at h3
    exact (Account.ofTally a Hand.empty).hush.raise _ _ _ _ (hs.defineCourse h3.2 rfl rfl)

theorem courseArm (c : Nat) (hs : Account a Hand.empty s) : Account a Hand.empty (courseArmBody c s).state := by
  have h := Account.ofTally a Hand.empty
  unfold courseArmBody
  dsimp only
  refine checked_keeps hs fun e => okWith_keeps (finish ?_)
  have h3 : (s.course c).state = .planned := by
    have := (firstFailure_none.mp (firstFailure_none.mp (firstFailure_none.mp e).2).2).1
    simp only [Bool.and_eq_true, decide_eq_true_eq] at this
    exact this.2
  have key : ∀ u, Unmoved s u → Account a Hand.empty (Machine.enterCourse c .armed u) := fun u hu => by
    refine h.enterCourse _ _ ?_ ?_ (hs.unmoved hu)
    · rw [(hu.course c).empty, h3]
      decide
    · rw [(hu.course c).unfired, h3]
      decide
  split
  · exact key _ (Unmoved.refl _)
  · exact key _ ((Unmoved.ofTally s).bookBatch _ _ (Unmoved.refl _))

theorem courseFire (c : Nat) (hs : Account a Hand.empty s) : Account a Hand.empty (courseFireBody c s).state :=
  checked_keeps hs fun e => by
    have h3 := (firstFailure_none.mp (firstFailure_none.mp (firstFailure_none.mp e).2).2).1
    simp only [Bool.and_eq_true, decide_eq_true_eq] at h3
    exact okWith_keeps (finish (hs.fireCourse h3.2))

theorem courseRebatch (c k : Nat) (hs : Account a Hand.empty s) : Account a Hand.empty (courseRebatchBody c k s).state := by
  have h := Account.ofTally a Hand.empty
  exact checked_keeps hs fun _ => by
    split
    · exact hs
    · exact okWith_keeps (finish (h.bookBatch _ _
        (h.setCourse _ _ ⟨rfl, rfl, rfl, Iff.rfl, Iff.rfl⟩ (h.removeBatch _ hs))))

theorem courseCancel (c : Nat) (hs : Account a Hand.empty s) : Account a Hand.empty (courseCancelBody c s).state := by
  unfold courseCancelBody
  exact checked_keeps hs fun e => by
    have h2 := (firstFailure_none.mp (firstFailure_none.mp e).2).1
    exact okWith_keeps (finish (hs.cancelCourse (of_decide_eq_true h2)))

theorem courseClose (c : Nat) (hs : Account a Hand.empty s) : Account a Hand.empty (courseCloseBody c s).state :=
  checked_keeps hs fun e => by
    have h2 := (firstFailure_none.mp (firstFailure_none.mp e).2).1
    exact okWith_keeps (((Account.ofTally a Hand.empty).hush.clearRelated c hs).emptyCourse (of_decide_eq_true h2))

/-! ### Cabinets -/

theorem placeCab {P : State → Prop} (h : OfTally P) (k : Nat) (o : CabState) (hs : P s) : P (placeCab k o s) := by
  unfold Machine.placeCab
  extract_lets c silent s1 st
  have h1 : P s1 := by
    show P (if _ then _ else _)
    split
    · exact h.setCab' _ _ rfl rfl rfl rfl hs
    · exact h.clearMeasured _ hs
  refine h.hush.claimCab _ _ ?_
  split
  · exact h1
  · exact h.hush.callRoutes (h.hush.raise _ _ _ _ h1)

theorem newCab_bare (q : CabKind) (x : CabinetArgs) :
    (newCab q x).lots = [] ∧ (newCab q x).routes = [] ∧ ((newCab q x).cls ≠ none → (newCab q x).kind = .warmer) := by
  cases q with
  | empty => exact ⟨rfl, rfl, fun h => absurd rfl h⟩
  | oven => exact ⟨rfl, rfl, fun h => absurd rfl h⟩
  | warmer => exact ⟨rfl, rfl, fun _ => rfl⟩

theorem configureCab {k : Nat} (hk : k < 24) (q : CabKind) (x : CabinetArgs) (hs : Account a Hand.empty s) :
    Account a Hand.empty (configureCab k q x s) := by
  have h := Account.ofTally a Hand.empty
  obtain ⟨h1, h2, h3⟩ := newCab_bare q x
  have hu : ((Machine.unload k s).cab k).cls = none ∨ ((Machine.unload k s).cab k).lots = [] := by
    rw [unload_cab k s (by rw [hs.seated.cabs]; exact hk)]
    by_cases e : (s.cab k).cls = none
    · exact .inl e
    · exact .inr (if_neg e)
  have h4 := (hs.unload k).configureSlot hk hu h1 h2 h3
  unfold Machine.configureCab
  dsimp only
  refine placeCab h _ _ (h.unsetBaselines _ ?_)
  split
  · exact h4
  · exact h.renameFrom _ _ h4

theorem cabinetSet (k q : Nat) (x : CabinetArgs) (hs : Account a Hand.empty s) :
    Account a Hand.empty (cabinetSetBody k q x s).state := by
  unfold cabinetSetBody
  split
  · exact hs
  · refine checked_keeps hs fun e => ?_
    have h1 := (firstFailure_none.mp e).1
    simp only [Bool.and_eq_true, decide_eq_true_eq] at h1
    exact okWith_keeps (finish (hs.configureCab h1.1 _ _))

theorem cabinetMode (k m f : Nat) (hs : Account a Hand.empty s) : Account a Hand.empty (cabinetModeBody k m f s).state :=
  checked_keeps hs fun _ => by
    have h := Account.ofTally a Hand.empty
    refine okWith_keeps (finish ?_)
    split
    · exact h.switchOn _ (h.setCab' _ _ rfl rfl rfl rfl hs)
    · exact hs.switchOff _ _

theorem cabinetSetpoint (k : Nat) (x : Int) (b : Nat) (hs : Account a Hand.empty s) :
    Account a Hand.empty (cabinetSetpointBody k x b s).state := by
  unfold cabinetSetpointBody
  exact checked_keeps hs fun _ => okWith_keeps (finish ((Account.ofTally a Hand.empty).applySetpoint _ _ _ hs))

theorem relatch {P : State → Prop} (h : OfTally P) (k : Nat) (hs : P s) : P (relatch k s) := by
  unfold Machine.relatch
  dsimp only
  split
  · exact h.setCab' _ _ rfl rfl rfl rfl hs
  · exact h.hush.raise _ _ _ _ (h.setCab' _ _ rfl rfl rfl rfl hs)

theorem rearm (k : Nat) (hs : Account a Hand.empty s) : Account a Hand.empty (rearm k s) := by
  have h1 : Account a Hand.empty (Machine.relatch k s) := relatch (Account.ofTally a Hand.empty) k hs
  unfold Machine.rearm
  dsimp only
  split
  · split
    · exact h1.enterOff _ _
    · exact h1.enterOffline _
  · exact h1

theorem cabinetRearm (k : Nat) (hs : Account a Hand.empty s) : Account a Hand.empty (cabinetRearmBody k s).state :=
  checked_keeps hs fun _ => okWith_keeps (finish (hs.rearm _))

/-! ### Lines -/

theorem configureLine {P : State → Prop} (h : OfTally P) (l : Nat) (x : LineArgs) (hs : P s) : P (configureLine l x s) := by
  unfold Machine.configureLine
  extract_lets old s1 src s2 s3 s4 s5
  have h1 : P s1 := h.setLine _ _ ⟨rfl, rfl, rfl⟩ hs
  have h4 : P s4 := by
    show P (if _ then _ else _)
    split
    · exact h1
    · exact h.hush.claimSet _ _ _ _ (h.renameFrom _ _ (h.setRunning _ _ (h.setLine _ _ ⟨rfl, rfl, rfl⟩ h1)))
  have h5 : P s5 := h.backpressure _ h4
  split
  · exact h.clearMeasured _ h5
  · exact h5

theorem lineSet (l : Nat) (x : LineArgs) (hs : Account a Hand.empty s) : Account a Hand.empty (lineSetBody l x s).state :=
  checked_keeps hs fun _ => okWith_keeps (finish (configureLine (Account.ofTally a Hand.empty) _ _ hs))

theorem lineMode (l m : Nat) (hs : Account a Hand.empty s) : Account a Hand.empty (lineModeBody l m s).state :=
  checked_keeps hs fun _ => by
    have h := Account.ofTally a Hand.empty
    show Account a Hand.empty (if _ then _ else _)
    split
    · exact hs
    · exact finish (h.boosterSync _ (h.setLine _ _ ⟨rfl, rfl, rfl⟩ hs))

theorem rackAnnounce (l tag c n : Nat) (f : OptArg Nat) (hs : Account a Hand.empty s) :
    Account a Hand.empty (rackAnnounceBody l tag c n f s).state :=
  checked_keeps hs fun e => by
    obtain ⟨h1, e⟩ := firstFailure_none.mp e
    have h5 := (firstFailure_none.mp (firstFailure_none.mp (firstFailure_none.mp (firstFailure_none.mp e).2).2).2).1
    simp only [Bool.and_eq_true, decide_eq_true_eq, Bool.not_eq_true'] at h1
    exact hs.announce (r := ⟨tag, c, n, s.announcedFn l f, none, none, 0, none, none, 0, false⟩) h1.1.1.1.1
      (of_decide_eq_true h5) h1.2 rfl

theorem rackRelease (l tag x : Nat) (hs : Account a Hand.empty s) : Account a Hand.empty (rackReleaseBody l tag x s).state := by
  have h := Account.ofTally a Hand.empty
  unfold rackReleaseBody
  dsimp only
  refine checked_keeps hs fun e => ?_
  have h3 := (firstFailure_none.mp (firstFailure_none.mp (firstFailure_none.mp e).2).2).1
  split
  · exact hs
  · rename_i r hr
    have hm := List.mem_of_find?_eq_some hr
    have ht : r.tag = tag := by simpa using List.find?_some hr
    rw [hr] at h3
    have hh : r.reason ≠ none := Option.isSome_iff_ne_none.1 ((Bool.and_eq_true _ _).mp h3).2
    refine okWith_keeps (finish (h.hush.callRoute _ ?_))
    split
    · exact h.backpressure _ (hs.restage hm fun _ => hh)
    · rw [← ht]
      exact hs.soilHeld _ (hs.seated.lt_of_exits hm) fun _ => ⟨hm, hh⟩

theorem rackClear (l tag : Nat) (hs : Account a Hand.empty s) : Account a Hand.empty (rackClearBody l tag s).state := by
  have h := Account.ofTally a Hand.empty
  unfold rackClearBody
  dsimp only
  refine checked_keeps hs fun e => ?_
  have h3 := (firstFailure_none.mp (firstFailure_none.mp (firstFailure_none.mp e).2).2).1
  split
  · exact hs
  · rename_i r hr
    have hm := List.mem_of_find?_eq_some hr
    have ht : r.tag = tag := by simpa using List.find?_some hr
    rw [hr] at h3
    have hh : r.reason = none := Option.isNone_iff_eq_none.1 ((Bool.and_eq_true _ _).mp h3).2
    subst ht
    have free : a.rack → ∀ q ∈ (s.line l).exits, q.tag = r.tag → q.reason = none := fun hR q hq e => by
      rw [eq_of_tag ((hs.rack hR).nodup_exits l) hm hq e]
      exact hh
    refine okWith_keeps (finish (h.hush.callRoute _ ?_))
    split
    · rename_i hd
      exact hs.leaveExit _ free fun hR => (hs.rack hR).unrouted_of_dest hm hd
    · rename_i k hd
      exact (hs.dropRoute k l r.tag).leaveExit _ free fun hR => ((hs.rack hR).routedOnlyTo hm hd).dropRoute

/-! ### Power and paging -/

theorem budgetSet (n : Nat) (hs : Account a Hand.empty s) : Account a Hand.empty (budgetSetBody n s).state :=
  checked_keeps hs fun _ => by
    have h := Account.ofTally a Hand.empty
    exact okWith_keeps (finish (h.hush.raise _ _ _ _ (h.powerTry (h.hush.callRestore (h.revoke 26 0 (h.withPower _ hs))))))

theorem powerSet (x : PowerArgs) (hs : Account a Hand.empty s) : Account a Hand.empty (powerSetBody x s).state :=
  checked_keeps hs fun _ => by
    have h := Account.ofTally a Hand.empty
    exact okWith_keeps (finish (h.powerTry (h.hush.callRestore (h.shedCheck (h.withPower _ hs)))))

theorem energyLoad (m r : Nat) (hs : Account a Hand.empty s) : Account a Hand.empty (energyLoadBody m r s).state :=
  checked_keeps hs fun _ => (Account.ofTally a Hand.empty).withPower _ hs

theorem pageSend (q : Port) (k v c x r : Nat) (hs : Account a Hand.empty s) :
    Account a Hand.empty (pageSendBody q k v c x r s).state := by
  have h := (Account.ofTally a Hand.empty).hush
  unfold pageSendBody
  split
  · split
    · exact hs
    · split
      · exact hs
      · rename_i hu
        exact okWith_keeps (finish (h.selectPass (h.addPage _ _ _ _ _ _ (h.makeRoom _ hs hu))))
  · exact hs

theorem pageCancel (i : Nat) (hs : Account a Hand.empty s) : Account a Hand.empty (pageCancelBody i s).state := by
  have h := (Account.ofTally a Hand.empty).hush
  unfold pageCancelBody
  split
  · exact hs
  · exact okWith_keeps (finish (h.selectPass (h.cancelPage _ _ hs)))

theorem configurePaging {P : State → Prop} (h : OfTally P) (x : PagingArgs) (g : Option Nat) (hs : P s) :
    P (configurePaging x g s) := by
  unfold Machine.configurePaging
  extract_lets old s1 s2
  refine h.hush.selectPass ?_
  have h1 : P s1 := h.withPaging _ hs
  show P (if _ then _ else _)
  split
  · exact h1
  · refine h.renameFrom _ _ ?_
    split
    · exact h.baseLost h1
    · exact h1

theorem pagingSet (x : PagingArgs) (hs : Account a Hand.empty s) : Account a Hand.empty (pagingSetBody x s).state := by
  unfold pagingSetBody
  split
  · exact hs
  · exact checked_keeps hs fun _ => okWith_keeps (finish (configurePaging (Account.ofTally a Hand.empty) _ _ hs))

/-! ### Every command -/

theorem body {i : Instr} {p : Port} (hi : requestPort i = some p) (hs : Account a Hand.empty s) :
    Account a Hand.empty (bodyOf i s).state := by
  have h := Account.ofTally a Hand.empty
  cases i <;> simp only [requestPort, Option.some.injEq, reduceCtorEq] at hi <;> subst hi
  case noticeFetch => exact checked_keeps hs fun _ => h.setPort _ _ hs
  case noticeSubscribe => exact checked_keeps hs fun _ => h.setPort _ _ hs
  case portReset => exact hs.portReset _
  case holdBegin => exact hs.holdBegin _
  case holdEnd => exact hs.holdEnd _
  case configClaim => exact checked_keeps hs fun _ => h.withDay _ hs
  case configRelease => exact checked_keeps hs fun _ => h.withDay _ hs
  case permitSet => exact hs.permitSet _ _
  case dayOpen => exact hs.dayOpen
  case dayClose => exact hs.dayClose
  case lockoutClear => exact hs.lockoutClear
  case deviceReset => exact hs.deviceReset
  case classSet => exact hs.classSet _ _
  case wareStock => exact hs.wareStock _ _
  case wareAdd => exact hs.wareAdd _ _
  case wareMove => exact hs.wareMove _ _ _
  case wareWriteOff => exact hs.wareWriteOff _ _ _
  case wareReturn => exact hs.wareReturn _ _ _
  case functionSet => exact hs.functionSet _ _ _ _ _
  case courseDefine => exact hs.courseDefine _ _
  case courseArm => exact hs.courseArm _
  case courseFire => exact hs.courseFire _
  case courseRebatch => exact hs.courseRebatch _ _
  case courseCancel => exact hs.courseCancel _
  case courseClose => exact hs.courseClose _
  case cabinetSet => exact hs.cabinetSet _ _ _
  case cabinetMode => exact hs.cabinetMode _ _ _
  case cabinetSetpoint => exact hs.cabinetSetpoint _ _ _
  case cabinetRearm => exact hs.cabinetRearm _
  case lineSet => exact hs.lineSet _ _
  case lineMode => exact hs.lineMode _ _
  case rackAnnounce => exact hs.rackAnnounce _ _ _ _ _
  case rackRelease => exact hs.rackRelease _ _ _
  case rackClear => exact hs.rackClear _ _
  case budgetSet => exact hs.budgetSet _
  case powerSet => exact hs.powerSet _
  case energyLoad => exact hs.energyLoad _ _
  case pageSend => exact hs.pageSend _ _ _ _ _ _
  case pageCancel => exact hs.pageCancel _
  case pagingSet => exact hs.pagingSet _
  case portRead => exact hs
  case dayRead => exact hs
  case wareRead => exact Full.wareRead _ hs
  case courseRead => exact Full.courseRead _ _ _ hs
  case functionRead => exact Full.functionRead _ hs
  case cabinetRead => exact Full.cabinetRead _ _ _ hs
  case lineRead => exact Full.lineRead _ hs
  case powerRead => exact Full.powerRead _ _ hs
  case energyRead => exact Full.energyRead _ hs
  case energyReadRaw => exact Full.energyReadRaw _ hs
  case nodeRead => exact Full.nodeRead _ _ hs
  case rackRead => exact Full.rackRead _ _ _ hs
  case pageRead => exact Full.pageRead _ _ hs
  case pagerRead => exact Full.pagerRead _ _ hs

theorem request {i : Instr} {p : Port} (hi : requestPort i = some p) (hs : Account a Hand.empty s)
    (he : exec i s = .next t) : Account a Hand.empty t := by
  have h := Account.ofTally a Hand.empty
  by_cases hl : s.day.resetLow = true
  · rw [exec_request hi] at he
    simp only [live, hl, if_true] at he
    cases he
    exact hs
  · have hl' : s.day.resetLow = false := by simpa using hl
    by_cases hr : (s.port p).slot = none
    · rw [request_answer hi ⟨hl', hr⟩] at he
      cases he
      have hb : Account a Hand.empty (before i p s) := by
        unfold before
        split
        · exact h.withHold _ hs
        · exact hs
      have ho : Account a Hand.empty (outcomeOf i p s).state := by
        unfold outcomeOf
        split
        · exact hb
        · exact hb.body hi
      unfold after
      extract_lets u
      refine h.setPort _ _ ?_
      show Account a Hand.empty (if _ then _ else _)
      split
      · exact h.withHold _ (h.hush.raiseTo _ _ _ _ _ ho)
      · exact ho
    · rw [request_unread hi hl' hr] at he
      cases he
      exact h.setPort _ _ hs

/-- Every step keeps the three accounts. -/
theorem step (hs : Account a Hand.empty s) (he : step s = .next t) : Account a Hand.empty t := by
  have h := Account.ofTally a Hand.empty
  unfold Machine.step at he
  split at he
  · cases he
    unfold idle
    split
    · exact hs
    · exact h.withDay _ hs
  · rename_i c rest _
    have hs' : Account a Hand.empty (s.withPending rest) := h.withPending rest hs
    cases hc : requestPort c with
    | some p => exact hs'.request hc he
    | none =>
      by_cases hu : ∃ q l, c = .undefinedCommandCode q l
      · obtain ⟨q, l, rfl⟩ := hu
        rcases exec_bytes he with rfl | ⟨x, _, rfl⟩ | ⟨j, hj, hj'⟩
        · exact hs'
        · exact h.setPort _ _ hs'
        · exact hs'.request hj hj'
      · exact hs'.event hc (fun q l e => hu ⟨q, l, e⟩) he

end Sys2Proof.Machine.Account

namespace Sys2Proof.Certificates

open Sys2Proof.Machine

/-- Settles O21: each place's law is kept on its own, through states in which an operation has racks or plates in hand
(`Account`). -/
theorem placesAreAccounted : Obligations.PlacesAreAccounted := by
  intro s t hz he
  have seat := hz.seated
  have h : Account ⟨RackLaw s, LotLaw s, PlatedLaw s⟩ Hand.empty s :=
    ⟨seat, (rackBut_empty seat).2, (lotBut_empty seat).2, (platedBut_empty seat).2⟩
  have g := h.step he
  exact ⟨fun hr => (rackBut_empty g.seated).1 (g.rack hr), fun hl => (lotBut_empty g.seated).1 (g.lot hl),
    fun hp => (platedBut_empty g.seated).1 (g.plated hp)⟩

end Sys2Proof.Certificates
end

section
/-! SUPPORT. COURSE_CANCEL and COURSE_CLOSE (R48, R49): what a cancelled course keeps through the passes that follow, and the
pages of a course. -/

namespace Sys2Proof.Machine

variable {P : State → Prop} {s : State}

/-! ### Notices and pages, which change no course and no earmark -/

/-- The changes that notices and pages are made of keep `P`. -/
structure Murmur (P : State → Prop) : Prop where
  offer : ∀ {s} q n, P s → P (offerWhere q n s)
  paging : ∀ {s : State} x, P s → P (s.withPaging x)
  bus : ∀ {s : State} x, P s → P (s.withBus x)

namespace Murmur

variable (h : Murmur P)
include h

theorem raise (k : NoticeKind) (x y z : Nat) (hs : P s) : P (raise k x y z s) := h.offer _ _ hs

theorem endPage (id : Nat) (out : PageState) (hs : P s) : P (endPage id out s) := by
  unfold Machine.endPage
  split
  · exact hs
  · dsimp only
    split
    · exact h.paging _ (h.offer _ _ hs)
    · exact h.paging _ (h.offer _ _ hs)

theorem dropInfo (hs : P s) : P (dropInfo s) := Hush.forEach (fun k _ => h.endPage k _) _ hs

theorem handOff (p : Page) (hs : P s) : P (handOff p s) := h.bus _ (h.paging _ hs)

theorem selectUpTo : ∀ (n : Nat) {s : State}, P s → P (selectUpTo n s)
  | 0, _, hs => h.dropInfo hs
  | n + 1, s, hs => by
    unfold Machine.selectUpTo
    dsimp only
    split
    · split
      · exact h.dropInfo hs
      · exact selectUpTo n (h.handOff _ (h.paging _ (h.dropInfo hs)))
    · exact h.dropInfo hs

theorem selectPass (hs : P s) : P (selectPass s) := h.selectUpTo _ hs

theorem claimPage (t : Target) (c x : Nat) (r : Prio) (k : Option Nat) (hs : P s) : P (claimPage t c x r k s) := by
  unfold Machine.claimPage
  split
  · exact h.raise _ _ _ _ hs
  · split
    · exact h.raise _ _ _ _ hs
    · rename_i u hu
      refine h.selectPass (h.paging _ ?_)
      unfold makeRoom at hu
      split at hu
      · cases hu
        exact hs
      · obtain ⟨q, _, rfl⟩ := Option.map_eq_some_iff.mp hu
        exact h.endPage _ _ hs

theorem startRush (t : Nat) (hs : P s) : P (startRush t s) := by
  unfold Machine.startRush setRush
  split
  · split
    · exact h.selectPass hs
    · exact h.selectPass (h.paging _ hs)
  · exact hs

theorem cancelPage (id : Nat) (b : Bool) (hs : P s) : P (cancelPage id b s) := by
  unfold Machine.cancelPage
  split
  · exact hs
  · split
    · exact h.paging _ hs
    · split
      · exact hs
      · exact h.endPage _ _ hs

theorem cancelCoursePages (c : Nat) (b : Bool) (hs : P s) : P (cancelCoursePages c b s) :=
  h.selectPass (Hush.forEach (fun k _ => h.cancelPage k false) _ hs)

end Murmur

/-! ### A cancelled course -/

/-- The course is CANCELLED, owes nothing and holds no earmark. -/
structure Gone (c : Nat) (s : State) : Prop where
  state : (s.course c).state = .cancelled
  owed : (s.course c).owed = 0
  earmarks : ∀ e ∈ s.earmarks, e.course ≠ c

namespace Gone

variable {c : Nat}

theorem murmur (c : Nat) : Murmur (Gone c) where
  offer _ _ hs := ⟨hs.state, hs.owed, hs.earmarks⟩
  paging _ hs := ⟨hs.state, hs.owed, hs.earmarks⟩
  bus _ hs := ⟨hs.state, hs.owed, hs.earmarks⟩

/-- Another course changes, or what is not read of this one. -/
theorem setCourse {i : Nat} {x : Course} (hs : Gone c s)
    (hx : i = c → x.state = (s.course c).state ∧ x.owed = (s.course c).owed) : Gone c (s.setCourse i x) := by
  refine ⟨?_, ?_, hs.earmarks⟩
  all_goals rw [State.course_setCourse_ite]; split
  · rename_i h
    exact (hx h.1.symm).1.trans hs.state
  · exact hs.state
  · rename_i h
    exact (hx h.1.symm).2.trans hs.owed
  · exact hs.owed

theorem takeEarmark {i : Nat} (k : Nat) (hi : i ≠ c) (hs : Gone c s) : Gone c (takeEarmark i k s) := by
  unfold Machine.takeEarmark
  dsimp only
  split
  · exact hs
  · refine setCourse (i := i) ⟨hs.state, hs.owed, fun e he => ?_⟩ fun h => absurd h hi
    have rest : ∀ e ∈ s.earmarks.filter (fun e => !(decide (e.course = i) && decide (e.cab = k))), e.course ≠ c :=
      fun e he => hs.earmarks e (List.mem_of_mem_filter he)
    simp only [setEarmark, State.withEarmarks_earmarks] at he
    split at he
    · exact rest e he
    · rcases List.mem_cons.1 ((insertBy_perm _ _ _).subset he) with rfl | he
      · exact hi
      · exact rest e he

theorem walkOwing (k : Nat) (hs : Gone c s) : Gone c (walkOwing k s) := by
  unfold Machine.walkOwing
  split
  · exact hs
  · rename_i cls hk
    have free : c ∉ s.owing cls := fun h => by
      have := (mem_owing.1 h).2.1
      rw [hs.state] at this
      cases this
    generalize s.owing cls = l at free
    clear hk
    induction l generalizing s with
    | nil => exact hs
    | cons i l ih =>
      refine ih ?_ fun h => free (List.mem_cons_of_mem _ h)
      show Gone c (if _ then _ else _)
      split
      · exact hs.takeEarmark k fun e => free (e ▸ List.mem_cons_self)
      · exact hs

theorem evaluate (i : Nat) (hs : Gone c s) : Gone c (evaluate i s) := by
  have h := murmur c
  unfold Machine.evaluate
  split
  · rename_i hi
    have ne : i ≠ c := fun e => by
      rw [e, hs.state] at hi
      cases hi
    split
    · exact h.raise _ _ _ _ (h.claimPage _ _ _ _ _ (h.startRush _ (hs.setCourse fun e => absurd e ne)))
    · exact hs
  · rename_i hi
    have ne : i ≠ c := fun e => by
      rw [e, hs.state] at hi
      cases hi
    split
    · exact hs
    · exact h.cancelCoursePages _ _ (h.raise _ _ _ _ (hs.setCourse fun e => absurd e ne))
  · exact hs

theorem pageShort (i : Nat) (hs : Gone c s) : Gone c (pageShort i s) := by
  unfold Machine.pageShort
  dsimp only
  split
  · exact (murmur c).claimPage _ _ _ _ _ (hs.setCourse fun e => by subst e; exact ⟨rfl, rfl⟩)
  · exact hs

theorem evaluateAll (hs : Gone c s) : Gone c (evaluateAll s) :=
  Hush.forEach (fun i _ ht => ht.pageShort i) _ (Hush.forEach (fun i _ ht => ht.evaluate i) _ hs)

end Gone

theorem removeBatch_course (c : Nat) (s : State) (i : Nat) : (removeBatch c s).course i = s.course i := by
  unfold removeBatch
  split <;> rfl

/-- A slot past the table's end is EMPTY. -/
theorem lt_of_used {c : Nat} (h : (s.course c).state ≠ .empty) : c < s.courses.length := by
  by_contra hc
  have e : s.course c = Course.initial := by
    unfold State.course
    rw [List.getD_eq_getElem?_getD, List.getElem?_eq_none (by omega)]
    rfl
  rw [e] at h
  exact h rfl

theorem used_of_ended {x : Course} (h : x.state = .served ∨ x.state = .cancelled) : x.state ≠ .empty := fun e => by
  rw [e] at h
  rcases h with h | h <;> cases h

theorem removeBatch_earmarks (c : Nat) (s : State) : (removeBatch c s).earmarks = s.earmarks := by
  unfold removeBatch
  split <;> rfl

/-- A cancelled course with its batch and its earmarks gone, before the freed plates are given out. -/
def cancelled (c : Nat) (s : State) : State :=
  ((unbooked c s).withEarmarks (s.earmarks.filter (·.course ≠ c))).setCourse c (s.course c).cancel

/-- And with the freed plates given out, the courses judged and its pages cancelled. -/
def givenOut (c : Nat) (s : State) : State :=
  cancelCoursePages c false (if s.earmarks.filter (·.course = c) = [] then cancelled c s
    else evaluateAll (forEach ((s.earmarks.filter (·.course = c)).map (·.cab)) walkOwing (cancelled c s)))

theorem cancelCourse_eq (c : Nat) (s : State) : cancelCourse c s =
    raise .courseState c CourseState.cancelled.code (s.course c).state.code (givenOut c s) := by
  unfold cancelCourse givenOut cancelled
  dsimp only
  rw [removeBatch_earmarks, ← removeBatch_eq_unbooked, State.withEarmarks_course, removeBatch_course]
  cases s.earmarks.filter (·.course = c) <;> rfl

theorem Gone.givenOut {c : Nat} (hc : c < s.courses.length) : Gone c (givenOut c s) := by
  have hc' : c < ((unbooked c s).withEarmarks (s.earmarks.filter (·.course ≠ c))).courses.length := by
    rw [← removeBatch_eq_unbooked]
    unfold removeBatch
    split
    · exact hc
    · exact hc
  have h1 : Gone c (cancelled c s) := by
    unfold cancelled
    refine ⟨?_, ?_, fun e he => ?_⟩
    · rw [State.course_setCourse _ _ _ hc']
      rfl
    · rw [State.course_setCourse _ _ _ hc']
      rfl
    · exact of_decide_eq_true (List.mem_filter.1 he).2
  refine (Gone.murmur c).cancelCoursePages _ _ ?_
  split
  · exact h1
  · exact (Hush.forEach (f := Machine.walkOwing) (fun k _ ht => ht.walkOwing k) _ h1).evaluateAll

theorem givenOut_floor (c : Nat) (s : State) : Floor (cancelled c s) (givenOut c s) := by
  have h := (Floor.stable (cancelled c s)).toHush
  refine h.cancelCoursePages _ _ ?_
  split
  · exact Floor.refl _
  · exact h.evaluateAll (Hush.forEach (f := walkOwing) (fun k _ ht => h.walkOwing k ht) _ (Floor.refl _))

/-! ### The pages of a course -/

theorem cancelCoursePages_eq (c : Nat) (b : Bool) (s : State) : cancelCoursePages c b s =
    selectPass (forEach ((s.paging.pages.filter fun g => g.course = some c ∧ (b = true → g.code = 0x01)).map (·.id))
      (fun id => cancelPage id false) s) := by
  have e : ∀ g : Page, (decide (g.course = some c) && (!b || decide (g.code = codeCourseReady))) =
      decide (g.course = some c ∧ (b = true → g.code = 0x01)) := fun g => by
    cases b with
    | false => simp
    | true =>
      simp only [Bool.not_true, Bool.false_or, forall_const, Bool.decide_and]
      rfl
  unfold cancelCoursePages
  simp only [e]

theorem cancelPage_atBase {g : Page} (h : s.page g.id = some g) (hb : g.state = .handed ∨ g.inDelivery = true) (b : Bool) :
    cancelPage g.id b s = paged g.id (fun q => { q with cancelMark := true }) s := by
  unfold cancelPage
  rw [h]
  exact if_pos (by simpa [Page.atBase] using hb)

theorem cancelPage_sent {g : Page} (h : s.page g.id = some g) (h1 : g.state = .sent) (h2 : g.inDelivery = false) :
    cancelPage g.id false s = s := by
  unfold cancelPage
  rw [h]
  simp [Page.atBase, h1, h2]

theorem cancelPage_queued {g : Page} (h : s.page g.id = some g) (h1 : g.state = .queued) (h2 : g.inDelivery = false) :
    cancelPage g.id false s = ended g 4 s := by
  rw [show (4 : Nat) = PageState.cancelled.code - 3 from rfl, ← endPage_eq_ended h]
  unfold cancelPage
  rw [h]
  simp [Page.atBase, h1, h2]

end Sys2Proof.Machine

namespace Sys2Proof.Certificates

open Sys2Proof.Machine

/-- O22's clauses of COURSE_CANCEL. -/
theorem courseCancel_clauses (p : Port) (c : Nat) (s : State) (ha : Admitted (.courseCancel p c) p s) :
    let i := Instr.courseCancel p c
    let u := before i p s
    let x := u.course c
    let ended := x.state = .served ∨ x.state = .cancelled
    let own := s.earmarks.filter (·.course = c)
    let v := ((unbooked c u).withEarmarks (s.earmarks.filter (·.course ≠ c))).setCourse c
      { x with state := .cancelled, owed := 0, fireTime := none }
    let given := forEach (own.map (·.cab)) walkOwing v
    let w := cancelCoursePages c false (if own = [] then v else evaluateAll given)
    (c < 32 → x.state ≠ .empty → ¬ended → s.day.state = .service →
      ∃ t, Executes i p s (be16 (s.earmarkedFor c)) t ∧
        t = finish (raise .courseState c CourseState.cancelled.code x.state.code w) ∧
        (w.course c).owed = 0 ∧ (∀ e ∈ w.earmarks, e.course ≠ c) ∧ Floor v w ∧
        Floor (raise .courseState c CourseState.cancelled.code x.state.code w) t) ∧
      (c < 32 → x.state = .empty → RefusedWith i p s .notFound) ∧
      (c < 32 → ended ∨ x.state ≠ .empty ∧ s.day.state ≠ .service → RefusedWith i p s .badState) ∧
      (32 ≤ c → RefusedWith i p s .range) := by
  extract_lets i u x ended own v given w
  have hb : courseCancelBody c u = checked [(decide (c < 32), .range), (decide (x.state ≠ .empty), .notFound),
      (inDay u [.service] && decide (x.state ≠ .served) && decide (x.state ≠ .cancelled), .badState)]
      (fun s => okWith (be16 (s.earmarkedFor c)) (finish (cancelCourse c s))) u := by
    unfold courseCancelBody
    rfl
  have hv : v = cancelled c u := by
    show _ = ((unbooked c u).withEarmarks (u.earmarks.filter (·.course ≠ c))).setCourse c (u.course c).cancel
    rw [before_earmarks]
    rfl
  have hw : w = givenOut c u := by
    show cancelCoursePages c false (if own = [] then v else evaluateAll (forEach (own.map (·.cab)) walkOwing v)) = _
    unfold givenOut
    rw [hv, before_earmarks]
  have hday : inDay u [.service] = decide (s.day.state = .service) := by simp [inDay, u]
  have check : (inDay u [.service] && decide (x.state ≠ .served) && decide (x.state ≠ .cancelled)) =
      decide (s.day.state = .service ∧ ¬ ended) := by
    rw [hday]
    simp [ended, Bool.and_assoc]
  refine ⟨fun h1 h2 h3 h4 => ⟨_, Executes.of_checks rfl ha hb ?_ ?_, rfl, ?_, ?_, ?_, finish_floor _⟩,
    fun h1 h2 => RefusedWith.of_checks rfl ha hb ?_, fun h1 h2 => RefusedWith.of_checks rfl ha hb ?_,
    fun h1 => RefusedWith.of_checks rfl ha hb (firstFailure_head (by simpa using h1))⟩
  · rw [check]
    simp [firstFailure_cons, h1, h2, h3, h4]
  · refine okWith_congr (by simp [State.earmarkedFor]) ?_
    rw [cancelCourse_eq, ← hw]
  · rw [hw]
    exact (Gone.givenOut (lt_of_used h2)).owed
  · rw [hw]
    exact (Gone.givenOut (lt_of_used h2)).earmarks
  · rw [hw, hv]
    exact givenOut_floor c u
  · simp [firstFailure_cons, h1, h2]
  · have used : x.state ≠ .empty := h2.elim used_of_ended fun h => h.1
    have off : ¬ (s.day.state = .service ∧ ¬ ended) := fun h => h2.elim h.2 fun g => g.2 h.1
    rw [check]
    simp [firstFailure_cons, h1, used, off]

/-- O22's clauses of COURSE_CLOSE. -/
theorem courseClose_clauses (p : Port) (c : Nat) (s : State) (ha : Admitted (.courseClose p c) p s) :
    let i := Instr.courseClose p c
    let u := before i p s
    let x := u.course c
    let w := u.ware x.cls
    let ended := x.state = .served ∨ x.state = .cancelled
    (c < 32 → ended →
      Executes i p s (be16 (x.plated - x.returned))
        (((u.withPaging
            { u.paging with
              pages := u.paging.pages.map fun g => if g.course = some c then { g with course := none } else g }).setWare
          x.cls { w with house := w.house + (x.plated - x.returned) }).setCourse c Course.initial)) ∧
      (c < 32 → x.state = .empty → RefusedWith i p s .notFound) ∧
      (c < 32 → x.state ≠ .empty → ¬ended → RefusedWith i p s .badState) ∧ (32 ≤ c → RefusedWith i p s .range) := by
  extract_lets i u x w ended
  have hb : courseCloseBody c u = checked [(decide (c < 32), .range), (decide (x.state ≠ .empty), .notFound),
      (inDay u openDays && (decide (x.state = .served) || decide (x.state = .cancelled)), .badState)]
      (fun s => okWith (be16 (x.plated - x.returned)) (emptyCourse c (clearRelated c s))) u := rfl
  have hd : inDay u openDays = true := inDay_openDays (by simpa [u] using ha.notLockout rfl rfl)
  have check : (inDay u openDays && (decide (x.state = .served) || decide (x.state = .cancelled))) = decide ended := by
    rw [hd]
    simp [ended]
  refine ⟨fun h1 h2 => Executes.of_checks rfl ha hb ?_ rfl, fun h1 h2 => RefusedWith.of_checks rfl ha hb ?_,
    fun h1 h2 h3 => RefusedWith.of_checks rfl ha hb ?_,
    fun h1 => RefusedWith.of_checks rfl ha hb (firstFailure_head (by simpa using h1))⟩
  · have used : x.state ≠ .empty := used_of_ended h2
    rw [check]
    simp [firstFailure_cons, h1, h2, used]
  · simp [firstFailure_cons, h1, h2]
  · rw [check]
    simp [firstFailure_cons, h1, h2, h3]

/-- Settles O22: a cancelled course is in no owing list, so that the plates it frees go to others. -/
theorem coursesEnd : Obligations.CoursesEnd :=
  ⟨courseCancel_clauses, courseClose_clauses, cancelCoursePages_eq, fun _ _ h =>
    ⟨fun hb => cancelPage_atBase h hb false, cancelPage_sent h, cancelPage_queued h⟩⟩

end Sys2Proof.Certificates
end

section
/-! SUPPORT. Loads and draws in the words of their rule (R71, R72, R40–R42): what a load takes when nothing has to be
cancelled, one plate of a draw, and who is served and robbed. -/

namespace Sys2Proof.Machine

variable {s : State}

/-! ### Loads -/

theorem total_left_fillRoutes : ∀ (n : Nat) (rs : List Route),
    total ((fillRoutes n rs).map Route.left) = total (rs.map Route.left) - n
  | n, [] => (Nat.zero_sub n).symm
  | n, r :: rs => by
    unfold fillRoutes
    rw [List.map_cons, List.map_cons, total_cons, total_cons, total_left_fillRoutes]
    unfold Route.left
    dsimp only
    omega

theorem pending_eq (c : Cab) : c.pending = total (c.routes.map Route.left) := rfl

/-- Entries that wait for nothing are passed over. -/
theorem routesToCancel_filled (n : Nat) : ∀ {rs : List Route}, (∀ r ∈ rs, r.left = 0) → routesToCancel n rs = []
  | [], _ => rfl
  | r :: rs, h => by
    unfold routesToCancel
    rw [routesToCancel_filled n fun q hq => h q (List.mem_cons_of_mem _ hq), if_pos (h r List.mem_cons_self), ite_self]

theorem routesToCancel_zero : ∀ (rs : List Route), routesToCancel 0 rs = []
  | [] => rfl
  | _ :: _ => rfl

theorem total_eq_zero {l : List Nat} (h : total l = 0) : ∀ x ∈ l, x = 0 := by
  induction l with
  | nil => exact fun x hx => by cases hx
  | cons y l ih =>
    rw [total_cons] at h
    intro x hx
    rcases List.mem_cons.1 hx with rfl | hx
    · omega
    · exact ih (by omega) x hx

/-- A load gives up no route while the room reaches, or while every route is filled by it. -/
theorem routesToCancel_load (c : Cab) (n : Nat)
    (h : c.lotTotal + c.pending + (n - min n c.pending) ≤ c.capacity ∨ c.pending ≤ n) :
    routesToCancel (c.lotTotal + min n c.pending + (c.pending - min n c.pending) + (n - min n c.pending) - c.capacity)
      (fillRoutes (min n c.pending) c.routes).reverse = [] := by
  rcases h with h | h
  · rw [show c.lotTotal + min n c.pending + (c.pending - min n c.pending) + (n - min n c.pending) - c.capacity = 0 by omega]
    exact routesToCancel_zero _
  · refine routesToCancel_filled _ fun r hr => ?_
    refine total_eq_zero (l := (fillRoutes (min n c.pending) c.routes).map Route.left) ?_ _
      (List.mem_map_of_mem (List.mem_reverse.1 hr))
    rw [total_left_fillRoutes, ← pending_eq]
    omega

/-- The lots of a warmer that takes `m` plates at second `now`. -/
def Cab.lotsWith (c : Cab) (m now : Nat) : List Lot :=
  let t := { c.lots.getLastD ⟨0, none⟩ with warmFrom := if c.setpoint - c.band ≤ c.temp then some now else none }
  if c.lots.length < 8 then c.lots ++ [{ t with count := m }]
  else c.lots.dropLast ++ [{ t with count := t.count + m }]

theorem addLot_eq (c : Cab) (m now : Nat) : c.addLot m now = { c with lots := c.lotsWith m now } := by
  unfold Cab.addLot Cab.lotsWith Cab.inBand
  simp only [decide_eq_true_eq]
  by_cases h : c.lots.length < 8
  · rw [if_pos (show c.lots.length < Config.lotCap from h), if_pos h]
  · rw [if_neg (show ¬ c.lots.length < Config.lotCap from h), if_neg h]
    cases hl : c.lots.getLast? with
    | none =>
      rw [List.getLast?_eq_none_iff] at hl
      rw [hl] at h
      exact absurd (by decide) h
    | some l => simp [List.getLastD_eq_getLast?, hl]

/-- The record of a warmer that takes `m` plates. -/
def Cab.loaded (c : Cab) (m now : Nat) : Cab :=
  { c with lots := c.lotsWith m now, routes := fillRoutes m c.routes, sleepT := none }

/-- What the plates taken do. -/
def putIn (k m : Nat) (c : Cab) (now : Nat) (v : State) : State :=
  callRoutes ((c.routes.zip (fillRoutes m c.routes)).foldl (fun y z => settleRoute k z.1 z.2 y)
    (evaluateAll (walkOwing k (if c.state = .sleep then requestHeat k (v.setCab k (c.loaded m now))
      else v.setCab k (c.loaded m now)))))

/-- A claim of plates against CLEAN, and what it gives. -/
def loadClaim (k n cls claim : Nat) (c : Cab) (w : Ware) (now : Nat) (v : State) : State :=
  let m := min claim w.clean
  let moved := v.setWare cls { w with clean := w.clean - m, inWarmer := w.inWarmer + m }
  let told := if m < claim then raise .wareMismatch k n m moved else moved
  if m = 0 then told else putIn k m c now told

theorem move_clean_inWarmer (w : Ware) (n : Nat) :
    w.move .clean .inWarmer n = { w with clean := w.clean - min n w.clean, inWarmer := w.inWarmer + min n w.clean } := rfl

theorem mismatch_cab (q : Prop) [Decidable q] (x y z : Nat) (v : State) (k : Nat) :
    (if q then raise .wareMismatch x y z v else v).cab k = v.cab k := by split <;> rfl

theorem mismatch_ware (q : Prop) [Decidable q] (x y z : Nat) (v : State) (k : Nat) :
    (if q then raise .wareMismatch x y z v else v).ware k = v.ware k := by split <;> rfl

theorem mismatch_now (q : Prop) [Decidable q] (x y z : Nat) (v : State) :
    (if q then raise .wareMismatch x y z v else v).now = v.now := by split <;> rfl

theorem mismatch_cabs (q : Prop) [Decidable q] (x y z : Nat) (v : State) :
    (if q then raise .wareMismatch x y z v else v).cabs = v.cabs := by split <;> rfl

/-- A slot with a class is in the table. -/
theorem lt_of_classed {k cls : Nat} (hc : (s.cab k).cls = some cls) : k < s.cabs.length := by
  by_contra hk
  have e : s.cab k = Cab.initial := by
    unfold State.cab
    rw [List.getD_eq_getElem?_getD, List.getElem?_eq_none (by omega)]
    rfl
  rw [e] at hc
  cases hc

/-- What a load does with a claim, in a state that holds the cabinet's record, the class's counts and the second. -/
theorem loadRest_eq {k n cls claim now : Nat} {c : Cab} {w : Ware} (hcab : s.cab k = c) (hware : s.ware cls = w)
    (hnow : s.now = now) (hk : k < s.cabs.length) :
    (let applied := min claim (s.ware cls).clean
     let s3 := transfer cls .clean .inWarmer applied s
     let s4 := if applied < claim then mismatch k n applied s3 else s3
     if applied = 0 then s4
     else
       let after := fillRoutes applied c.routes
       let s5 := s4.setCab k { (s4.cab k).addLot applied s4.now with routes := after, sleepT := none }
       let s6 := if (s5.cab k).state = .sleep then requestHeat k s5 else s5
       let s7 := evaluateAll (walkOwing k s6)
       callRoutes ((c.routes.zip after).foldl (fun t x => settleRoute k x.1 x.2 t) s7)) =
      loadClaim k n cls claim c w now s := by
  unfold loadClaim
  extract_lets applied s3 s4 after src s5 s6 s7 m moved told
  have hm : applied = m := congrArg (fun y : Ware => min claim y.clean) hware
  have h3 : s3 = moved := by
    show s.setWare cls ((s.ware cls).move .clean .inWarmer applied) = _
    rw [hware, move_clean_inWarmer, hm, Nat.min_eq_left (Nat.min_le_right claim w.clean)]
  have h4 : s4 = told := by
    show (if applied < claim then mismatch k n applied s3 else s3) = _
    rw [h3, hm]
    rfl
  have hc4 : told.cab k = c := (mismatch_cab ..).trans hcab
  have hn4 : told.now = now := (mismatch_now ..).trans hnow
  have hl4 : k < told.cabs.length := (mismatch_cabs (m < claim) k n m moved).symm ▸ hk
  have h5 : s5 = told.setCab k (c.loaded m now) := by
    show s4.setCab k { (s4.cab k).addLot applied s4.now with routes := fillRoutes applied c.routes, sleepT := none } = _
    rw [h4, hm, hc4, hn4, addLot_eq]
    rfl
  have h6 : s6 = if c.state = .sleep then requestHeat k (told.setCab k (c.loaded m now))
      else told.setCab k (c.loaded m now) := by
    show (if (s5.cab k).state = .sleep then requestHeat k s5 else s5) = _
    rw [h5, State.cab_setCab _ _ _ hl4]
    rfl
  rw [h4, hm]
  refine if_congr Iff.rfl rfl ?_
  show callRoutes (List.foldl _ (evaluateAll (walkOwing k s6)) (c.routes.zip (fillRoutes applied c.routes))) = _
  rw [h6, hm]
  rfl

theorem loadPlates_eq {k n cls : Nat} (hc : (s.cab k).cls = some cls)
    (h : (s.cab k).lotTotal + (s.cab k).pending + (n - min n (s.cab k).pending) ≤ (s.cab k).capacity ∨
      (s.cab k).pending ≤ n) :
    let c := s.cab k
    let rest := n - min n c.pending
    let taken := min rest (c.capacity - (c.lotTotal + c.pending))
    loadPlates k n s = loadClaim k n cls (min n c.pending + taken) c (s.ware cls) s.day.clock
      (if taken < rest then raise .wareMismatch k rest taken s else s) := by
  intro c rest taken
  unfold loadPlates
  extract_lets routed rest' filled used excess gone s1 kept room taken' s2 claim
  have hgone : gone = [] := routesToCancel_load _ _ h
  have h1 : s1 = s := by
    show gone.foldl _ s = s
    rw [hgone]
    rfl
  have hkept : kept = c.routes := by
    show (s1.cab k).routes = _
    rw [h1]
  have hroom : room = c.capacity - (c.lotTotal + c.pending) := by
    show c.capacity - (c.lotTotal + routed) - total ((fillRoutes routed kept).map Route.left) = _
    rw [hkept, total_left_fillRoutes, ← pending_eq]
    omega
  have htaken : taken' = taken := by
    show min rest' room = _
    rw [hroom]
  have h2 : s2 = if taken < rest then raise .wareMismatch k rest taken s else s := by
    show (if taken' < rest' then mismatch k rest' taken' s1 else s1) = _
    rw [htaken, h1]
    rfl
  have hclaim : claim = min n c.pending + taken := congrArg (min n c.pending + ·) htaken
  clear_value s2 claim kept
  subst hkept
  have hcab : s2.cab k = c := by rw [h2]; exact mismatch_cab ..
  have hware : s2.ware cls = s.ware cls := by rw [h2]; exact mismatch_ware ..
  have hnow : s2.now = s.day.clock := by rw [h2]; exact mismatch_now ..
  have hlen : k < s2.cabs.length := by rw [h2, mismatch_cabs]; exact lt_of_classed hc
  rw [← h2, ← hclaim]
  split
  · rename_i e
    exact absurd (hc.symm.trans e) (Option.some_ne_none _)
  · rename_i cls' e
    obtain rfl : cls = cls' := Option.some.inj (hc.symm.trans e)
    exact loadRest_eq hcab hware hnow hlen

end Sys2Proof.Machine
end

section
/-! SUPPORT. One plate of a draw, and who is served and robbed (R40–R42, R72). -/

namespace Sys2Proof.Machine

variable {s : State} {P : State → Prop}

/-! ### Who is served, and who is robbed -/

/-- The first of a sorted list with a property stands before every other with it. -/
theorem find?_le_of_pairwise {α : Type} {le : α → α → Prop} (refl : ∀ a, le a a) {q : α → Bool} {a : α} :
    ∀ {l : List α}, l.Pairwise le → l.find? q = some a → ∀ b ∈ l, q b = true → le a b
  | [], _, h => nomatch h
  | x :: l, hp, h => by
    obtain ⟨hx, hl⟩ := List.pairwise_cons.1 hp
    intro b hb hq
    rw [List.find?_cons] at h
    cases e : q x with
    | true =>
      rw [e] at h
      obtain rfl : x = a := Option.some.inj h
      rcases List.mem_cons.1 hb with rfl | hb
      · exact refl _
      · exact hx b hb
    | false =>
      rw [e] at h
      rcases List.mem_cons.1 hb with rfl | hb
      · rw [hq] at e
        cases e
      · exact find?_le_of_pairwise refl hl h b hb hq

/-- The last of a sorted list stands after every other. -/
theorem le_getLast?_of_pairwise {α : Type} {le : α → α → Prop} (refl : ∀ a, le a a) {l : List α}
    (hp : l.Pairwise le) {a : α} (h : l.getLast? = some a) (b : α) (hb : b ∈ l) : le b a := by
  obtain ⟨m, rfl⟩ := List.getLast?_eq_some_iff.1 h
  rcases List.mem_append.1 hb with hb | hb
  · exact (List.pairwise_append.1 hp).2.2 b hb a List.mem_cons_self
  · rw [List.mem_singleton.1 hb]
    exact refl a

/-- A READY or PLATING course of the warmer's class holds an earmark at it. -/
def Serves (s : State) (c k : Nat) : Prop :=
  c ∈ s.holdersAt k ∧ ((s.course c).state = .ready ∨ (s.course c).state = .plating) ∧
    (s.cab k).cls = some (s.course c).cls

theorem serving_eq_none_iff (k : Nat) (s : State) : s.serving k = none ↔ ∀ c, ¬ Serves s c k := by
  unfold State.serving Serves
  simp

theorem serving_eq_some {k c : Nat} (h : s.serving k = some c) :
    Serves s c k ∧ ∀ d, Serves s d k → s.seqOf c ≤ s.seqOf d := by
  unfold State.serving at h
  have hq := List.find?_some h
  simp only [Bool.and_eq_true, Bool.or_eq_true, decide_eq_true_eq] at hq
  refine ⟨⟨List.mem_of_find?_eq_some h, hq⟩, fun d hd => ?_⟩
  refine find?_le_of_pairwise (fun a => Nat.le_refl (s.seqOf a)) (holdersAt_pairwise s k) h d hd.1 ?_
  simpa using hd.2

theorem robYoungest_none {k : Nat} (h : s.holdersAt k = []) : robYoungest k s = s := by
  unfold robYoungest
  rw [h]
  rfl

theorem robYoungest_some {k : Nat} (h : s.holdersAt k ≠ []) : ∃ c ∈ s.holdersAt k,
    (∀ d ∈ s.holdersAt k, s.seqOf d ≤ s.seqOf c) ∧
      robYoungest k s = setOwed c ((s.course c).owed + 1) (setEarmark c k (s.earmark c k - 1) s) := by
  obtain ⟨c, hc⟩ := Option.isSome_iff_exists.1 (List.getLast?_isSome.2 h)
  refine ⟨c, List.mem_of_getLast? hc,
    fun d hd => le_getLast?_of_pairwise (fun a => Nat.le_refl (s.seqOf a)) (holdersAt_pairwise s k) hc d hd, ?_⟩
  unfold robYoungest
  rw [hc]
  rfl

theorem otherEarmark_eq_none_iff (c k : Nat) (s : State) :
    s.otherEarmark c k = none ↔ ∀ j, j ≠ k → ¬ ∃ e ∈ s.earmarks, e.course = c ∧ e.cab = j := by
  unfold State.otherEarmark
  rw [List.head?_eq_none_iff, List.eq_nil_iff_forall_not_mem]
  simp only [mem_sortBy, List.mem_map, List.mem_filter, Bool.and_eq_true, decide_eq_true_eq]
  exact ⟨fun h j hj ⟨e, he, h1, h2⟩ => h j ⟨e, ⟨he, h1, h2 ▸ hj⟩, h2⟩, fun h j ⟨e, ⟨he, h1, h3⟩, h2⟩ =>
    h j (h2 ▸ h3) ⟨e, he, h1, h2⟩⟩

/-! ### One plate -/

theorem move_inWarmer_plated {w : Ware} {n : Nat} (h : n ≤ w.inWarmer) :
    w.move .inWarmer .plated n = { w with inWarmer := w.inWarmer - n, plated := w.plated + n } := by
  have e : w.move .inWarmer .plated n =
      { w with inWarmer := w.inWarmer - min n w.inWarmer, plated := w.plated + min n w.inWarmer } := rfl
  rw [e, Nat.min_eq_left h]

/-- The course is PLATING at its first credited draw, its batch gone. -/
theorem startPlating_eq (c : Nat) (s : State) : startPlating c s =
    if (s.course c).state = .ready then
      raise .courseState c CourseState.plating.code CourseState.ready.code
        ((unbooked c s).setCourse c { s.course c with state := .plating })
    else s := by
  unfold startPlating enterCourse
  refine if_ctx_congr Iff.rfl (fun h => ?_) fun _ => rfl
  rw [removeBatch_course, h]
  rfl

theorem unbooked_courses (c : Nat) (s : State) : (unbooked c s).courses = s.courses := by
  unfold unbooked
  split <;> rfl

theorem startPlating_earmarks (c : Nat) (s : State) : (startPlating c s).earmarks = s.earmarks := by
  rw [startPlating_eq]
  split
  · exact removeBatch_earmarks c s
  · rfl

theorem startPlating_courses (c : Nat) (s : State) : (startPlating c s).courses.length = s.courses.length := by
  rw [startPlating_eq]
  split
  · show ((unbooked c s).courses.set c _).length = _
    rw [List.length_set, unbooked_courses]
  · rfl

theorem startPlating_course {c : Nat} (hc : c < s.courses.length) : (startPlating c s).course c =
    { s.course c with state := if (s.course c).state = .ready then .plating else (s.course c).state } := by
  rw [startPlating_eq]
  split
  · exact State.course_setCourse _ _ _ (by rwa [unbooked_courses])
  · rfl

/-- The plate is off the warmer and stands with the course, before its balance is settled. -/
def platedOne (c k : Nat) (s : State) : State :=
  (takePlate k (startPlating c s)).setCourse c { (startPlating c s).course c with plated := (s.course c).plated + 1 }

theorem platedOne_earmarks (c k : Nat) (s : State) : (platedOne c k s).earmarks = s.earmarks := startPlating_earmarks c s

theorem platedOne_course {c k : Nat} (hc : c < s.courses.length) : (platedOne c k s).course c =
    { (startPlating c s).course c with plated := (s.course c).plated + 1 } :=
  State.course_setCourse _ _ _ (by
    show c < (startPlating c s).courses.length
    rwa [startPlating_courses])

theorem earmark_congr {t : State} (h : t.earmarks = s.earmarks) (c k : Nat) : t.earmark c k = s.earmark c k := by
  unfold State.earmark
  rw [h]

theorem otherEarmark_congr {t : State} (h : t.earmarks = s.earmarks) (c k : Nat) :
    t.otherEarmark c k = s.otherEarmark c k := by
  unfold State.otherEarmark
  rw [h]

theorem Hush.robYoungest (h : Hush P) (k : Nat) (hs : P s) : P (robYoungest k s) := by
  unfold Machine.robYoungest
  split
  · exact hs
  · exact h.setOwed _ _ (h.dropEarmark _ _ hs)

/-- A settled balance changes no course but in what it owes and in whether it is READY. -/
theorem Hush.settleDraw (h : Hush P) (c k cls free : Nat) (hs : P s) : P (settleDraw c k cls free s) := by
  unfold Machine.settleDraw
  split
  · exact h.dropEarmark _ _ hs
  · split
    · exact h.setOwed _ _ hs
    · split
      · dsimp only
        split
        · exact h.walkOwing _ (h.dropEarmark _ _ hs)
        · exact h.refill _ (h.walkOwing _ (h.robYoungest _ (h.dropEarmark _ _ hs)))
      · exact h.refill _ (h.robYoungest _ (h.setOwed _ _ hs))

theorem settleDraw_course (c k cls free : Nat) (s : State) :
    CourseKeeps (s.course c) ((settleDraw c k cls free s).course c) :=
  ((Floor.stable s).toHush.settleDraw c k cls free (Floor.refl s)).course c

theorem singleDraw_course {k cls c : Nat} (hc : c < s.courses.length) : singleDraw k cls (some c) s =
    evaluateAll
      (if (s.course c).plated + 1 = (s.course c).covers then
        enterCourse c .served (settleDraw c k cls (s.freePlates k) (platedOne c k s))
       else settleDraw c k cls (s.freePlates k) (platedOne c k s)) := by
  have hx := startPlating_course hc
  have hv : (takePlate k (startPlating c s)).setCourse c { (takePlate k (startPlating c s)).course c with
      plated := ((takePlate k (startPlating c s)).course c).plated + 1 } = platedOne c k s := by
    unfold platedOne
    rw [takePlate_course, hx]
  have hk := settleDraw_course c k cls (s.freePlates k) (platedOne c k s)
  have h1 : ((settleDraw c k cls (s.freePlates k) (platedOne c k s)).course c).plated = (s.course c).plated + 1 := by
    rw [hk.plated, platedOne_course hc]
  have h2 : ((settleDraw c k cls (s.freePlates k) (platedOne c k s)).course c).covers = (s.course c).covers := by
    rw [hk.covers, platedOne_course hc, hx]
  have e : singleDraw k cls (some c) s = evaluateAll
      (let t := settleDraw c k cls (s.freePlates k) ((takePlate k (startPlating c s)).setCourse c
          { (takePlate k (startPlating c s)).course c with
            plated := ((takePlate k (startPlating c s)).course c).plated + 1 })
       if (t.course c).plated = (t.course c).covers then enterCourse c .served t else t) := rfl
  rw [e, hv]
  dsimp only
  rw [h1, h2]

/-! ### Routes filled -/

theorem left_eq_zero_iff (r : Route) : r.left = 0 ↔ r.count ≤ r.loaded := Nat.sub_eq_zero_iff_le

theorem leftLoaded_eq (k : Nat) : leftLoaded k = k := by
  unfold leftLoaded pair
  omega

theorem leaveExit_eq (l tag why : Nat) (s : State) : leaveExit l tag why s = backpressure l (raise .rackLeft l tag why
    (s.setLine l { s.line l with exits := (s.line l).exits.filter fun r => r.tag ≠ tag })) := rfl

end Sys2Proof.Machine

namespace Sys2Proof.Certificates

open Sys2Proof.Machine

/-- O27's clauses of a load delta. -/
theorem load_clauses (k cls n : Nat) (s : State) (hn : 1 ≤ n) :
    let c := s.cab k
    let w := s.ware cls
    let rest := n - min n c.pending
    let loads := fun claim => loadClaim k n cls claim c w s.day.clock
    (c.state = .off ∨ c.state = .fault → applyLoad k n s = raise .wareMismatch k n 0 s) ∧
      (c.state ≠ .off → c.state ≠ .fault → c.cls = some cls →
        (c.lotTotal + c.pending + rest ≤ c.capacity → applyLoad k n s = loads n s) ∧
          (0 < rest → c.capacity < c.lotTotal + c.pending + rest →
            let room := c.capacity - (c.lotTotal + c.pending)
            applyLoad k n s = loads (c.pending + room) (raise .wareMismatch k rest room s))) ∧
      total ((fillRoutes n c.routes).map Route.left) = c.pending - n := by
  intro c w rest loads
  have h0 : ¬ n = 0 := by omega
  refine ⟨fun h => ?_, fun h1 h2 hc => ⟨fun h => ?_, fun hr h => ?_⟩, total_left_fillRoutes n c.routes⟩
  · unfold applyLoad
    rw [if_neg h0, if_pos h]
    rfl
  · have taken : min rest (c.capacity - (c.lotTotal + c.pending)) = rest := by omega
    have claim : min n c.pending + rest = n := by omega
    unfold applyLoad
    rw [if_neg h0, if_neg (not_or.2 ⟨h1, h2⟩), loadPlates_eq hc (.inl h)]
    show loadClaim k n cls (min n c.pending + min rest (c.capacity - (c.lotTotal + c.pending))) c w s.day.clock
      (if min rest (c.capacity - (c.lotTotal + c.pending)) < rest then _ else s) = _
    rw [taken, claim, if_neg (Nat.lt_irrefl _)]
  · intro room
    have full : c.pending ≤ n := by omega
    have taken : min rest (c.capacity - (c.lotTotal + c.pending)) = room := by omega
    have short : room < rest := by omega
    unfold applyLoad
    rw [if_neg h0, if_neg (not_or.2 ⟨h1, h2⟩), loadPlates_eq hc (.inr full)]
    show loadClaim k n cls (min n c.pending + min rest (c.capacity - (c.lotTotal + c.pending))) c w s.day.clock
      (if min rest (c.capacity - (c.lotTotal + c.pending)) < rest then
        raise .wareMismatch k rest (min rest (c.capacity - (c.lotTotal + c.pending))) s else s) = _
    rw [taken, if_pos short, Nat.min_eq_right full]

/-- O27's clauses of a draw delta. -/
theorem draw_clauses (k n : Nat) (s : State) (hn : 1 ≤ n) :
    let lots := (s.cab k).lotTotal
    let v := if lots < n then raise .wareMismatch k n lots s else s
    ((s.cab k).cls = none → applyDraw k n s = v) ∧
      ∀ cls, (s.cab k).cls = some cls →
        let w := s.ware cls
        let m := min (min n lots) w.inWarmer
        (m = 0 → applyDraw k n s = v) ∧
          (0 < m → applyDraw k n s = callRoutes (drawPlates k cls m (s.serving k)
            (v.setWare cls { w with inWarmer := w.inWarmer - m, plated := w.plated + m }))) := by
  intro lots v
  have h0 : ¬ n = 0 := by omega
  have hcab : v.cab k = s.cab k := mismatch_cab ..
  have hserving : v.serving k = s.serving k := by
    show (if lots < n then raise .wareMismatch k n lots s else s).serving k = _
    split <;> rfl
  have draw : applyDraw k n s =
      match (v.cab k).cls with
      | none => v
      | some cls =>
        let m := min (min n lots) (v.ware cls).inWarmer
        if m = 0 then v else callRoutes (drawPlates k cls m (v.serving k) (transfer cls .inWarmer .plated m v)) := by
    unfold applyDraw
    exact if_neg h0
  rw [draw, hcab]
  refine ⟨fun hc => by rw [hc], fun cls hc => ?_⟩
  intro w m
  have hware : v.ware cls = w := mismatch_ware ..
  rw [hc]
  dsimp only
  rw [hware, hserving]
  refine ⟨fun hm => if_pos hm, fun hm => ?_⟩
  rw [if_neg (by omega)]
  unfold transfer
  rw [hware]
  rw [move_inWarmer_plated (Nat.min_le_right _ _)]

/-- O27's clauses of a single draw. -/
theorem singleDraw_clauses (k cls n : Nat) (s : State) :
    let free := s.freePlates k
    let house := fun (v : State) => v.setWare cls { v.ware cls with house := (v.ware cls).house + 1 }
    let plate := fun (v : State) => v.setCab k { v.cab k with lots := takeLots (v.cab k).lots 1 }
    (drawPlates k cls 0 none s = s ∧
      drawPlates k cls (n + 1) none s = drawPlates k cls n none (singleDraw k cls none s) ∧
      singleDraw k cls none s =
        evaluateAll (if 0 < free then house (plate s) else refill cls (robYoungest k (house (plate s))))) ∧
      ∀ c,
        let x := s.course c
        let begun :=
          if x.state = .ready then
            raise .courseState c CourseState.plating.code CourseState.ready.code
              ((unbooked c s).setCourse c { x with state := .plating })
          else s
        let v := (plate begun).setCourse c { begun.course c with plated := x.plated + 1 }
        let settled :=
          if 0 < s.earmark c k then setEarmark c k (s.earmark c k - 1) v
          else if 0 < free ∧ 0 < x.owed then setOwed c (x.owed - 1) v
          else
            match s.otherEarmark c k with
            | some j =>
              let lower := setEarmark c j (s.earmark c j - 1) v
              if 0 < free then walkOwing j lower else refill cls (walkOwing j (robYoungest k lower))
            | none => refill cls (robYoungest k (setOwed c (x.owed - 1) v))
        let t := singleDraw k cls (some c) s
        drawPlates k cls 0 (some c) s = s ∧
          drawPlates k cls (n + 1) (some c) s =
            drawPlates k cls n (if (t.course c).state = .served then t.serving k else some c) t ∧
          (c < s.courses.length →
            t = evaluateAll
              (if x.plated + 1 = x.covers then
                raise .courseState c CourseState.served.code (settled.course c).state.code
                  (settled.setCourse c { settled.course c with state := .served })
               else settled)) := by
  intro free house plate
  refine ⟨⟨rfl, rfl, rfl⟩, fun c => ?_⟩
  intro x begun v settled t
  refine ⟨rfl, rfl, fun hc => ?_⟩
  have hv : v = platedOne c k s := by
    show (plate begun).setCourse c { begun.course c with plated := x.plated + 1 } = _
    rw [show begun = startPlating c s from (startPlating_eq c s).symm]
    rfl
  have hsettled : settled = settleDraw c k cls free v := by
    have earmark : ∀ j, v.earmark c j = s.earmark c j := fun j => by
      rw [hv]
      exact earmark_congr (platedOne_earmarks c k s) c j
    have other : v.otherEarmark c k = s.otherEarmark c k := by
      rw [hv]
      exact otherEarmark_congr (platedOne_earmarks c k s) c k
    have owed : (v.course c).owed = x.owed := by rw [hv, platedOne_course hc, startPlating_course hc]
    unfold settleDraw dropEarmark
    simp only [earmark, other, owed]
    rfl
  rw [hsettled, hv]
  exact singleDraw_course hc

/-- O27's clauses of the course served and of the earmarks that give way. -/
theorem serving_clauses (k : Nat) (s : State) :
    let seq := fun (c : Nat) => (s.course c).fireSeq.getD 0
    let holds := fun (c j : Nat) => ∃ e ∈ s.earmarks, e.course = c ∧ e.cab = j
    let serves := fun (c : Nat) =>
      holds c k ∧ ((s.course c).state = .ready ∨ (s.course c).state = .plating) ∧
        (s.cab k).cls = some (s.course c).cls
    (s.serving k = none ↔ ∀ c, ¬serves c) ∧
      (∀ c, s.serving k = some c → serves c ∧ ∀ d, serves d → seq c ≤ seq d) ∧
      ((∀ c, ¬holds c k) → robYoungest k s = s) ∧
      ((∃ c, holds c k) → ∃ c, holds c k ∧ (∀ d, holds d k → seq d ≤ seq c) ∧
        robYoungest k s = setOwed c ((s.course c).owed + 1) (setEarmark c k (s.earmark c k - 1) s)) ∧
      ∀ c, (s.otherEarmark c k = none ↔ ∀ j, j ≠ k → ¬holds c j) ∧
        ∀ j, s.otherEarmark c k = some j → j ≠ k ∧ holds c j ∧ ∀ i, i ≠ k → holds c i → j ≤ i := by
  intro seq holds serves
  have hserves : ∀ c, serves c ↔ Serves s c k := fun c => and_congr_left' mem_holdersAt.symm
  refine ⟨?_, fun c h => ?_, fun h => robYoungest_none ?_, fun ⟨d, hd⟩ => ?_, fun c =>
    ⟨otherEarmark_eq_none_iff c k s, fun j h => ?_⟩⟩
  · simp only [hserves]
    exact serving_eq_none_iff k s
  · simp only [hserves]
    exact serving_eq_some h
  · exact List.eq_nil_iff_forall_not_mem.2 fun c hc => h c (mem_holdersAt.1 hc)
  · obtain ⟨c, hc, last, e⟩ := robYoungest_some (List.ne_nil_of_mem (mem_holdersAt.2 hd))
    exact ⟨c, mem_holdersAt.1 hc, fun d hd => last d (mem_holdersAt.2 hd), e⟩
  · obtain ⟨hold, other, least⟩ := otherEarmark_eq_some h
    refine ⟨other, hold, ?_⟩
    rintro _ hi ⟨e, he, hec, rfl⟩
    exact least e he hec hi

/-- O27's clauses of the lots. -/
theorem takeLots_clauses (l : Lot) (ls : List Lot) (n : Nat) :
    takeLots [] n = [] ∧ takeLots (l :: ls) 0 = l :: ls ∧
      (1 ≤ n → l.count ≤ n → takeLots (l :: ls) n = takeLots ls (n - l.count)) ∧
      (n < l.count → takeLots (l :: ls) n = { l with count := l.count - n } :: ls) := by
  refine ⟨rfl, rfl, fun h1 h2 => ?_, fun h => ?_⟩
  · rw [takeLots, if_neg (by omega), if_pos h2]
  · rw [takeLots]
    split
    · rename_i h0
      rw [h0]
      rfl
    · rw [if_neg (by omega)]

/-- O27's clauses of a route that plates have gone into. -/
theorem settleRoute_clauses (k : Nat) (old new : Route) (s : State) :
    let x := s.line new.line
    let v :=
      if new.loaded = old.loaded then s
      else s.setLine new.line { x with
        exits := x.exits.map fun r =>
          if r.tag = new.tag then { r with loaded := r.loaded + (new.loaded - old.loaded) } else r }
    let w := unrouted new.line new.tag (some k) v
    (new.loaded < new.count → settleRoute k old new s = v) ∧
      (new.count ≤ new.loaded → settleRoute k old new s = backpressure new.line (raise .rackLeft new.line new.tag k
        (w.setLine new.line { w.line new.line with
          exits := (w.line new.line).exits.filter fun r => r.tag ≠ new.tag }))) := by
  intro x v w
  have settle : settleRoute k old new s = if new.left = 0 then leaveExit new.line new.tag (leftLoaded k) w else v := rfl
  rw [settle]
  refine ⟨fun h => if_neg (mt (left_eq_zero_iff new).1 (Nat.not_le.2 h)), fun h => ?_⟩
  rw [if_pos ((left_eq_zero_iff new).2 h), leftLoaded_eq, leaveExit_eq]

/-- Settles O27: a load within the room, or one that fills every route, gives up none. -/
theorem loadsAndDrawsMovePlates : Obligations.LoadsAndDrawsMovePlates :=
  ⟨load_clauses, draw_clauses, singleDraw_clauses, serving_clauses, takeLots_clauses, fun _ _ _ => ⟨rfl, rfl⟩,
    settleRoute_clauses⟩

end Sys2Proof.Certificates
end

section
/-! SUPPORT. The exit section's commands in the words of their rules (R87, R88). -/

namespace Sys2Proof.Machine

variable {s : State}

theorem hasTag_iff (x : Line) (tag : Nat) :
    x.hasTag tag = true ↔ ∃ r ∈ x.staged ++ x.inside ++ x.exits, r.tag = tag := by
  unfold Line.hasTag Line.racks
  simp only [List.any_eq_true, decide_eq_true_eq]

theorem exitRack_tag {x : Line} {tag : Nat} {r : Rack} (h : x.exitRack tag = some r) : r.tag = tag :=
  of_decide_eq_true (List.find?_some (p := fun y : Rack => decide (y.tag = tag)) h)

theorem hasTag_of_exitRack {x : Line} {tag : Nat} {r : Rack} (h : x.exitRack tag = some r) : x.hasTag tag = true :=
  (hasTag_iff x tag).2 ⟨r, List.mem_append_right _ (List.mem_of_find?_eq_some h), exitRack_tag h⟩

theorem hasTag_eq_false {x : Line} {tag : Nat} (h : ∀ r ∈ x.staged ++ x.inside ++ x.exits, r.tag ≠ tag) :
    x.hasTag tag = false :=
  Bool.eq_false_iff.2 fun e => by
    obtain ⟨r, hr, g⟩ := (hasTag_iff x tag).1 e
    exact h r hr g

/-- RACK_RELEASE of a rack that stands in the exit section. -/
theorem rackReleaseBody_some {l tag action : Nat} {r : Rack} (h : (s.line l).exitRack tag = some r) :
    rackReleaseBody l tag action s = checked
      [(decide (l < 2) && isFlag action, .range), ((s.line l).hasTag tag, .notFound),
        (inDay s (if action = 0 then [.opening, .service] else openDays) && r.reason.isSome, .badState)]
      (fun s =>
        let t := finish (callRoute l
          (if action = 0 then backpressure l (restage l r s)
           else leaveExit l tag leftSoiled (transfer r.cls .held .soiled r.count s)))
        okWith (be8 (t.line l).occupancy) t) s := by
  unfold rackReleaseBody
  rw [h]

/-- The checks of RACK_RELEASE, whatever stands in the exit section. -/
theorem rackReleaseBody_checks (l tag action : Nat) (s : State) : ∃ f, rackReleaseBody l tag action s = checked
    [(decide (l < 2) && isFlag action, .range), ((s.line l).hasTag tag, .notFound),
      (inDay s (if action = 0 then [.opening, .service] else openDays) &&
        ((s.line l).exitRack tag).any (·.reason.isSome), .badState)] f s := by
  cases h : (s.line l).exitRack tag with
  | none =>
    unfold rackReleaseBody
    rw [h]
    exact ⟨_, rfl⟩
  | some r => exact ⟨_, rackReleaseBody_some h⟩

/-- RACK_CLEAR of a rack that stands in the exit section. -/
theorem rackClearBody_some {l tag : Nat} {r : Rack} (h : (s.line l).exitRack tag = some r) :
    rackClearBody l tag s = checked
      [(decide (l < 2), .range), ((s.line l).hasTag tag, .notFound), (inDay s openDays && r.reason.isNone, .badState)]
      (fun s => okWith (be8 (r.count - r.loaded))
        (finish (callRoute l (leaveExit l tag leftCleared (unrouted l tag r.dest s))))) s := by
  unfold rackClearBody
  rw [h]
  unfold unrouted
  rfl

/-- The checks of RACK_CLEAR, whatever stands in the exit section. -/
theorem rackClearBody_checks (l tag : Nat) (s : State) : ∃ f, rackClearBody l tag s = checked
    [(decide (l < 2), .range), ((s.line l).hasTag tag, .notFound),
      (inDay s openDays && ((s.line l).exitRack tag).any (·.reason.isNone), .badState)] f s := by
  cases h : (s.line l).exitRack tag with
  | none =>
    unfold rackClearBody
    rw [h]
    exact ⟨_, rfl⟩
  | some r => exact ⟨_, rackClearBody_some h⟩

/-- A rack staged again, as it was announced. -/
def Rack.announced (r : Rack) : Rack := ⟨r.tag, r.cls, r.count, r.fn, none, none, 0, none, none, 0, false⟩

theorem unrouted_line (l tag : Nat) (d : Option Nat) (s : State) (j : Nat) :
    (unrouted l tag d s).line j = s.line j := by
  cases d <;> rfl

theorem restage_eq {l : Nat} (r : Rack) (hl : l < s.lines.length) : restage l r s =
    (carried r .held .washing s).setLine l { s.line l with
      exits := (s.line l).exits.filter (·.tag ≠ r.tag), staged := (s.line l).staged ++ [r.announced] } := by
  have e : restage l r s =
      let t := (carried r .held .washing s).setLine l { s.line l with exits := (s.line l).exits.filter (·.tag ≠ r.tag) }
      t.setLine l { t.line l with staged := (t.line l).staged ++ [r.announced] } := rfl
  rw [e]
  dsimp only
  rw [State.line_setLine _ _ _ (show l < (carried r .held .washing s).lines.length from hl), State.setLine_setLine]

theorem inDay_staging (h1 : s.day.state ≠ .lockout) (h2 : s.day.state ≠ .closing) :
    inDay s [.opening, .service] = true := by
  unfold inDay
  revert h1 h2
  cases s.day.state <;> decide

theorem clear_eq (l tag : Nat) (d : Option Nat) (s : State) : leaveExit l tag leftCleared (unrouted l tag d s) =
    backpressure l (raise .rackLeft l tag 0x01FF ((unrouted l tag d s).setLine l { s.line l with
      exits := (s.line l).exits.filter fun y => y.tag ≠ tag })) := by
  rw [leaveExit_eq, unrouted_line]
  rfl

/-- The watermarks, the routing pass that is called for and the step's end change what a step's end changes. -/
theorem settled_floor (l : Nat) (w : State) : Floor w (finish (callRoute l (backpressure l w))) :=
  (Floor.stable w).finish ((Floor.stable w).toHush.callRoute l ((Floor.stable w).toQuiet.backpressure l (Floor.refl w)))

/-- A route that has ended stands in its cabinet's list no more. -/
theorem unrouted_routes {l tag k : Nat} (hk : k < s.cabs.length) :
    ∀ y ∈ ((unrouted l tag (some k) s).cab k).routes, ¬ (y.line = l ∧ y.tag = tag) := by
  unfold unrouted
  dsimp only
  rw [State.cab_setCab _ _ _ hk]
  intro y hy
  simpa [imp_iff_not_or] using (List.mem_filter.1 hy).2

end Sys2Proof.Machine

namespace Sys2Proof.Certificates

open Sys2Proof.Machine

/-- O32's clauses of RACK_RELEASE. -/
theorem rackRelease_clauses (p : Port) (l tag action : Nat) (s : State) (sized : Sized s) (hl : l < 2)
    (ha : Admitted (.rackRelease p l tag action) p s) (hf : action < 2) :
    let i := Instr.rackRelease p l tag action
    let u := before i p s
    let x := u.line l
    let left := x.exits.filter fun y => y.tag ≠ tag
    let found := x.exits.find? fun y => y.tag = tag
    (∀ r why, found = some r → r.reason = some why →
      let restaged := (carried r .held .washing u).setLine l
        { x with
          exits := left,
          staged := x.staged ++ [⟨r.tag, r.cls, r.count, r.fn, none, none, 0, none, none, 0, false⟩] }
      let soiled := raise .rackLeft l tag 0x02FF ((carried r .held .soiled u).setLine l { x with exits := left })
      let executes := fun (w : State) =>
        ∃ t, Executes i p s (be8 (t.line l).exits.length) t ∧ t = finish (callRoute l (backpressure l w)) ∧ Floor w t
      (action = 0 → s.day.state ≠ .closing → executes restaged) ∧ (action = 1 → executes soiled) ∧
        (action = 0 → s.day.state = .closing → RefusedWith i p s .badState)) ∧
      ((∀ r ∈ x.staged ++ x.inside ++ x.exits, r.tag ≠ tag) → RefusedWith i p s .notFound) ∧
      ((∃ r ∈ x.staged ++ x.inside ++ x.exits, r.tag = tag) → (∀ r, found = some r → r.reason = none) →
        RefusedWith i p s .badState) := by
  intro i u x left found
  have hlen : l < u.lines.length := by
    rw [before_lines, sized.lines]
    exact hl
  have check : (decide (l < 2) && isFlag action) = true := by simp [isFlag, hl, hf]
  obtain ⟨f, hchecks⟩ := rackReleaseBody_checks l tag action u
  refine ⟨fun r why hr hw => ?_, fun h => ?_, fun h1 h2 => ?_⟩
  · obtain rfl : r.tag = tag := exitRack_tag hr
    have tagged := hasTag_of_exitRack hr
    have held : r.reason.isSome = true := by rw [hw]; rfl
    intro restaged soiled executes
    have run : ∀ w, inDay u (if action = 0 then [.opening, .service] else openDays) = true →
        (if action = 0 then backpressure l (restage l r u)
          else leaveExit l r.tag leftSoiled (transfer r.cls .held .soiled r.count u)) = backpressure l w → executes w :=
      fun w hd e => ⟨_, Executes.of_checks rfl ha (rackReleaseBody_some hr)
        ((firstFailure_tail check).trans ((firstFailure_tail tagged).trans (firstFailure_tail (by rw [hd, held]; rfl))))
        (by rw [e]; rfl), rfl, settled_floor l w⟩
    refine ⟨fun h0 hd => run _ ?_ ?_, fun h1 => run _ ?_ ?_, fun h0 hd => RefusedWith.of_checks rfl ha hchecks
      ((firstFailure_tail check).trans ((firstFailure_tail tagged).trans (firstFailure_head ?_)))⟩
    · rw [if_pos h0]
      exact inDay_staging (by simpa [u] using ha.notLockout rfl rfl) (by simpa [u] using hd)
    · rw [if_pos h0, restage_eq r hlen]
      rfl
    · rw [if_neg (by omega)]
      exact inDay_openDays (by simpa [u] using ha.notLockout rfl rfl)
    · rw [if_neg (by omega)]
      rfl
    · simp [h0, inDay, u, hd]
  · exact RefusedWith.of_checks rfl ha hchecks
      ((firstFailure_tail check).trans (firstFailure_head (hasTag_eq_false h)))
  · refine RefusedWith.of_checks rfl ha hchecks ((firstFailure_tail check).trans
      ((firstFailure_tail ((hasTag_iff x tag).2 h1)).trans (firstFailure_head ?_)))
    have free : (x.exitRack tag).any (·.reason.isSome) = false := by
      cases e : x.exitRack tag with
      | none => rfl
      | some r => simp [h2 r e]
    rw [free, Bool.and_false]

/-- O32's clauses of RACK_CLEAR. -/
theorem rackClear_clauses (p : Port) (l tag : Nat) (s : State) (sized : Sized s) (hl : l < 2)
    (ha : Admitted (.rackClear p l tag) p s) :
    let i := Instr.rackClear p l tag
    let u := before i p s
    let x := u.line l
    let left := x.exits.filter fun y => y.tag ≠ tag
    let found := x.exits.find? fun y => y.tag = tag
    (∀ r, found = some r → r.reason = none →
      let w := raise .rackLeft l tag 0x01FF ((unrouted l tag r.dest u).setLine l { x with exits := left })
      ∃ t, Executes i p s (be8 (r.count - r.loaded)) t ∧ t = finish (callRoute l (backpressure l w)) ∧ Floor w t ∧
        ∀ k, k < 24 → r.dest = some k → ∀ y ∈ (w.cab k).routes, ¬(y.line = l ∧ y.tag = tag)) ∧
      ((∀ r ∈ x.staged ++ x.inside ++ x.exits, r.tag ≠ tag) → RefusedWith i p s .notFound) ∧
      ((∃ r ∈ x.staged ++ x.inside ++ x.exits, r.tag = tag) → (∀ r, found = some r → r.reason ≠ none) →
        RefusedWith i p s .badState) := by
  intro i u x left found
  have check : decide (l < 2) = true := decide_eq_true hl
  have hd : inDay u openDays = true := inDay_openDays (by simpa [u] using ha.notLockout rfl rfl)
  obtain ⟨f, hchecks⟩ := rackClearBody_checks l tag u
  refine ⟨fun r hr hw => ?_, fun h => ?_, fun h1 h2 => ?_⟩
  · intro w
    have tagged := hasTag_of_exitRack hr
    refine ⟨_, Executes.of_checks rfl ha (rackClearBody_some hr)
        ((firstFailure_tail check).trans ((firstFailure_tail tagged).trans (firstFailure_tail (by rw [hd, hw]; rfl)))) ?_,
      rfl, settled_floor l w, fun k hk hdest => ?_⟩
    · rw [clear_eq]
    · show ∀ y ∈ ((unrouted l tag r.dest u).cab k).routes, _
      rw [hdest]
      exact unrouted_routes (by rw [before_cabs, sized.cabs]; exact hk)
  · exact RefusedWith.of_checks rfl ha hchecks
      ((firstFailure_tail check).trans (firstFailure_head (hasTag_eq_false h)))
  · refine RefusedWith.of_checks rfl ha hchecks ((firstFailure_tail check).trans
      ((firstFailure_tail ((hasTag_iff x tag).2 h1)).trans (firstFailure_head ?_)))
    have held : (x.exitRack tag).any (·.reason.isNone) = false := by
      cases e : x.exitRack tag with
      | none => rfl
      | some r => simpa using Option.isSome_iff_ne_none.2 (h2 r e)
    rw [held, Bool.and_false]

/-- Settles O32: both commands turn on the rack of the tag in the exit section. -/
theorem rackReleaseAndClear : Obligations.RackReleaseAndClear := fun p l tag action s sized hl =>
  ⟨rackRelease_clauses p l tag action s sized hl, rackClear_clauses p l tag s sized hl⟩

end Sys2Proof.Certificates
end

section
/-! SUPPORT. The close of the day in the words of its rules (R178, R179). -/

namespace Sys2Proof.Machine

variable {s : State} {P : State → Prop}

/-! ### One number after another -/

/-- What each number establishes, and no other undoes, holds of all of them at the end. -/
theorem forEach_establishes {Inv : State → Prop} {Q : Nat → State → Prop} {D : Nat → Prop}
    {f : Nat → State → State} (inv : ∀ k {t}, Inv t → Inv (f k t)) (own : ∀ k {t}, D k → Inv t → Q k (f k t))
    (other : ∀ k j {t}, j ≠ k → Q j t → Q j (f k t)) :
    ∀ (l : List Nat) {t : State}, Inv t → ∀ j, D j → j ∈ l ∨ Q j t → Q j (forEach l f t)
  | [], _, _, _, _, h => h.resolve_left List.not_mem_nil
  | k :: l, t, ht, j, hj, h => by
    refine forEach_establishes inv own other l (t := f k t) (inv k ht) j hj ?_
    by_cases e : j = k
    · subst e
      exact .inr (own j hj ht)
    · exact (h.imp_left fun hm => (List.mem_cons.1 hm).resolve_left e).imp_right (other k j e)

/-- What every number of the list keeps. -/
theorem forEach_keeps {f : Nat → State → State} : ∀ {l : List Nat}, (∀ k ∈ l, ∀ {t}, P t → P (f k t)) →
    ∀ {t : State}, P t → P (forEach l f t)
  | [], _, _, ht => ht
  | k :: _, hf, _, ht => forEach_keeps (fun i hi => hf i (List.mem_cons_of_mem k hi)) (hf k List.mem_cons_self ht)

theorem positions_eq_filter {α : Type} (q : α → Bool) (d : α) (l : List α) :
    positions q l = (List.range l.length).filter fun i => q (l.getD i d) := by
  have e : l.zipIdx = (List.range l.length).map fun i => (l.getD i d, i) := by
    refine List.ext_getElem (by simp) fun i h1 h2 => ?_
    have hi : i < l.length := by simpa using h2
    simp [hi]
  unfold positions
  rw [e, List.filter_map, List.map_map]
  exact List.map_id _

/-! ### Tables that an entry to OFF leaves alone -/

/-- `P` is kept by what an entry of cabinet `k` to OFF writes besides the judging of courses. -/
structure Apart (k : Nat) (P : State → Prop) : Prop extends Hush P where
  setCab : ∀ {s : State} x, P s → P (s.setCab k x)
  consumer : ∀ {s : State} c x, P s → P (s.setConsumer c x)
  setLine : ∀ {s : State} l x, P s → P (s.setLine l x)
  setWare : ∀ {s : State} c x, P s → P (s.setWare c x)

namespace Apart

variable {k : Nat} (h : Apart k P)
include h

theorem unrouteRack (l tag : Nat) (hs : P s) : P (unrouteRack l tag s) := h.callRoute l (h.setLine _ _ hs)

theorem cancelRoutes (hs : P s) : P (cancelRoutes k s) :=
  Hush.foldl (f := fun t (r : Route) => Machine.unrouteRack r.line r.tag t)
    (fun r _ ht => h.unrouteRack r.line r.tag ht) _
    (h.setCab _ hs)

theorem unload (hs : P s) : P (unload k s) := by
  unfold Machine.unload
  dsimp only
  split
  · exact hs
  · exact h.setWare _ _ (h.setCab _ hs)

theorem changeState (st : CabState) (u : Bool) (hs : P s) : P (changeState k st u s) := by
  unfold Machine.changeState
  dsimp only
  split
  · exact hs
  · have h1 := h.claimCab k u (h.raise .cabinetState k st.code (s.cab k).state.code (h.setCab ((s.cab k).enter st) hs))
    refine h.callClose (h.callRoutes ?_)
    split
    · exact h.releaseWarmer _ h1
    · split
      · exact h.evaluateAll (h.walkOwing _ h1)
      · exact h1

theorem enterOff (u : Bool) (hs : P s) : P (enterOff k u s) :=
  h.unload (h.cancelRoutes (h.setCab _ (h.changeState _ _ (h.callRestore (h.consumer _ _ hs)))))

theorem switchOff (u : Bool) (hs : P s) : P (switchOff k u s) := by
  unfold Machine.switchOff
  dsimp only
  split
  · exact h.enterOff u (h.setCab _ hs)
  · exact h.setCab _ hs

theorem removeStaged (l : Nat) (hs : P s) : P (removeStaged l s) :=
  Hush.foldl
    (f := fun t (r : Rack) => Machine.raise .rackLeft l r.tag leftClosed (transfer r.cls .washing .soiled r.count t))
    (fun _ _ ht => h.raise _ _ _ _ (h.setWare _ _ ht)) _ (h.setLine _ _ hs)

end Apart

theorem setConsumer_course (c : Nat) (x : Consumer) (s : State) (i : Nat) : (s.setConsumer c x).course i = s.course i := by
  unfold State.setConsumer
  dsimp only
  split <;> rfl

/-- A course, but for what it owes and whether it is READY. -/
theorem apart_course (k i : Nat) (y : Course) : Apart k fun t => CourseKeeps y (t.course i) where
  calls _ hs := hs
  freeCount _ hs := hs
  offer _ _ hs := hs
  course c x hx hs := by
    rw [State.course_setCourse_ite]
    split
    · rename_i e
      exact hs.trans (e.1 ▸ hx)
    · exact hs
  earmarks _ hs := hs
  paging _ _ hs := hs
  bus _ _ hs := hs
  setCab _ hs := hs
  consumer c x hs := by rwa [setConsumer_course]
  setLine _ _ hs := hs
  setWare _ _ hs := hs

/-- Another cabinet. -/
theorem apart_cab {k j : Nat} (hj : j ≠ k) (c : Cab) : Apart k fun t => t.cab j = c where
  calls _ hs := hs
  freeCount _ hs := hs
  offer _ _ hs := hs
  course _ _ _ hs := hs
  earmarks _ hs := hs
  paging _ _ hs := hs
  bus _ _ hs := hs
  setCab x hs := (State.cab_setCab_other _ _ _ x hj).trans hs
  consumer c x hs := (congrArg (·.getD j Cab.initial) (setConsumer_cabs c x _)).trans hs
  setLine _ _ hs := hs
  setWare _ _ hs := hs

/-! ### The courses of a close -/

theorem CourseKeeps.state_eq {x y : Course} (h : CourseKeeps x y) (h1 : x.state ≠ .fired) (h2 : x.state ≠ .ready) :
    y.state = x.state :=
  h.state.resolve_right fun g => g.elim (fun g => h1 g.1) fun g => h2 g.1

theorem cancelCourse_other {c i : Nat} (hi : i ≠ c) (s : State) :
    CourseKeeps (s.course i) ((cancelCourse c s).course i) := by
  have e : (cancelled c s).course i = s.course i := by
    unfold cancelled
    rw [State.course_setCourse_other _ _ _ _ hi, State.withEarmarks_course, ← removeBatch_eq_unbooked, removeBatch_course]
  have h := (givenOut_floor c s).course i
  rw [e] at h
  rw [cancelCourse_eq]
  exact h

theorem cancelCourse_own {c : Nat} (hc : c < s.courses.length) : ((cancelCourse c s).course c).state = .cancelled := by
  rw [cancelCourse_eq]
  exact (Gone.givenOut hc).state

theorem cancelCourses_sized (l : List Nat) (hs : Sized s) : Sized (forEach l cancelCourse s) :=
  (Hush.forEach (f := cancelCourse) (fun c _ ht => (Bedrock.work s).cancelCourse c ht) l (Bedrock.refl s)).sizes hs

theorem cancelCourse_sized (c : Nat) (hs : Sized s) : Sized (cancelCourse c s) := cancelCourses_sized [c] hs

theorem cancelCourses_own {l : List Nat} (hs : Sized s) {c : Nat} (hc : c < 32) (hl : c ∈ l) :
    ((forEach l cancelCourse s).course c).state = .cancelled :=
  forEach_establishes (Q := fun i t => (t.course i).state = .cancelled) (D := (· < 32))
    (fun k _ ht => cancelCourse_sized k ht)
    (fun _ _ hk ht => cancelCourse_own (by rw [ht.courses]; exact hk))
    (fun k j t hj hQ => by
      have h := (cancelCourse_other hj t).state_eq (by rw [hQ]; decide) (by rw [hQ]; decide)
      exact h.trans hQ)
    l hs c hc (.inl hl)

theorem cancelCourses_other {l : List Nat} {c : Nat} (hl : c ∉ l) :
    CourseKeeps (s.course c) ((forEach l cancelCourse s).course c) :=
  forEach_keeps (P := fun t => CourseKeeps (s.course c) (t.course c))
    (fun k hk t ht => ht.trans (cancelCourse_other (fun (e : c = k) => hl (by rw [e]; exact hk)) t)) (CourseKeeps.refl _)

/-! ### The cabinets of a close -/

/-- DAY_CLOSE at one cabinet, as its rule puts it. -/
theorem switchOff_eq (k : Nat) (s : State) : switchOff k false s =
    if (s.cab k).state.on = true then enterOff k false (s.setCab k { s.cab k with wantedOn := false })
    else s.setCab k { s.cab k with wantedOn := false } := by
  have e : ((s.setCab k { s.cab k with wantedOn := false }).cab k).state = (s.cab k).state := by
    rw [State.cab_setCab_ite]
    split <;> rfl
  unfold switchOff
  dsimp only
  rw [e]

/-- The cabinet is not wanted on, and is not on. -/
def Down (k : Nat) (s : State) : Prop := (s.cab k).wantedOn = false ∧ (s.cab k).state.on = false

theorem switchOff_own {k : Nat} (hs : Sized s) (hk : k < 24) : Down k (switchOff k false s) := by
  have len : k < s.cabs.length := hs.cabs ▸ hk
  have own : (s.setCab k { s.cab k with wantedOn := false }).cab k = { s.cab k with wantedOn := false } :=
    State.cab_setCab _ _ _ len
  rw [switchOff_eq]
  unfold Down
  split
  · rename_i hon
    have hoff : ((s.setCab k { s.cab k with wantedOn := false }).cab k).state ≠ .off := fun e => by
      rw [own] at e
      rw [show (s.cab k).state = .off from e] at hon
      cases hon
    rw [(enterOff_records k false _ (by simpa using len) (by
      show k < s.power.consumers.length
      rw [hs.consumers]
      omega) hoff).1, own]
    exact ⟨rfl, rfl⟩
  · rename_i hon
    rw [own]
    exact ⟨rfl, Bool.eq_false_iff.2 hon⟩

theorem switchOff_sized (k : Nat) (hs : Sized s) : Sized (switchOff k false s) :=
  ((Bedrock.work s).switchOff k false (Bedrock.refl s)).sizes hs

theorem switchOffs_down (hs : Sized s) {k : Nat} (hk : k < 24) :
    Down k (forEach (List.range 24) (fun k t => switchOff k false t) s) :=
  forEach_establishes (Q := Down) (D := (· < 24)) (fun k _ ht => switchOff_sized k ht)
    (fun _ _ hk ht => switchOff_own ht hk)
    (fun k j t hj hQ => by
      have e := (apart_cab hj (t.cab j)).switchOff false (s := t) rfl
      unfold Down
      rw [e]
      exact hQ)
    _ hs k hk (.inl (List.mem_range.2 hk))

/-! ### The staged racks of a close -/

theorem removeStaged_eq (l : Nat) (s : State) : removeStaged l s = (s.line l).staged.foldl
    (fun t r => raise .rackLeft l r.tag 0x03FF (carried r .washing .soiled t))
    (s.setLine l { s.line l with staged := [] }) := rfl

theorem removeStaged_line (l : Nat) (s : State) (j : Nat) :
    (removeStaged l s).line j = (s.setLine l { s.line l with staged := [] }).line j :=
  Hush.foldl (P := fun t => t.line j = (s.setLine l { s.line l with staged := [] }).line j)
    (f := fun t (r : Rack) => raise .rackLeft l r.tag leftClosed (transfer r.cls .washing .soiled r.count t))
    (fun _ _ ht => ht) _ rfl

/-- The cabinets switched off and the staged racks gone, as a close leaves them before it tries to admit. -/
def emptied (s : State) : State :=
  removeStaged 1 (removeStaged 0 (forEach (List.range 24) (fun k t => switchOff k false t) s))

theorem closeDay_eq (s : State) : closeDay s =
    callClose (raise .dayClosing 0 s.unfired.length (total (s.lines.map fun l => l.staged.length))
      (dayToClosing (powerTry (emptied (forEach s.unfired cancelCourse s))))) := by
  unfold closeDay emptied
  rfl

theorem emptied_apart (h : ∀ k, Apart k P) (hs : P s) : P (emptied s) :=
  (h 0).removeStaged 1 ((h 0).removeStaged 0
    (Hush.forEach (f := fun k t => switchOff k false t) (fun k _ ht => (h k).switchOff false ht) _ hs))

theorem emptied_course (c : Nat) (s : State) : CourseKeeps (s.course c) ((emptied s).course c) :=
  emptied_apart (P := fun t => CourseKeeps (s.course c) (t.course c)) (fun k => apart_course k c _) (CourseKeeps.refl _)

theorem Work.emptied (h : Work P) (hs : P s) : P (emptied s) :=
  h.removeStaged 1 (h.removeStaged 0
    (Hush.forEach (f := fun k t => Machine.switchOff k false t) (fun k _ ht => h.switchOff k false ht) _ hs))

theorem Work.closed (h : Work P) (l : List Nat) (hs : P s) : P (Machine.emptied (forEach l Machine.cancelCourse s)) :=
  h.emptied (Hush.forEach (f := Machine.cancelCourse) (fun c _ ht => h.cancelCourse c ht) l hs)

theorem removeStaged_cab (l : Nat) (s : State) (k : Nat) : (removeStaged l s).cab k = s.cab k :=
  Hush.foldl (P := fun t => t.cab k = s.cab k)
    (f := fun t (r : Rack) => raise .rackLeft l r.tag leftClosed (transfer r.cls .washing .soiled r.count t))
    (fun _ _ ht => ht) _ rfl

theorem emptied_down (hs : Sized s) {k : Nat} (hk : k < 24) : Down k (emptied s) := by
  have h := switchOffs_down hs hk
  unfold emptied Down
  rw [removeStaged_cab, removeStaged_cab]
  exact h

theorem removeStaged_sized (l : Nat) (hs : Sized s) : Sized (removeStaged l s) :=
  ((Bedrock.work s).removeStaged l (Bedrock.refl s)).sizes hs

theorem removeStaged_staged (l : Nat) (hl : l < s.lines.length) : ((removeStaged l s).line l).staged = [] := by
  rw [removeStaged_line, State.line_setLine _ _ _ hl]

theorem emptied_staged (hs : Sized s) {l : Nat} (hl : l < 2) : ((emptied s).line l).staged = [] := by
  have h : Sized (forEach (List.range 24) (fun k t => switchOff k false t) s) :=
    Hush.forEach (f := fun k t => switchOff k false t) (fun k _ ht => switchOff_sized k ht) _ hs
  unfold emptied
  generalize forEach (List.range 24) (fun k t => switchOff k false t) s = t at h
  have h0 := removeStaged_sized 0 h
  obtain rfl | rfl : l = 0 ∨ l = 1 := by omega
  · rw [removeStaged_line, State.line_setLine_other _ _ _ _ (by decide)]
    exact removeStaged_staged 0 (by rw [h.lines]; decide)
  · exact removeStaged_staged 1 (by rw [h0.lines]; decide)

end Sys2Proof.Machine
end

section
/-! SUPPORT. DAY_CLOSE (R178), from what its walks leave. -/

namespace Sys2Proof.Machine

variable {s : State}

theorem Sized.before (hs : Sized s) (i : Instr) (p : Port) : Sized (before i p s) := by
  obtain ⟨h, e⟩ := before_eq i p s
  rw [e]
  exact hs.same rfl rfl rfl rfl rfl rfl rfl rfl rfl

/-- The courses that a close cancels. -/
theorem unfired_eq (hs : Sized s) : s.unfired =
    (List.range 32).filter fun c => (s.course c).state = .planned ∨ (s.course c).state = .armed := by
  unfold State.unfired
  rw [positions_eq_filter _ Course.initial, hs.courses]
  refine List.filter_congr fun c _ => ?_
  exact (Bool.decide_or _ _).symm

theorem dayToClosing_eq (s : State) : dayToClosing s = s.withDay { s.day with state := .closing } := rfl

/-- No course is fired, ready or plating. -/
theorem noneActive_iff (s : State) : (s.courses.all fun c => !c.state.active) = true ↔
    ¬ ∃ c ∈ s.courses, c.state = .fired ∨ c.state = .ready ∨ c.state = .plating := by
  have active : ∀ x : CourseState, x.active = true ↔ x = .fired ∨ x = .ready ∨ x = .plating := by
    intro x
    cases x <;> decide
  simp only [List.all_eq_true, Bool.not_eq_true', ← Bool.not_eq_true, active, not_exists, not_and]

theorem mem_courses (hs : Sized s) {c : Nat} (hc : c < 32) : s.course c ∈ s.courses := by
  have h : c < s.courses.length := hs.courses ▸ hc
  unfold State.course
  rw [List.getD_eq_getElem?_getD, List.getElem?_eq_getElem h]
  exact List.getElem_mem h

end Sys2Proof.Machine

namespace Sys2Proof.Certificates

open Sys2Proof.Machine

/-- O52's clauses of DAY_CLOSE. -/
theorem dayClose_clauses (p : Port) (s : State) (ha : Admitted (.dayClose p) p s) (sized : Sized s) :
    let i := Instr.dayClose p
    let u := before i p s
    let waiting := fun (x : Course) => x.state = .planned ∨ x.state = .armed
    let plating := ∃ c ∈ s.courses, c.state = .fired ∨ c.state = .ready ∨ c.state = .plating
    let slots := (List.range 32).filter fun c => waiting (s.course c)
    let racks := total (s.lines.map fun l => l.staged.length)
    let ended := forEach slots cancelCourse u
    let off := forEach (List.range 24) (fun k v =>
      let x := v.setCab k { v.cab k with wantedOn := false }
      if (v.cab k).state.on = true then enterOff k false x else x) ended
    let v := removeStaged 1 (removeStaged 0 off)
    let w := powerTry v
    (s.day.state = .service → ¬plating →
      ∃ t, Executes i p s (be8 slots.length ++ be8 racks) t ∧
        t = finish (callClose (raise .dayClosing 0 slots.length racks (w.withDay { w.day with state := .closing }))) ∧
        Bedrock u v ∧ Floor v w ∧
        Floor (raise .dayClosing 0 slots.length racks (w.withDay { w.day with state := .closing })) t ∧
        (∀ c, c < 32 → waiting (s.course c) → (v.course c).state = .cancelled) ∧
        (∀ c, c < 32 → ¬waiting (s.course c) → (v.course c).state = (s.course c).state) ∧
        (∀ k, k < 24 → (v.cab k).wantedOn = false ∧ (v.cab k).state.on = false) ∧
        ∀ l, l < 2 → (v.line l).staged = []) ∧
      (s.day.state ≠ .service ∨ plating → RefusedWith i p s .badState) := by
  intro i u waiting plating slots racks ended off v w
  have hu : Sized u := sized.before i p
  have hslots : u.unfired = slots := by
    rw [unfired_eq hu]
    exact List.filter_congr fun c _ => by rw [before_course]
  have hracks : total (u.lines.map fun l => l.staged.length) = racks := by rw [before_lines]
  have hoff : off = forEach (List.range 24) (fun k t => switchOff k false t) ended := by
    show forEach _ _ ended = _
    congr 1
    funext k t
    exact (switchOff_eq k t).symm
  have hb : dayCloseBody u = checked [(inDay u [.service] && u.courses.all fun c => !c.state.active, .badState)]
      (fun s => okWith (be8 s.unfired.length ++ be8 (total (s.lines.map fun l => l.staged.length))) (finish (closeDay s)))
      u := rfl
  have check : (inDay u [.service] && u.courses.all fun c => !c.state.active) = true ↔
      s.day.state = .service ∧ ¬ plating := by
    rw [Bool.and_eq_true, noneActive_iff, before_courses]
    simp [inDay, u, plating]
  refine ⟨fun hd hp => ?_, fun h =>
    RefusedWith.of_checks rfl ha hb (firstFailure_head (Bool.eq_false_iff.2 fun e => ?_))⟩
  · have hended : Sized ended := cancelCourses_sized slots hu
    have hv : v = emptied ended := by
      show removeStaged 1 (removeStaged 0 off) = _
      rw [hoff]
      rfl
    have hcourse : ∀ c, CourseKeeps (ended.course c) (v.course c) := fun c => by
      rw [hv]
      exact emptied_course c ended
    have hclosed : closeDay u =
        callClose (raise .dayClosing 0 slots.length racks (w.withDay { w.day with state := .closing })) := by
      rw [closeDay_eq, hslots, hracks, show emptied (forEach slots cancelCourse u) = v from hv.symm]
      exact congrArg (fun t => callClose (raise .dayClosing 0 slots.length racks t)) (dayToClosing_eq w)
    have hbed : Bedrock u v := by
      rw [hv]
      exact (Bedrock.work u).closed slots (Bedrock.refl u)
    refine ⟨_, Executes.of_checks rfl ha hb ?_ ?_, rfl, hbed, (Floor.stable v).powerTry (Floor.refl v), ?_,
      fun c hc hw => ?_, fun c hc hw => ?_, fun k hk => ?_, fun l hl => ?_⟩
    · exact firstFailure_tail (check.2 ⟨hd, hp⟩)
    · rw [hslots, hracks, hclosed]
    · exact (Floor.stable _).finish ((Floor.stable _).toHush.callClose (Floor.refl _))
    · have hcan : (ended.course c).state = .cancelled :=
        cancelCourses_own hu hc (List.mem_filter.2 ⟨List.mem_range.2 hc, decide_eq_true hw⟩)
      exact ((hcourse c).state_eq (by rw [hcan]; decide) (by rw [hcan]; decide)).trans hcan
    · have hmem := mem_courses sized hc
      have hkeep : CourseKeeps (s.course c) (v.course c) := by
        have h := cancelCourses_other (s := u) (l := slots) (c := c)
          fun h => hw (of_decide_eq_true (List.mem_filter.1 h).2)
        rw [before_course] at h
        exact h.trans (hcourse c)
      exact hkeep.state_eq (fun e => hp ⟨_, hmem, .inl e⟩) fun e => hp ⟨_, hmem, .inr (.inl e)⟩
    · rw [hv]
      exact emptied_down hended hk
    · rw [hv]
      exact emptied_staged hended hl
  · obtain ⟨hd, hp⟩ := check.1 e
    exact h.elim (fun g => g hd) hp

end Sys2Proof.Certificates
end

section
/-! SUPPORT. The completion of a close: racks of the exit sections, boosters, OFFLINE warmers (R179). -/

namespace Sys2Proof.Machine

variable {s : State} {P : State → Prop}

/-! ### One rack, and one line -/

theorem closeRack_held {r : Rack} (h : r.reason ≠ none) (l : Nat) (s : State) : closeRack l r s =
    backpressure l (raise .rackLeft l r.tag 0x03FF ((carried r .held .soiled s).setLine l { s.line l with
      exits := (s.line l).exits.filter fun y => y.tag ≠ r.tag })) := by
  unfold closeRack
  cases hr : r.reason with
  | none => exact absurd hr h
  | some why => rfl

theorem closeRack_free {r : Rack} (h : r.reason = none) (l : Nat) (s : State) : closeRack l r s =
    backpressure l (raise .rackLeft l r.tag 0x03FF ((unrouted l r.tag r.dest s).setLine l { s.line l with
      exits := (s.line l).exits.filter fun y => y.tag ≠ r.tag })) := by
  unfold closeRack
  rw [h]
  cases r.dest <;> rfl

/-- What the completion reads of a cabinet. -/
def Cab.standing (c : Cab) : CabKind × CabState × List Lot := (c.kind, c.state, c.lots)

/-- `P` is kept by what the end of line `l` writes: the line, its booster's consumer, wares, routes and notices. -/
structure LineEnd (l : Nat) (P : State → Prop) : Prop where
  calls : ∀ x {s : State}, P s → P (s.withCalls x)
  offer : ∀ q n {s : State}, P s → P (offerWhere q n s)
  line : ∀ x {s : State}, P s → P (s.setLine l x)
  booster : ∀ x {s : State}, P s → P (s.setConsumer (24 + l) x)
  ware : ∀ c x {s : State}, P s → P (s.setWare c x)
  routes : ∀ k x {s : State}, x.standing = (s.cab k).standing → P s → P (s.setCab k x)

namespace LineEnd

variable {l : Nat} (h : LineEnd l P)
include h

theorem leaveExit (tag why : Nat) (hs : P s) : P (leaveExit l tag why s) := by
  have h1 : P (raise .rackLeft l tag why (withExits l ((s.line l).exits.filter (·.tag ≠ tag)) s)) :=
    h.offer _ _ (h.line _ hs)
  unfold Machine.leaveExit backpressure
  dsimp only
  split
  · exact h.line _ h1
  · split
    · exact h.line _ h1
    · exact h1

theorem closeRack (r : Rack) (hs : P s) : P (closeRack l r s) := by
  unfold Machine.closeRack
  dsimp only
  split
  · exact h.leaveExit _ _ (h.ware _ _ hs)
  · exact h.leaveExit _ _ (h.routes _ _ rfl hs)
  · exact h.leaveExit _ _ hs

theorem closeRacks (rs : List Rack) (hs : P s) : P (rs.foldl (fun t r => Machine.closeRack l r t) s) :=
  Hush.foldl (f := fun t r => Machine.closeRack l r t) (fun r _ ht => h.closeRack r ht) rs hs

theorem closeLine (hs : P s) : P (closeLine l s) :=
  h.line _ (h.calls _ (h.booster _ (h.closeRacks _ hs)))

end LineEnd

theorem setConsumer_sized (c : Nat) (x : Consumer) (hs : Sized s) : Sized (s.setConsumer c x) :=
  (sized_full .a).toWide.toCalm.toWork.toStable.toQuiet.consumer c x hs

theorem LineEnd.sized (l : Nat) : LineEnd l Sized where
  calls _ _ hs := hs.same rfl rfl rfl rfl rfl rfl rfl rfl rfl
  offer _ _ _ hs := hs.same rfl rfl rfl rfl rfl rfl rfl rfl rfl
  line _ _ hs := hs.setLine _ _
  booster _ _ hs := setConsumer_sized _ _ hs
  ware _ _ _ hs := hs.setWare _ _
  routes _ _ _ _ hs := hs.setCab _ _

/-- The cabinets stand as they stood, their routes aside. -/
theorem LineEnd.standing (l : Nat) (x : List (CabKind × CabState × List Lot)) :
    LineEnd l fun t => t.cabs.map Cab.standing = x where
  calls _ _ hs := hs
  offer _ _ _ hs := hs
  line _ _ hs := hs
  booster c t hs := by rwa [setConsumer_cabs]
  ware _ _ _ hs := hs
  routes k y t hy hs := by
    refine Eq.trans ?_ hs
    show (t.cabs.set k y).map Cab.standing = _
    rw [List.map_set, hy]
    by_cases hk : k < t.cabs.length
    · have e : (t.cab k).standing = (t.cabs.map Cab.standing)[k]'(by simpa using hk) := by
        simp [State.cab, hk]
      rw [e, List.set_getElem_self]
    · exact List.set_eq_of_length_le (by simpa using hk)

theorem setConsumer_line_other {c j : Nat} (x : Consumer) (s : State) (h : j ≠ c - 24) :
    (s.setConsumer c x).line j = s.line j := by
  unfold State.setConsumer
  dsimp only
  split
  · rfl
  · exact State.line_setLine_other _ _ _ _ h

theorem setConsumer_exits (c j : Nat) (x : Consumer) (s : State) :
    ((s.setConsumer c x).line j).exits = (s.line j).exits := by
  unfold State.setConsumer
  dsimp only
  split
  · rfl
  · rw [State.line_setLine_ite]
    split
    · rename_i h
      rw [h.1]
      rfl
    · rfl

theorem setConsumer_consumer_other {c j : Nat} (x : Consumer) (s : State) (h : j ≠ c) :
    (s.setConsumer c x).consumer j = s.consumer j := by
  have e : (s.power.consumers.set c x).getD j Consumer.initial = s.power.consumers.getD j Consumer.initial := by
    rw [List.getD_eq_getElem?_getD, List.getElem?_set_ne h.symm, List.getD_eq_getElem?_getD]
  unfold State.setConsumer
  dsimp only
  split
  · exact e
  · exact e

/-- Another line, and its booster's consumer. -/
theorem LineEnd.other {l j : Nat} (hj : j ≠ l) (x : Line) (y : Consumer) :
    LineEnd l fun t => t.line j = x ∧ t.consumer (24 + j) = y where
  calls _ _ hs := hs
  offer _ _ _ hs := hs
  line z t hs := ⟨(State.line_setLine_other _ _ _ z hj).trans hs.1, hs.2⟩
  booster z t hs := ⟨(setConsumer_line_other z t (by omega)).trans hs.1,
    (setConsumer_consumer_other z t (by omega)).trans hs.2⟩
  ware _ _ _ hs := hs
  routes _ _ _ _ hs := hs

/-- A line whose close is complete. -/
structure Shut (l : Nat) (s : State) : Prop where
  exits : (s.line l).exits = []
  day : (s.line l).stops.day = true
  grant : (s.consumer (24 + l)).grant = 0
  request : (s.consumer (24 + l)).request = 0

theorem Shut.of {t : State} {l : Nat} (h : Shut l s) (h1 : t.line l = s.line l)
    (h2 : t.consumer (24 + l) = s.consumer (24 + l)) :
    Shut l t := ⟨h1 ▸ h.exits, h1 ▸ h.day, h2 ▸ h.grant, h2 ▸ h.request⟩

theorem closeRacks_exits (l : Nat) : ∀ (rs : List Rack) {s : State}, Sized s → l < 2 →
    ∀ y ∈ ((rs.foldl (fun t r => closeRack l r t) s).line l).exits,
      y ∈ (s.line l).exits ∧ ∀ r ∈ rs, y.tag ≠ r.tag
  | [], _, _, _ => fun y hy => ⟨hy, fun r hr => nomatch hr⟩
  | r :: rs, s, hs, hl => fun y hy => by
    obtain ⟨h1, h2⟩ := closeRacks_exits l rs ((LineEnd.sized l).closeRack r hs) hl y hy
    rw [closeRack_exits l r s (by rw [hs.lines]; exact hl)] at h1
    obtain ⟨h3, h4⟩ := List.mem_filter.1 h1
    exact ⟨h3, fun q hq => (List.mem_cons.1 hq).elim (fun e => e ▸ of_decide_eq_true h4) (h2 q)⟩

theorem closeLine_shut {l : Nat} (hs : Sized s) (hl : l < 2) : Shut l (closeLine l s) := by
  have h : ∀ t, Sized t → (t.line l).exits = [] →
      Shut l (withStops l { ((release (24 + l) t).line l).stops with day := true } (release (24 + l) t)) := fun t ht hx => by
    have len : l < (release (24 + l) t).lines.length := by
      rw [show (release (24 + l) t).lines.length = 2 from (setConsumer_sized _ _ ht).lines]
      exact hl
    have own : (release (24 + l) t).consumer (24 + l) = (t.consumer (24 + l)).released :=
      setConsumer_consumer _ _ _ (by rw [ht.consumers]; omega)
    have line : (withStops l { ((release (24 + l) t).line l).stops with day := true } (release (24 + l) t)).line l =
        { (release (24 + l) t).line l with stops := { ((release (24 + l) t).line l).stops with day := true } } :=
      State.line_setLine _ _ _ len
    refine ⟨?_, ?_, congrArg Consumer.grant own, congrArg Consumer.request own⟩
    · rw [line]
      exact (setConsumer_exits (24 + l) l _ t).trans hx
    · rw [line]
  refine h _ ((LineEnd.sized l).closeRacks _ hs) (List.eq_nil_iff_forall_not_mem.2 fun y hy => ?_)
  obtain ⟨h1, h2⟩ := closeRacks_exits l _ hs hl y hy
  exact h2 y h1 rfl

theorem closeLines_shut (hs : Sized s) {l : Nat} (hl : l < 2) : Shut l (closeLine 1 (closeLine 0 s)) := by
  have h0 : Sized (closeLine 0 s) := (LineEnd.sized 0).closeLine hs
  obtain rfl | rfl : l = 0 ∨ l = 1 := by omega
  · obtain ⟨h1, h2⟩ := (LineEnd.other (l := 1) (j := 0) (by decide) _ _).closeLine (s := closeLine 0 s) ⟨rfl, rfl⟩
    exact (closeLine_shut hs (by decide)).of h1 h2
  · exact closeLine_shut h0 (by decide)

/-! ### OFFLINE warmers -/

theorem offlinePlates_eq (s : State) : s.offlinePlates = total (((s.cabs.map Cab.standing).filter fun x =>
    decide (x.1 = .warmer) && decide (x.2.1 = .offline)).map fun x => total (x.2.2.map (·.count))) := by
  unfold State.offlinePlates
  rw [List.filter_map, List.map_map]
  rfl

theorem closeLines_offlinePlates (s : State) : (closeLine 1 (closeLine 0 s)).offlinePlates = s.offlinePlates := by
  have h := (LineEnd.standing 1 (s.cabs.map Cab.standing)).closeLine
    ((LineEnd.standing 0 (s.cabs.map Cab.standing)).closeLine rfl)
  rw [offlinePlates_eq, h, ← offlinePlates_eq]

theorem unload_lines (k : Nat) (s : State) : (unload k s).lines = s.lines := by
  unfold unload
  dsimp only
  split <;> rfl

theorem unload_cab_other {k j : Nat} (hj : j ≠ k) (s : State) : (unload k s).cab j = s.cab j :=
  (apart_cab hj (s.cab j)).unload (s := s) rfl

theorem unload_length (k : Nat) (s : State) : (unload k s).cabs.length = s.cabs.length := by
  unfold unload
  dsimp only
  split
  · rfl
  · exact List.length_set

theorem unloadOffline_lines (s : State) : (unloadOffline s).lines = s.lines ∧ (unloadOffline s).power = s.power :=
  Hush.forEach (P := fun t => t.lines = s.lines ∧ t.power = s.power) (fun k t ht => by
    split
    · exact ⟨(unload_lines k t).trans ht.1, (unload_power k t).trans ht.2⟩
    · exact ht) _ ⟨rfl, rfl⟩

/-- An OFFLINE warmer holds no lots. -/
def Unloaded (k : Nat) (s : State) : Prop := (s.cab k).state = .offline → (s.cab k).cls ≠ none → (s.cab k).lots = []

theorem unload_unloaded {k : Nat} (hk : k < s.cabs.length) : Unloaded k (unload k s) := by
  unfold Unloaded
  rw [unload_cab k s hk]
  exact fun _ hc => if_neg hc

theorem unloadOffline_unloaded (hs : Sized s) {k : Nat} (hk : k < 24) : Unloaded k (unloadOffline s) :=
  forEach_establishes (Inv := fun t => t.cabs.length = 24) (Q := Unloaded) (D := (· < 24))
    (fun k t ht => by
      split
      · rw [unload_length, ht]
      · exact ht)
    (fun k t hk ht => by
      split
      · exact unload_unloaded (ht ▸ hk)
      · rename_i h
        exact fun e => absurd e h)
    (fun k j t hj hQ => by
      split
      · unfold Unloaded
        rw [unload_cab_other hj]
        exact hQ
      · exact hQ)
    _ hs.cabs k hk (.inl (List.mem_range.2 hk))

/-! ### The test -/

theorem dayToOpening_eq (s : State) : dayToOpening s =
    ((s.withDay { s.day with state := .opening, ret := none }).withPower { s.power with settle := none }).withBus
      { s.bus with discTimer := none } := rfl

/-- The records after a completed close, before DAY_CLOSED is raised. -/
def reopened (s : State) : State := dayToOpening (unloadOffline (closeLine 1 (closeLine 0 s)))

theorem completeClose_eq (s : State) : completeClose s =
    raise .dayClosed 0 (total (s.lines.map Line.occupancy)) (closeLine 1 (closeLine 0 s)).offlinePlates (reopened s) := by
  unfold completeClose reopened
  rfl

theorem reopened_floor {t : State} (hd : s.day.state = .closing) (h : Floor t s) : Floor t (reopened s) := by
  have g := Floor.stable t
  obtain ⟨h1, h2⟩ := g.unloadOffline hd (g.closeLine 1 hd (g.closeLine 0 hd ⟨h, rfl⟩))
  exact g.dayToOpening (by rw [h2]; exact hd) h1

theorem reopened_day (hd : s.day.state = .closing) : (reopened s).day = { s.day with state := .opening, ret := none } := by
  have g := Floor.stable s
  obtain ⟨-, h⟩ := g.unloadOffline hd (g.closeLine 1 hd (g.closeLine 0 hd ⟨Floor.refl s, rfl⟩))
  have e : (reopened s).day = { (unloadOffline (closeLine 1 (closeLine 0 s))).day with state := .opening, ret := none } := by
    unfold reopened
    rw [dayToOpening_eq]
    rfl
  rw [e, h]

theorem reopened_shut (hs : Sized s) {l : Nat} (hl : l < 2) : Shut l (reopened s) := by
  obtain ⟨lines, power⟩ := unloadOffline_lines (closeLine 1 (closeLine 0 s))
  have h : Shut l (unloadOffline (closeLine 1 (closeLine 0 s))) :=
    (closeLines_shut hs hl).of (congrArg (·.getD l Line.initial) lines)
      (congrArg (·.consumers.getD (24 + l) Consumer.initial) power)
  unfold reopened
  generalize unloadOffline (closeLine 1 (closeLine 0 s)) = t at h
  exact h.of rfl rfl

theorem reopened_unloaded (hs : Sized s) {k : Nat} (hk : k < 24) : Unloaded k (reopened s) := by
  have h := unloadOffline_unloaded ((LineEnd.sized 1).closeLine ((LineEnd.sized 0).closeLine hs)) hk
  unfold reopened
  generalize unloadOffline (closeLine 1 (closeLine 0 s)) = t at h
  exact h

theorem drained_iff (s : State) : s.drained = true ↔
    (∀ c ∈ s.cabs, c.state = .off ∨ c.state = .offline) ∧ ∀ l ∈ s.lines, l.inside = [] := by
  unfold State.drained
  simp

theorem closeTest_called (s : State) : closeTest (callClose s) =
    let u := s.withCalls { s.calls with close := false }
    if s.day.state = .closing ∧ s.drained = true then completeClose u else u := by
  have e : closeTest (callClose s) =
      let u := s.withCalls { s.calls with close := false }
      if (decide (s.day.state = .closing) && s.drained) = true then completeClose u else u := rfl
  rw [e]
  simp only [Bool.and_eq_true, decide_eq_true_eq]

theorem closeCompletion_next (h : s.day.resetLow = false) :
    exec .closeCompletion s = .next (finish (closeTest (callClose s))) := by
  have e : exec .closeCompletion s = .next (if s.day.resetLow then s else finish (closeTest (callClose s))) := rfl
  rw [e, h]
  rfl

end Sys2Proof.Machine

namespace Sys2Proof.Certificates

open Sys2Proof.Machine

/-- O52's clauses of the racks that leave. -/
theorem leavingRacks_clauses (l : Nat) (s : State) :
    let x := s.line l
    removeStaged l s = x.staged.foldl
        (fun t r => raise .rackLeft l r.tag 0x03FF (carried r .washing .soiled t)) (s.setLine l { x with staged := [] }) ∧
      ∀ r : Rack,
        let left := fun (v : State) => backpressure l
          (raise .rackLeft l r.tag 0x03FF (v.setLine l { x with exits := x.exits.filter fun y => y.tag ≠ r.tag }))
        (r.reason ≠ none → closeRack l r s = left (carried r .held .soiled s)) ∧
          (r.reason = none → closeRack l r s = left (unrouted l r.tag r.dest s)) :=
  ⟨removeStaged_eq l s, fun _ => ⟨fun h => closeRack_held h l s, fun h => closeRack_free h l s⟩⟩

/-- O52's clauses of the completion test. -/
theorem closeCompletion_clauses (s : State) (live : s.day.resetLow = false) (sized : Sized s) :
    let drained := (∀ c ∈ s.cabs, c.state = .off ∨ c.state = .offline) ∧ ∀ l ∈ s.lines, l.inside = []
    let racks := total (s.lines.map fun l => l.exits.length)
    let plates := total ((s.cabs.filter fun c => c.kind = .warmer ∧ c.state = .offline).map fun c =>
      total (c.lots.map (·.count)))
    let u := s.withCalls { s.calls with close := false }
    let cleared := fun (l : Nat) (v : State) =>
      let x := release (24 + l) ((v.line l).exits.foldl (fun t r => closeRack l r t) v)
      x.setLine l { x.line l with stops := { (x.line l).stops with day := true } }
    let empty := forEach (List.range 24)
      (fun k v => if (v.cab k).state = .offline then unload k v else v) (cleared 1 (cleared 0 u))
    let w := ((empty.withDay { empty.day with state := .opening, ret := none }).withPower
      { empty.power with settle := none }).withBus { empty.bus with discTimer := none }
    (s.day.state = .closing → drained →
      ∃ t, exec .closeCompletion s = .next t ∧ t = finish (raise .dayClosed 0 racks plates w) ∧ Floor s w ∧
        Floor (raise .dayClosed 0 racks plates w) t ∧ w.day = { s.day with state := .opening, ret := none } ∧
        (∀ l, l < 2 → (w.line l).exits = [] ∧ (w.line l).stops.day = true ∧
          (w.consumer (24 + l)).grant = 0 ∧ (w.consumer (24 + l)).request = 0) ∧
        ∀ k, k < 24 → (w.cab k).state = .offline → (w.cab k).cls ≠ none → (w.cab k).lots = []) ∧
      (s.day.state ≠ .closing ∨ ¬drained → exec .closeCompletion s = .next (finish u) ∧ Floor s (finish u)) := by
  intro drained racks plates u cleared empty w
  have floor : Floor s u := (Floor.stable s).toHush.calls _ (Floor.refl s)
  have hu : Sized u := floor.sizes sized
  rw [closeCompletion_next live, closeTest_called]
  have hw : w = reopened u := (dayToOpening_eq empty).symm
  have hplates : (closeLine 1 (closeLine 0 u)).offlinePlates = plates := by
    rw [closeLines_offlinePlates]
    show total ((s.cabs.filter fun c => decide (c.kind = .warmer) && decide (c.state = .offline)).map Cab.lotTotal) = _
    simp only [← Bool.decide_and]
    rfl
  have hcomplete : completeClose u = raise .dayClosed 0 racks plates w := by
    have hracks : total (u.lines.map Line.occupancy) = racks := rfl
    rw [completeClose_eq, hplates, hracks, ← hw]
  refine ⟨fun hd hdr => ⟨finish (raise .dayClosed 0 racks plates w), ?_, rfl, ?_,
      (Floor.stable _).finish (Floor.refl _), ?_, fun l hl => ?_, fun k hk => ?_⟩,
    fun h => ⟨?_, (Floor.stable s).finish floor⟩⟩
  · dsimp only
    rw [if_pos ⟨hd, (drained_iff s).2 hdr⟩, ← hcomplete]
  · rw [hw]
    exact reopened_floor (s := u) hd floor
  · rw [hw]
    exact reopened_day (s := u) hd
  · rw [hw]
    obtain ⟨h1, h2, h3, h4⟩ := reopened_shut hu hl
    exact ⟨h1, h2, h3, h4⟩
  · rw [hw]
    exact reopened_unloaded hu hk
  · rw [if_neg]
    exact fun ⟨h1, h2⟩ => h.elim (fun g => g h1) fun g => g ((drained_iff s).1 h2)

/-- Settles O52: no course, cabinet or line that the close has dealt with is reached again by what it does next. -/
theorem dayClosesAndDrains : Obligations.DayClosesAndDrains :=
  ⟨dayClose_clauses, fun l s _ _ => leavingRacks_clauses l s, closeCompletion_clauses⟩

end Sys2Proof.Certificates
end

section
/-! SUPPORT. The commands that write a function's or a course's record (R23, R26). -/

namespace Sys2Proof.Machine

theorem routeMode_ofCode_code (m : RouteMode) : RouteMode.ofCode m.code = some m := by cases m <;> rfl

theorem routeMode_ofCode_lt {n : Nat} (h : n < 3) : ∃ m, RouteMode.ofCode n = some m := by
  match n, h with
  | 0, _ => exact ⟨_, rfl⟩
  | 1, _ => exact ⟨_, rfl⟩
  | 2, _ => exact ⟨_, rfl⟩

theorem routeMode_ofCode_ge {n : Nat} (h : ¬n < 3) : RouteMode.ofCode n = none := by
  match n, h with
  | n + 3, _ => rfl

theorem isTeam_iff (t : Nat) : isTeam t = true ↔ 1 ≤ t ∧ t ≤ 14 := within_iff 1 14 t

theorem fnInUse_iff (s : State) (f : Nat) : s.fnInUse f = true ↔ ∃ c ∈ s.courses, c.state ≠ .empty ∧ c.fn = f := by
  simp [State.fnInUse]

/-- The operands of FUNCTION_SET are in range (R23). -/
theorem functionSet_range (f action team : Nat) :
    (decide (f < 8) && isFlag action && (decide (action ≠ 0) || decide (f = 0) || isTeam team) &&
        !(decide (action = 1) && decide (f = 0))) = true ↔
      f < 8 ∧ (action = 0 ∧ (f = 0 ∨ 1 ≤ team ∧ team ≤ 14) ∨ action = 1 ∧ f ≠ 0) := by
  simp only [Bool.and_eq_true, Bool.or_eq_true, decide_eq_true_eq, isFlag_iff, isTeam_iff, Bool.not_eq_true',
    Bool.and_eq_false_iff, decide_eq_false_iff_not]
  omega

/-- With a mode in range FUNCTION_SET is a list of checks and the record it writes. -/
theorem functionSetBody_eq {mode : Nat} {m : RouteMode} (h : RouteMode.ofCode mode = some m) (f action members team : Nat)
    (s : State) :
    functionSetBody f action members team mode s =
      checked
        [(decide (f < 8) && isFlag action && (decide (action ≠ 0) || decide (f = 0) || isTeam team) &&
            !(decide (action = 1) && decide (f = 0)), .range),
          (inDay s [.opening] && !(decide (action = 1) && s.fnInUse f), .badState)]
        (fun s =>
          okWith []
            (if action = 1 then s.setFn f Fn.initial
             else if f = 0 then s.setFn f { s.fn f with mode := m, round := 23 }
             else s.setFn f ⟨true, members, team, m, 23⟩)) s := by
  unfold functionSetBody
  rw [h]

/-- An optional group whose presence byte is defined. -/
def optArg {α : Type} : Option α → OptArg α
  | none => .absent
  | some x => .present x

theorem toOption_optArg {α : Type} (o : Option α) : OptArg.toOption (optArg o) = o := by cases o <;> rfl

theorem optOk_optArg {α : Type} (q : α → Bool) (o : Option α) : optOk q (optArg o) = true ↔ ∀ x, o = some x → q x = true := by
  cases o <;> simp [optArg, optOk]

theorem withinTemp_iff (lo hi t : Int) : withinTemp lo hi t = true ↔ lo ≤ t ∧ t ≤ hi := by simp [withinTemp]

theorem batchOk_iff (s : State) (b : BatchArgs) :
    s.batchOk b = true ↔
      b.oven < 24 ∧ (s.cab b.oven).kind = .oven ∧ 1 ≤ b.shelves ∧ b.shelves ≤ 20 ∧ b.shelves ≤ (s.cab b.oven).shelves ∧
        60 ≤ b.setpoint ∧ b.setpoint ≤ 250 ∧ 60 ≤ b.cook ∧ b.cook ≤ 14400 ∧ 60 ≤ b.overHold ∧ b.overHold ≤ 3600 := by
  simp only [State.batchOk, Cab.isOven, Bool.and_eq_true, decide_eq_true_eq, within_iff, withinTemp_iff, and_assoc]

end Sys2Proof.Machine

namespace Sys2Proof.Certificates

open Sys2Proof.Machine

/-- Settles O17: a mode out of range refuses before the other checks, which follow in their order. -/
theorem functionSetWritesRecord : Obligations.FunctionSetWritesRecord := by
  intro p f action members team mode s ha
  extract_lets i u good used
  have inUse : u.fnInUse f = true ↔ used := by rw [fnInUse_iff]; simp [u, used]
  have day : inDay u [.opening] = decide (s.day.state = .opening) := by simp [inDay_opening, u]
  refine ⟨fun m hm hg ho => ?_, fun hg hd => ?_, fun hg => ?_⟩
  · have hb : functionSetBody f action members team mode u = checked _ _ u :=
      functionSetBody_eq (by rw [← hm, routeMode_ofCode_code]) f action members team u
    have range := (functionSet_range f action team).2 ⟨hg.1, hg.2.1⟩
    refine ⟨fun h0 hf => ?_, fun h0 hf => ?_, fun h1 hu => ?_, fun h1 hu => ?_⟩
    · refine Executes.of_checks rfl ha hb ((firstFailure_tail range).trans (firstFailure_tail ?_)) ?_
      · simp [day, ho, h0]
      · subst h0 hf
        rfl
    · refine Executes.of_checks rfl ha hb ((firstFailure_tail range).trans (firstFailure_tail ?_)) ?_
      · simp [day, ho, h0]
      · subst h0
        simp only [if_neg hf, if_neg (show ¬0 = 1 by decide)]
        rfl
    · refine Executes.of_checks rfl ha hb ((firstFailure_tail range).trans (firstFailure_tail ?_)) ?_
      · rw [← inUse] at hu
        simp [day, ho, hu]
      · subst h1
        rfl
    · refine RefusedWith.of_checks rfl ha hb ((firstFailure_tail range).trans (firstFailure_head ?_))
      simp [h1, inUse.2 hu]
  · obtain ⟨m, hm⟩ := routeMode_ofCode_lt hg.2.2
    have hb : functionSetBody f action members team mode u = checked _ _ u := functionSetBody_eq hm f action members team u
    refine RefusedWith.of_checks rfl ha hb
      ((firstFailure_tail ((functionSet_range f action team).2 ⟨hg.1, hg.2.1⟩)).trans (firstFailure_head ?_))
    rcases hd with h | h <;> simp [day, h]
  · by_cases h3 : mode < 3
    · obtain ⟨m, hm⟩ := routeMode_ofCode_lt h3
      have hb : functionSetBody f action members team mode u = checked _ _ u := functionSetBody_eq hm f action members team u
      refine RefusedWith.of_checks rfl ha hb (firstFailure_head (Bool.eq_false_iff.2 fun h => hg ?_))
      obtain ⟨h1, h2⟩ := (functionSet_range f action team).1 h
      exact ⟨h1, h2, h3⟩
    · exact RefusedWith.of_body rfl ha (by
        show functionSetBody f action members team mode _ = _
        unfold functionSetBody
        rw [routeMode_ofCode_ge h3])

/-- Settles O18. -/
theorem courseDefinePlansCourse : Obligations.CourseDefinePlansCourse := by
  intro p c a s ha i u batchOk fields b t hb ht good slotFree
  have hb : a.batch = optArg b := by cases b <;> exact hb
  have ht : a.fireTime = optArg t := by cases t <;> exact ht
  have body : courseDefineBody c a u = checked _ _ u := rfl
  have range : (decide (c < 32) && within 1 7 a.fn && decide (a.cls < 8) && within 1 3000 a.covers && optOk u.batchOk a.batch &&
      within 1 32 a.station && optOk (fun t => decide (u.now < t)) a.fireTime) = true ↔ good := by
    rw [hb, ht]
    simp only [Bool.and_eq_true, within_iff, decide_eq_true_eq, optOk_optArg, batchOk_iff]
    have now : u.now = s.day.clock := congrArg Day.clock (before_day _ _ _)
    rw [now]
    simp only [good, fields, batchOk]
    tauto
  have found : (u.fn a.fn).used = false ↔ ¬(u.fn a.fn).used = true := by simp
  have able : (inDay u [.service] && decide ((u.course c).state = .empty)) = true ↔ slotFree := by
    simp [inDay, u, slotFree]
  refine ⟨fun hg _ hu hs => ?_, fun hg hu hs => ?_, fun hg hu => ?_, fun hg => ?_⟩
  · refine Executes.of_checks rfl ha body ((firstFailure_tail (range.2 hg)).trans
      ((firstFailure_tail hu).trans (firstFailure_tail (able.2 hs)))) ?_
    simp only [hb, ht, toOption_optArg]
    rfl
  · exact RefusedWith.of_checks rfl ha body ((firstFailure_tail (range.2 hg)).trans
      ((firstFailure_tail hu).trans (firstFailure_head (Bool.eq_false_iff.2 fun h => hs (able.1 h)))))
  · exact RefusedWith.of_checks rfl ha body ((firstFailure_tail (range.2 hg)).trans (firstFailure_head hu))
  · exact RefusedWith.of_checks rfl ha body (firstFailure_head (Bool.eq_false_iff.2 fun h => hg (range.1 h)))

end Sys2Proof.Certificates
end

section
/-! SUPPORT. The reads of the day, of lines, functions, courses, cabinets and racks (R50, R75, R99, R184). -/

namespace Sys2Proof.Machine

/-- The head of a list in order is its least element. -/
theorem head_sortBy_le {l : List Nat} {m : Nat} (h : (sortBy (fun a b => decide (a ≤ b)) l).head? = some m) :
    m ∈ l ∧ ∀ n ∈ l, m ≤ n := by
  have ord := sortBy_pairwise (le := fun a b : Nat => decide (a ≤ b)) (fun a b c => by simp only [decide_eq_true_eq]; omega)
    (fun a b => by simp only [decide_eq_false_iff_not, decide_eq_true_eq]; omega) l
  obtain ⟨xs, e⟩ : ∃ xs, sortBy (fun a b => decide (a ≤ b)) l = m :: xs := by
    cases hs : sortBy (fun a b => decide (a ≤ b)) l with
    | nil => rw [hs] at h; cases h
    | cons y ys => rw [hs] at h; exact ⟨ys, by rw [Option.some.inj h]⟩
  rw [e, List.pairwise_cons] at ord
  refine ⟨mem_sortBy.1 (e ▸ List.mem_cons_self), fun n hn => ?_⟩
  have hn : n ∈ m :: xs := e ▸ mem_sortBy.2 hn
  rcases List.mem_cons.1 hn with rfl | hn
  · exact Nat.le_refl _
  · simpa using ord.1 n hn

theorem sortBy_eq_nil {le : Nat → Nat → Bool} {l : List Nat} : sortBy le l = [] ↔ l = [] := by
  simp only [List.eq_nil_iff_forall_not_mem, mem_sortBy]

theorem mem_confirmLeft {s : State} {m : Nat} :
    m ∈ (s.day.confirm.filterMap fun t => t.map fun x => x + Config.confirmMs - s.day.ms) ↔
      ∃ b, some b ∈ s.day.confirm ∧ m = b + 3000 - s.day.ms := by
  simp only [List.mem_filterMap, Option.map_eq_some_iff]
  constructor
  · rintro ⟨_, h, b, rfl, rfl⟩
    exact ⟨b, h, rfl⟩
  · rintro ⟨b, h, rfl⟩
    exact ⟨some b, h, b, rfl, rfl⟩

/-- No confirm timer runs (R181). -/
theorem confirmLeft_eq_none {s : State} : s.confirmLeft = none ↔ ∀ t ∈ s.day.confirm, t = none := by
  unfold State.confirmLeft
  rw [List.head?_eq_none_iff, sortBy_eq_nil, List.filterMap_eq_nil_iff]
  simp only [Option.map_eq_none_iff]

/-- The soonest confirm timer (R184). -/
theorem confirmLeft_eq_some {s : State} {m : Nat} (h : s.confirmLeft = some m) :
    (∃ b, some b ∈ s.day.confirm ∧ m = b + 3000 - s.day.ms) ∧
      ∀ b, some b ∈ s.day.confirm → m ≤ b + 3000 - s.day.ms := by
  obtain ⟨h1, h2⟩ := head_sortBy_le h
  exact ⟨mem_confirmLeft.1 h1, fun b hb => h2 _ (mem_confirmLeft.2 ⟨b, hb, rfl⟩)⟩

theorem drainCabs_eq (s : State) :
    positions (fun c => decide (c.state ≠ .off) && decide (c.state ≠ .offline)) s.cabs =
      (List.range s.cabs.length).filter fun k => (s.cab k).state ≠ .off ∧ (s.cab k).state ≠ .offline := by
  rw [positions_eq_filter _ Cab.initial]
  simp [State.cab]

theorem overtempCabs_eq (s : State) :
    s.overtempCabs = (List.range s.cabs.length).filter fun k => (s.cab k).live.overtemp = true := by
  rw [State.overtempCabs, positions_eq_filter _ Cab.initial]
  simp [State.cab]

theorem unconfirmed_eq (s : State) :
    s.unconfirmed = (List.range 24).filter fun k =>
      s.cabBound k = true ∧ ¬((s.cab k).reported = true ∧ (s.cab k).level = .off) := by
  unfold State.unconfirmed
  refine List.filter_congr fun k _ => ?_
  cases s.cabBound k <;> cases (s.cab k).reported <;> simp

theorem exits_without_reason (l : Line) :
    (l.exits.filter fun r => r.reason = none) = l.exits.filter (·.reason.isNone) :=
  List.filter_congr fun r _ => by cases r.reason <;> rfl

theorem exits_with_reason (l : Line) :
    (l.exits.filter fun r => r.reason ≠ none) = l.exits.filter (·.reason.isSome) :=
  List.filter_congr fun r _ => by cases r.reason <;> rfl

/-- The batch group of a COURSE_READ SUMMARY, its last fields by the batch's place (R50). -/
theorem batchBytes_eq (s : State) (c : Nat) :
    s.batchBytes c =
      match (s.course c).batch with
      | none => be8 0
      | some b =>
        be8 1 ++ be8 b.oven ++ be8 b.shelves ++ beTemp b.setpoint ++ be16 b.cook ++ be16 b.overHold ++
          (match s.batchOf c with
           | some y => be8 y.state.code ++ be16 y.remaining
           | none => be8 (if (s.course c).state = .planned then 0xFF else BatchState.removed.code) ++ be16 0xFFFF) := by
  unfold State.batchBytes
  cases (s.course c).batch with
  | none => rfl
  | some b =>
    cases s.batchOf c with
    | some y => simp [be8]
    | none => by_cases h : (s.course c).state = .planned <;> simp [be8, h]

/-- A read's answer. -/
theorem Executes.of_read {i : Instr} {p : Port} {s : State} (hr : Ready p s) (h : requestPort i = some p)
    (h1 : isRead i = true) (h2 : permission i = none) {data : List Byte} (hb : bodyOf i s = okWith data s) :
    Executes i p s data s :=
  Executes.of_body h (Admitted.of_read hr h1 h2) (by rw [before_read h1, hb])

theorem RefusedWith.of_read {i : Instr} {p : Port} {s : State} (hr : Ready p s) (h : requestPort i = some p)
    (h1 : isRead i = true) (h2 : permission i = none) {st : Status} (hb : bodyOf i s = refuse st s) :
    RefusedWith i p s st :=
  RefusedWith.of_body h (Admitted.of_read hr h1 h2) (by rw [before_read h1, hb])

/-- One check that holds. -/
theorem checked_one {b : Bool} {st : Status} {f : State → Result} {s : State} (h : b = true) :
    checked [(b, st)] f s = f s := checked_of_none (firstFailure_tail h)

/-- One check that fails. -/
theorem checked_one_not {b : Bool} {st : Status} {f : State → Result} {s : State} (h : b = false) :
    checked [(b, st)] f s = refuse st s := checked_of_some (firstFailure_head h)

end Sys2Proof.Machine

namespace Sys2Proof.Certificates

open Sys2Proof.Machine

/-- DAY_READ (R184). -/
theorem dayRead_fields (p : Port) (s : State) (hr : Ready p s) :
    let d := s.day
    let drain := (List.range s.cabs.length).filter fun k => (s.cab k).state ≠ .off ∧ (s.cab k).state ≠ .offline
    let hot := (List.range s.cabs.length).filter fun k => (s.cab k).live.overtemp = true
    let unproved := (List.range 24).filter fun k =>
      s.cabBound k = true ∧ ¬((s.cab k).reported = true ∧ (s.cab k).level = .off)
    let listed := fun (l : List Nat) => be8 l.length ++ beOpt8 l.head?
    Executes (.dayRead p) p s
      (be8 d.state.code ++ beOpt8 (d.ret.map DayState.code) ++ beOpt8 d.cause ++ be32 d.clock ++ beFlag d.feedcut ++
        be24 (maskOf (d.confirm.map Option.isSome)) ++ beOpt16 s.confirmLeft ++ listed drain ++
        be8 (s.line 0).inside.length ++ be8 (s.line 1).inside.length ++ listed hot ++ listed unproved) s := by
  extract_lets d drain hot unproved listed
  have e : dayReadBody s = okWith _ s := rfl
  rw [drainCabs_eq, overtempCabs_eq, unconfirmed_eq] at e
  exact Executes.of_read hr rfl rfl rfl e

/-- Settles O56. -/
theorem recordReadsCarryTheirFields : Obligations.RecordReadsCarryTheirFields := by
  intro p x s hr
  extract_lets d drain hot unproved listed l f
  refine ⟨⟨s.confirmLeft, dayRead_fields p s hr, confirmLeft_eq_none, fun m => confirmLeft_eq_some⟩, fun hx => ?_, fun hx => ?_,
    fun hx => ?_, fun hx => ?_⟩
  · refine Executes.of_read hr rfl rfl rfl (show lineReadBody x s = _ from ?_)
    unfold lineReadBody
    rw [checked_one (by simpa using hx), exits_without_reason, exits_with_reason]
    rfl
  · have refused : lineReadBody x s = refuse .range s := checked_one_not (decide_eq_false (by omega))
    exact RefusedWith.of_read hr rfl rfl rfl refused
  · have answer : functionReadBody x s = okWith _ s := checked_one (by simpa using hx)
    exact Executes.of_read hr rfl rfl rfl answer
  · have refused : functionReadBody x s = refuse .range s := checked_one_not (decide_eq_false (by omega))
    exact RefusedWith.of_read hr rfl rfl rfl refused

/-- COURSE_READ (R50): its two parts. -/
theorem courseRead_fields (p : Port) (c z : Nat) (s : State) (hr : Ready p s) (hc : c < 32) :
    let x := s.course c
    let own := s.earmarks.filter fun e => e.course = c ∧ z ≤ e.cab
    (Executes (.courseRead p c 0 z) p s
      (be8 x.state.code ++ be8 x.fn ++ be8 x.cls ++ be16 x.covers ++
        (match x.batch with
         | none => be8 0
         | some b =>
           be8 1 ++ be8 b.oven ++ be8 b.shelves ++ beTemp b.setpoint ++ be16 b.cook ++ be16 b.overHold ++
             (match s.batchOf c with
              | some y => be8 y.state.code ++ be16 y.remaining
              | none =>
                be8 (if x.state = .planned then 0xFF else BatchState.removed.code) ++ be16 0xFFFF)) ++
        be8 x.station ++
        (match x.fireTime with
         | none => be8 0
         | some t => be8 1 ++ be32 t) ++
        beOpt16 x.fireSeq ++ be16 x.owed ++ be16 x.plated ++ be16 x.returned ++ beFlag x.ovenFault ++
        beFlag x.shortPaged ++ beFlag x.overHoldPaged ++ be16 (s.earmarkedFor c) ++
        beFlag (decide (x.state ≠ .empty) && s.warmFor c)) s) ∧
      (z < 24 → Executes (.courseRead p c 1 z) p s
        (((own.take 12).map fun e => be8 e.cab ++ be16 e.count).flatten ++ be8 (own.drop 12).length) s) := by
  extract_lets x own
  have summary : courseReadBody c 0 z s = okWith (s.courseSummary c) s := checked_one (by simp [hc, isFlag])
  have earmarks (hz : z < 24) : courseReadBody c 1 z s = okWith (s.earmarkPart c z) s := checked_one (by simp [hc, hz, isFlag])
  refine ⟨Executes.of_read hr rfl rfl rfl (summary.trans (okWith_congr ?_ rfl)),
    fun hz => Executes.of_read hr rfl rfl rfl ((earmarks hz).trans (okWith_congr ?_ rfl))⟩
  · unfold State.courseSummary
    rw [batchBytes_eq]
    dsimp only [x]
    cases (s.course c).fireTime <;> rfl
  · unfold State.earmarkPart
    simp [own]

/-- CABINET_READ (R75): its four parts. -/
theorem cabinetRead_fields (p : Port) (k z : Nat) (s : State) (hr : Ready p s) (hk : k < 24) :
    let c := s.cab k
    let part := fun (n fit : Nat) (entries : List (List Byte)) =>
      Executes (.cabinetRead p k n z) p s (((entries.drop z).take fit).flatten ++ be8 entries.length) s
    (Executes (.cabinetRead p k 0 z) p s
      (be8 c.kind.code ++ beOpt8 c.addr ++ be8 c.state.code ++ be8 (if c.wantedOn then 0 else 1) ++ beTemp c.setpoint ++
        be8 c.band ++ be16 c.heat ++ be16 c.hold ++ be16 c.standby ++ be16 (s.consumer k).grant ++ beTemp c.temp ++
        be8 c.level.code ++ be16 c.draw ++ be8 (if c.live.doorOpen then 0 else 1) ++ be8 c.live.mask ++
        be8 c.latchedSet.mask ++ beFlag c.latched ++ beFlag c.stale ++
        (if c.kind = .warmer then
          beOpt8 c.cls ++ be16 c.capacity ++ be16 (total (c.lots.map (·.count))) ++ be16 (s.earmarkedAt k) ++
            be16 (s.readyPlates k) ++ be16 (total (c.routes.map fun r => r.count - r.loaded))
         else [])) s) ∧
      (z < 24 →
        part 1 6 (c.lots.map fun l => be16 l.count ++ beOpt32 l.warmFrom ++ beFlag (l.warm (s.dwellOf c) s.day.clock)) ∧
          part 2 4 (c.batches.map fun b =>
            be8 b.course ++ be8 b.shelves ++ be8 b.state.code ++ be16 b.remaining ++ beOpt32 b.doneAt) ∧
          part 3 8 (c.routes.map fun r => be8 r.line ++ be16 r.tag ++ be8 r.count ++ be8 r.loaded)) := by
  extract_lets c part
  have list (n : Nat) (hn : 0 < n) (h4 : n < 4) (hz : z < 24) :
      cabinetReadBody k n z s = okWith (s.cabListPart k n z) s :=
    (checked_one (by simp [hk, h4, hz])).trans (okWith_congr (if_neg (by omega)) rfl)
  have summary : cabinetReadBody k 0 z s = okWith (s.cabSummary k) s := checked_one (by simp [hk])
  refine ⟨Executes.of_read hr rfl rfl rfl (summary.trans (okWith_congr ?_ rfl)), fun hz => ⟨?_, ?_, ?_⟩⟩
  · unfold State.cabSummary Cab.isWarmer
    simp only [decide_eq_true_eq]
    rfl
  · exact Executes.of_read hr rfl rfl rfl (list 1 (by decide) (by decide) hz)
  · exact Executes.of_read hr rfl rfl rfl (list 2 (by decide) (by decide) hz)
  · exact Executes.of_read hr rfl rfl rfl (list 3 (by decide) (by decide) hz)

/-- RACK_READ (R99): by the position, and by the tag of the first rack that has it. -/
theorem rackRead_fields (p : Port) (l i : Nat) (r : Rack) (s : State) (hr : Ready p s) (hl : l < 2) :
    let x := s.line l
    let racks := x.staged ++ x.inside ++ x.exits
    let record :=
      be16 r.tag ++ be8 r.cls ++ be8 r.count ++ be8 r.fn ++ be8 (x.stateOf r.tag) ++ beOpt8 (r.reason.map HoldReason.code) ++
        beOpt32 r.entry ++ be16 r.transit ++ beOpt8 r.dest ++ beOpt32 r.routeTime ++ be8 r.loaded ++ beFlag r.noticed
    racks[i]? = some r →
      (i < 12 → Executes (.rackRead p l 1 i) p s (record ++ be8 racks.length) s) ∧
        ((∀ j y, j < i → racks[j]? = some y → y.tag ≠ r.tag) →
          Executes (.rackRead p l 0 r.tag) p s (record ++ be8 i ++ be8 racks.length) s) := by
  extract_lets x racks record
  intro hi
  obtain ⟨hlt, hget⟩ := List.getElem?_eq_some_iff.1 hi
  have hlt' : i < x.racks.length := hlt
  have hi' : x.racks[i]? = some r := hi
  refine ⟨fun h12 => Executes.of_read hr rfl rfl rfl ?_, fun first => Executes.of_read hr rfl rfl rfl ?_⟩
  · show rackReadBody l 1 i s = _
    unfold rackReadBody
    simp only [Nat.one_ne_zero, if_false]
    rw [checked_of_none ((firstFailure_tail (by simp [hl, h12, isFlag])).trans (firstFailure_tail (by simpa using hlt')))]
    simp only [show s.line l = x from rfl, hi', List.append_nil]
    rfl
  · have at_i : x.racks.findIdx? (·.tag = r.tag) = some i := by
      rw [List.findIdx?_eq_some_iff_getElem]
      refine ⟨hlt', by simp only [decide_eq_true_eq]; exact congrArg Rack.tag hget, fun j hj => ?_⟩
      simp only [decide_eq_true_eq]
      exact first j _ hj (List.getElem?_eq_getElem (hj.trans hlt))
    show rackReadBody l 0 r.tag s = _
    unfold rackReadBody
    simp only [if_true, show s.line l = x from rfl, at_i, Option.getD_some]
    rw [checked_of_none ((firstFailure_tail (by simp [hl, isFlag])).trans (firstFailure_tail (by simpa using hlt')))]
    simp only [hi']
    rfl

/-- Settles O30. -/
theorem kitchenReadsCarryTheirFields : Obligations.KitchenReadsCarryTheirFields :=
  ⟨courseRead_fields, cabinetRead_fields, rackRead_fields⟩

end Sys2Proof.Certificates
end

section
/-! SUPPORT. The timers of batches and cabinets, and the judging of courses (R36–R45, R58, R66–R69, R73). -/

namespace Sys2Proof.Machine

variable {s : State}

/-! ### Events while the part runs -/

/-- Out of reset, an event acts. -/
theorem live_next (f : State → State) (h : s.day.resetLow = false) : live f s = .next (f s) := by
  unfold live
  rw [h]
  rfl

/-- What the end of a step leaves of a state that an operation of the course controller or the paging unit has made. -/
theorem Floor.finish_hush {f : State → State} (hf : ∀ {P : State → Prop}, Hush P → ∀ {u}, P u → P (f u)) (u : State) :
    Floor u (finish (f u)) :=
  (Floor.stable u).finish (hf (Floor.stable u).toHush (Floor.refl u))

theorem finish_evaluateAll_floor (u : State) : Floor u (finish (evaluateAll u)) :=
  Floor.finish_hush (fun h => h.evaluateAll) u

theorem finish_claimPage_floor (t : Target) (c a : Nat) (r : Prio) (k : Option Nat) (u : State) :
    Floor u (finish (claimPage t c a r k u)) :=
  Floor.finish_hush (fun h => h.claimPage t c a r k) u

/-! ### Batches -/

theorem cooked_eq_some {c : Nat} {b : Batch} (hb : s.batchOf c = some b) (h1 : b.state = .cooking) (h2 : b.remaining = 0) :
    s.cooked c = some b := by
  simp only [State.cooked, hb, h1, h2, and_self, if_true]

theorem ovenOf_eq {c : Nat} {a : BatchArgs} (h : (s.course c).batch = some a) : s.ovenOf c = a.oven := by
  simp only [State.ovenOf, h]

theorem overHeld_of {c d : Nat} {a : BatchArgs} {b : Batch} (ha : (s.course c).batch = some a) (hb : s.batchOf c = some b)
    (h1 : b.state = .done) (h2 : b.doneAt = some d) (h3 : d + a.overHold ≤ s.day.clock)
    (h4 : (s.course c).overHoldPaged = false) : s.overHeld c = true := by
  have h5 : d + a.overHold ≤ s.now := h3
  simp only [State.overHeld, ha, hb, h1, h2, h4, h5, decide_true, Bool.not_false, Bool.and_self]

/-! ### The sleep timer -/

/-- A warmer whose sleep timer runs between steps (R58). -/
def Cab.Idles (d : Cab) : Prop :=
  d.kind = .warmer ∧ d.state = .holding ∧ d.lots = [] ∧ total (d.routes.map fun y => y.count - y.loaded) = 0 ∧ d.idle ≠ 0

/-- The sleep timer runs in an idle HOLDING warmer alone (R58). -/
def Cab.SleepTimed (d : Cab) : Prop := d.sleepT ≠ none ↔ d.Idles

theorem Cab.idles_iff (c : Cab) :
    (c.isWarmer && decide (c.state = .holding) && c.lots.isEmpty && decide (c.pending = 0) && decide (c.idle ≠ 0)) = true ↔
      c.Idles := by
  simp only [Cab.isWarmer, Cab.Idles, Bool.and_eq_true, decide_eq_true_eq, List.isEmpty_iff, and_assoc]
  exact Iff.rfl

/-- The sleep timer after the end of a step: as it ran, started anew, or stopped. -/
theorem sleepSync_cab {k : Nat} (hk : k < s.cabs.length) : ((sleepSync k s).cab k).SleepTimed := by
  unfold sleepSync
  dsimp only
  split
  · rename_i hi
    have hi := (Cab.idles_iff _).1 hi
    split
    · rename_i ht
      exact ⟨fun _ => hi, fun _ => Option.isSome_iff_ne_none.1 ht⟩
    · rw [cab_setCab _ _ _ hk]
      exact ⟨fun _ => hi, fun _ => Option.some_ne_none _⟩
  · rename_i hi
    have hi := mt (Cab.idles_iff _).2 hi
    split
    · rw [cab_setCab _ _ _ hk]
      exact ⟨fun h => absurd rfl h, fun h => absurd h hi⟩
    · rename_i ht
      exact ⟨fun h => absurd (Option.isSome_iff_ne_none.2 h) ht, fun h => absurd h hi⟩

/-- The sleep timer of a cabinet is that cabinet's own. -/
theorem sleepSync_cab_other {j k : Nat} (h : j ≠ k) (s : State) : (sleepSync k s).cab j = s.cab j := by
  unfold sleepSync
  dsimp only
  split
  · split
    · rfl
    · exact State.cab_setCab_other _ k j _ h
  · split
    · exact State.cab_setCab_other _ k j _ h
    · rfl

/-- Between steps the sleep timers run where they should (R58). -/
theorem finish_sleepTimed {k : Nat} (hs : Sized s) (hk : k < 24) : ((finish s).cab k).SleepTimed := by
  have e : finish s = (refreshPolls (forEach (List.range 24) sleepSync
      (conveyorSync false 1 (conveyorSync false 0 (settle settleRounds s))))).withCalls Calls.none := rfl
  rw [e]
  generalize hv : conveyorSync false 1 (conveyorSync false 0 (settle settleRounds s)) = v
  have sized : Sized v := by
    have h := Floor.stable s
    rw [← hv]
    exact (h.conveyorSync false 1 (h.conveyorSync false 0 (h.settle _ (Floor.refl s)))).sizes hs
  have timers : ((forEach (List.range 24) sleepSync v).cab k).SleepTimed :=
    forEach_establishes (Inv := Sized) (Q := fun j t => (t.cab j).SleepTimed) (D := fun j => j < 24)
      (fun j t ht => ((Floor.stable t).sleepSync j (Floor.refl t)).sizes ht)
      (fun j t hj ht => sleepSync_cab (by rw [ht.cabs]; exact hj))
      (fun i j t hji hq => by rwa [sleepSync_cab_other hji])
      (List.range 24) sized k hk (.inl (List.mem_range.2 hk))
  have beside : (refreshPolls (forEach (List.range 24) sleepSync v)).cabs = (forEach (List.range 24) sleepSync v).cabs :=
    ((Beside.hush _).refreshPolls (Beside.refl _)).cabs
  unfold State.cab at timers ⊢
  rwa [State.withCalls_cabs, beside]

/-- The sleep timer's expiry (R58): the warmer sleeps, with its grant lowered to its standby units. -/
theorem enterSleep_records {k : Nat} (hs : Sized s) (hk : k < 24) (hh : (s.cab k).state = .holding) :
    let w := enterSleep k s
    let low := min (s.cab k).standby (s.consumer k).grant
    (w.cab k).state = .sleep ∧ (w.cab k).wantMode = .standby ∧ (w.consumer k).grant = low ∧ (w.consumer k).request = low := by
  intro w low
  have lowered : (lowerTo k (s.cab k).standby s).cab k = s.cab k := by unfold State.cab; rw [lowerTo_cabs]
  have record : w.cab k = (s.cab k).enter .sleep := by
    show (changeState k .sleep false (lowerTo k (s.cab k).standby s)).cab k = _
    rw [changeState_cab false (by rw [lowerTo_cabs, hs.cabs]; exact hk) (by rw [lowered, hh]; decide), lowered]
  have claim : w.consumer k = { s.consumer k with grant := low, request := low, reqTime := none } := by
    show (changeState k .sleep false _).power.consumers.getD k _ = _
    rw [changeState_power]
    exact setConsumer_consumer k _ s (by rw [hs.consumers]; omega)
  rw [record, claim]
  exact ⟨rfl, rfl, rfl, rfl⟩

theorem enterSleep_still (k : Nat) (s : State) : Still s (enterSleep k s) :=
  Still.changeState _ _ _ ((Still.stable s).lowerTo _ _ (Still.refl s))

/-! ### The judging of courses -/

theorem evaluate_fired {c : Nat} (h : (s.course c).state = .fired) (hr : s.isReady c = true) :
    evaluate c s = becomeReady c s := by
  simp only [evaluate, h, hr, if_true]

theorem evaluate_ready {c : Nat} (h : (s.course c).state = .ready) (hr : s.isReady c = false) :
    evaluate c s = revert c s := by
  simp only [evaluate, h, hr, Bool.false_eq_true, if_false]

/-- A FIRED course that is not ready, a READY one that is, and any other: nothing. -/
theorem evaluate_none {c : Nat} (hf : (s.course c).state = .fired → s.isReady c = false)
    (hr : (s.course c).state = .ready → s.isReady c = true) : evaluate c s = s := by
  unfold evaluate
  split
  · rename_i h
    rw [hf h]
    rfl
  · rename_i h
    rw [hr h]
    rfl
  · rfl

/-- The conditions of a PLATES_SHORT page (R44). -/
theorem short_iff (c : Nat) (s : State) :
    ((s.course c).state.active && s.batchDone c && decide (0 < (s.course c).owed) && !(s.course c).shortPaged) = true ↔
      ((s.course c).state = .fired ∨ (s.course c).state = .ready ∨ (s.course c).state = .plating) ∧
        (∃ b, s.batchOf c = some b ∧ b.state = .done) ∧ 0 < (s.course c).owed ∧ (s.course c).shortPaged = false := by
  simp only [Bool.and_eq_true, CourseState.active_iff, batchDone_iff, decide_eq_true_eq, Bool.not_eq_true', and_assoc]

theorem Lot.warm_eq (dwell now : Nat) (l : Lot) : l.warm dwell now = l.warmFrom.any fun t => decide (t + dwell ≤ now) := by
  unfold Lot.warm
  cases l.warmFrom <;> rfl

/-- The active courses in fire order (R37). -/
theorem activeCourses_order (s : State) :
    (∀ c, c ∈ s.activeCourses ↔ c < s.courses.length ∧
        ((s.course c).state = .fired ∨ (s.course c).state = .ready ∨ (s.course c).state = .plating)) ∧
      s.activeCourses.Pairwise fun a b => a ≠ b ∧ (s.course a).fireSeq.getD 0 ≤ (s.course b).fireSeq.getD 0 :=
  ⟨fun c => by rw [mem_activeCourses, CourseState.active_iff], activeCourses_pairwise s⟩

end Sys2Proof.Machine

namespace Sys2Proof.Certificates

open Sys2Proof.Machine

/-- O23's clauses of a batch (R45, R73). -/
theorem batchTimers_clauses (c : Nat) (a : BatchArgs) (b : Batch) (s : State) (live : s.day.resetLow = false)
    (ha : (s.course c).batch = some a) (hb : s.batchOf c = some b) :
    (b.state = .cooking → b.remaining = 0 →
      let w := raise .batchDone a.oven c b.shelves
        (s.setCab a.oven { s.cab a.oven with
          batches := (s.cab a.oven).batches.map fun y =>
            if y.course = c then { y with state := .done, doneAt := some s.day.clock } else y })
      ∃ t, exec (.cookTimeComplete c) s = .next t ∧ Floor w t ∧ t = finish (evaluateAll w)) ∧
      (∀ d, b.state = .done → b.doneAt = some d → d + a.overHold ≤ s.day.clock → (s.course c).overHoldPaged = false →
        let u := s.setCourse c { s.course c with overHoldPaged := true }
        ∃ t, exec (.overHoldLimit c) s = .next t ∧ Floor u t ∧
          t = finish (claimPage (.team s.paging.settings.kitchen) 0x03 a.oven .urgent (some c) u)) := by
  refine ⟨fun h1 h2 => ⟨_, ?_, finish_evaluateAll_floor _, rfl⟩, fun d h1 h2 h3 h4 =>
    ⟨_, ?_, finish_claimPage_floor _ _ _ _ _ _, rfl⟩⟩
  · refine (live_next _ live).trans (congrArg _ ?_)
    unfold cookTimeComplete
    rw [cooked_eq_some hb h1 h2]
    simp only [finishBatch, ovenOf_eq ha]
    rfl
  · refine (live_next _ live).trans (congrArg _ ?_)
    unfold overHoldLimit
    rw [if_pos (overHeld_of ha hb h1 h2 h3 h4), ovenOf_eq ha]
    rfl

/-- O23's clauses of a cabinet (R58, R66, R67, R69). -/
theorem cabinetTimers_clauses (k : Nat) (s : State) (live : s.day.resetLow = false) (sized : Sized s) (hk : k < 24) :
    let c := s.cab k
    (0 < s.readyPlates k → ∃ t, exec (.lotWarm k) s = .next t ∧ Floor s t ∧ t = finish (evaluateAll s)) ∧
      (c.oobT = some 0 →
        let u := s.setCab k { c with oobT := none, lots := c.lots.map fun l => { l with warmFrom := none } }
        ∃ t, exec (.outOfBandExpiry k) s = .next t ∧ Floor u t ∧ t = finish (evaluateAll u)) ∧
      (c.sleepT = some 0 → c.state = .holding →
        let low := min c.standby (s.consumer k).grant
        let w := changeState k .sleep false (callRestore (s.setConsumer k
          { s.consumer k with grant := low, request := low, reqTime := none }))
        ∃ t, exec (.sleepTimerExpiry k) s = .next t ∧ t = finish w ∧ Still s w ∧ Floor w t ∧
          (w.cab k).state = .sleep ∧ (w.cab k).wantMode = .standby ∧ (w.consumer k).grant = low ∧
          (w.consumer k).request = low) ∧
      (c.doorT = some 0 →
        let u := s.setCab k { c with doorT := none }
        ∃ t, exec (.doorTimerExpiry k) s = .next t ∧ Floor u t ∧
          t = finish (claimPage (.team s.paging.settings.kitchen) 0x05 k .normal none u)) ∧
      (let d := (finish s).cab k
       d.sleepT ≠ none ↔ d.kind = .warmer ∧ d.state = .holding ∧ d.lots = [] ∧
         total (d.routes.map fun y => y.count - y.loaded) = 0 ∧ d.idle ≠ 0) := by
  intro c
  refine ⟨fun h => ⟨_, (live_next _ live).trans (congrArg _ (if_pos h)), finish_evaluateAll_floor s, rfl⟩,
    fun h => ⟨_, (live_next _ live).trans (congrArg _ (if_pos h)), finish_evaluateAll_floor _, rfl⟩,
    fun h hh => ⟨_, (live_next _ live).trans (congrArg _ (if_pos ⟨h, hh⟩)), rfl, enterSleep_still k s, finish_floor _,
      enterSleep_records sized hk hh⟩,
    fun h => ⟨_, (live_next _ live).trans (congrArg _ (if_pos h)), finish_claimPage_floor _ _ _ _ _ _, rfl⟩,
    finish_sleepTimed sized hk⟩

/-- O23's clauses of one course's judging (R36–R39, R44). -/
theorem judging_clauses (c : Nat) (s : State) :
    let x := s.course c
    let team := (s.fn x.fn).team
    let seq := fun (i : Nat) => (s.course i).fireSeq.getD 0
    let done := ∃ b, s.batchOf c = some b ∧ b.state = .done
    let warm := fun (k : Nat) =>
      total ((s.earmarks.filter fun e => e.cab = k ∧ seq e.course ≤ seq c).map (·.count)) ≤ s.readyPlates k
    let holds := (x.batch = none ∨ done) ∧ x.owed = 0 ∧ ∀ e ∈ s.earmarks, e.course = c → warm e.cab
    let entered := fun (st : CourseState) => s.setCourse c { x with state := st }
    (x.state = .fired → holds → evaluate c s =
      raise .courseState c CourseState.ready.code CourseState.fired.code
        (claimPage (.team team) 0x01 x.station .normal (some c) (startRush team (entered .ready)))) ∧
      (x.state = .ready → ¬holds → evaluate c s =
        cancelCoursePages c true (raise .courseReverted c (if 0 < x.owed then 0 else 1) x.owed (entered .fired))) ∧
      (x.state ≠ .fired ∨ ¬holds → x.state ≠ .ready ∨ holds → evaluate c s = s) ∧
      (let short := (x.state = .fired ∨ x.state = .ready ∨ x.state = .plating) ∧ done ∧ 0 < x.owed ∧ x.shortPaged = false
       (short → pageShort c s = claimPage (.team s.paging.settings.dish) 0x02 x.owed .rush (some c)
         (s.setCourse c { x with shortPaged := true })) ∧
         (¬short → pageShort c s = s)) := by
  intro x team seq done warm holds entered
  have ready : s.isReady c = true ↔ holds := isReady_iff c s
  refine ⟨fun h hr => evaluate_fired h (ready.2 hr),
    fun h hr => evaluate_ready h (Bool.eq_false_iff.2 (mt ready.1 hr)),
    fun h1 h2 => evaluate_none (fun h => Bool.eq_false_iff.2 (mt ready.1 (h1.resolve_left (absurd h))))
      (fun h => ready.2 (h2.resolve_left (absurd h))),
    fun h => ?_, fun h => ?_⟩
  · exact if_pos ((short_iff c s).2 h)
  · exact if_neg (mt (short_iff c s).1 h)

/-- O23's clauses of a rush window (R127). -/
theorem startRush_clauses (tm : Nat) (s : State) :
    (1 ≤ tm → tm ≤ 14 → startRush tm s = selectPass (s.withPaging { s.paging with
      rush := s.paging.rush.set (tm - 1) (some (s.day.clock + s.paging.settings.rushLen)) })) ∧
      (tm = 0 ∨ 14 < tm → startRush tm s = s) := by
  refine ⟨fun h1 h2 => ?_, fun h => if_neg fun ht => ?_⟩
  · refine (if_pos ((isTeam_iff tm).2 ⟨h1, h2⟩)).trans (congrArg selectPass (if_neg ?_))
    omega
  · have := (isTeam_iff tm).1 ht
    omega

/-- Settles O23. -/
theorem batchAndCabinetTimersAct : Obligations.BatchAndCabinetTimersAct := by
  refine ⟨batchTimers_clauses, cabinetTimers_clauses, judging_clauses, startRush_clauses, fun k cls s h => ?_,
    fun s => ⟨rfl, activeCourses_order s⟩⟩
  unfold State.readyPlates State.dwellOf
  simp only [h]
  exact congrArg (fun l => total (l.map (·.count))) (List.filter_congr fun l _ => Lot.warm_eq _ _ l)

end Sys2Proof.Certificates
end

section
/-! SUPPORT. A course's fire and its earmarks (R28–R35). -/

namespace Sys2Proof.Machine

variable {s t : State}

/-! ### Sums over the earmark table -/

/-- The plates of the entries whose course and cabinet satisfy a test. -/
def heldBy (q : Nat → Nat → Bool) (l : List Earmark) : Nat :=
  total ((l.filter fun e => q e.course e.cab).map (·.count))

theorem earmarkedFor_eq (s : State) (c : Nat) : s.earmarkedFor c = heldBy (fun i _ => decide (i = c)) s.earmarks := rfl

theorem earmarkedAt_eq (s : State) (k : Nat) : s.earmarkedAt k = heldBy (fun _ j => decide (j = k)) s.earmarks := rfl

theorem earmark_eq (s : State) (c k : Nat) :
    s.earmark c k = heldBy (fun i j => decide (i = c) && decide (j = k)) s.earmarks := rfl

theorem heldBy_perm (q : Nat → Nat → Bool) {l m : List Earmark} (h : l.Perm m) : heldBy q l = heldBy q m :=
  total_perm ((h.filter _).map _)

theorem heldBy_cons (q : Nat → Nat → Bool) (e : Earmark) (l : List Earmark) :
    heldBy q (e :: l) = (if q e.course e.cab then e.count else 0) + heldBy q l := by
  unfold heldBy
  by_cases h : q e.course e.cab = true <;> simp [h, total_cons]

/-- The entries of one pair, and the others. -/
theorem heldBy_split (q : Nat → Nat → Bool) (c k : Nat) (l : List Earmark) :
    heldBy q l = heldBy q (l.filter fun e => !(decide (e.course = c) && decide (e.cab = k))) +
      if q c k then heldBy (fun i j => decide (i = c) && decide (j = k)) l else 0 := by
  induction l with
  | nil => simp [heldBy]
  | cons e l ih =>
    rw [heldBy_cons, heldBy_cons, ih, List.filter_cons]
    by_cases he : e.course = c ∧ e.cab = k
    · obtain ⟨rfl, rfl⟩ := he
      by_cases hq : q e.course e.cab = true
      · simp [hq]
        omega
      · simp [hq]
    · have hn : (decide (e.course = c) && decide (e.cab = k)) = false := by simpa using he
      simp only [hn, Bool.not_false, if_true, heldBy_cons, Bool.false_eq_true, if_false, Nat.zero_add]
      omega

/-- A sum after a pair's entry has been set. -/
theorem heldBy_setEarmark (q : Nat → Nat → Bool) (c k n : Nat) (s : State) :
    heldBy q (setEarmark c k n s).earmarks + (if q c k then s.earmark c k else 0) =
      heldBy q s.earmarks + if q c k then n else 0 := by
  have hs := heldBy_split q c k s.earmarks
  have hn : heldBy q (setEarmark c k n s).earmarks =
      heldBy q (s.earmarks.filter fun e => !(decide (e.course = c) && decide (e.cab = k))) + if q c k then n else 0 := by
    unfold setEarmark
    rw [State.withEarmarks_earmarks]
    split
    · rename_i h
      simp [h]
    · rw [heldBy_perm q (insertBy_perm _ _ _), heldBy_cons, Nat.add_comm]
  rw [hn, hs, earmark_eq]
  split <;> omega

/-! ### One course's take at one cabinet (R29, R34) -/

theorem takeEarmark_none {c k : Nat} (h : min (s.freePlates k) (s.course c).owed = 0) : takeEarmark c k s = s := if_pos h

/-- A take writes the course's owed and the earmark table. -/
theorem takeEarmark_some {c k : Nat} (h : min (s.freePlates k) (s.course c).owed ≠ 0) :
    takeEarmark c k s =
      setOwed c ((s.course c).owed - min (s.freePlates k) (s.course c).owed)
        (setEarmark c k (s.earmark c k + min (s.freePlates k) (s.course c).owed) s) := if_neg h

theorem takeEarmark_earmarks {c k : Nat} (h : min (s.freePlates k) (s.course c).owed ≠ 0) :
    (takeEarmark c k s).earmarks =
      (setEarmark c k (s.earmark c k + min (s.freePlates k) (s.course c).owed) s).earmarks := by
  rw [takeEarmark_some h]
  rfl

theorem takeEarmark_beside (c k : Nat) (s : State) : Beside s (takeEarmark c k s) :=
  (Beside.hush s).takeEarmark c k (Beside.refl s)

theorem takeEarmark_owed {c : Nat} (k : Nat) (hc : c < s.courses.length) :
    ((takeEarmark c k s).course c).owed = (s.course c).owed - min (s.freePlates k) (s.course c).owed := by
  by_cases h : min (s.freePlates k) (s.course c).owed = 0
  · rw [takeEarmark_none h, h]
    rfl
  · rw [takeEarmark_some h]
    exact congrArg Course.owed (State.course_setCourse _ _ _ hc)

/-- What a sum over the earmarks gains by a take. -/
theorem heldBy_takeEarmark (q : Nat → Nat → Bool) (c k : Nat) (s : State) :
    heldBy q (takeEarmark c k s).earmarks =
      heldBy q s.earmarks + if q c k then min (s.freePlates k) (s.course c).owed else 0 := by
  by_cases h : min (s.freePlates k) (s.course c).owed = 0
  · rw [takeEarmark_none h, h]
    simp
  · have hs := heldBy_setEarmark q c k (s.earmark c k + min (s.freePlates k) (s.course c).owed) s
    rw [takeEarmark_earmarks h]
    by_cases hq : q c k = true
    · rw [if_pos hq, if_pos hq] at hs
      rw [if_pos hq]
      omega
    · rw [if_neg hq, if_neg hq] at hs
      rw [if_neg hq]
      exact hs

theorem takeEarmark_earmarkedFor (c k : Nat) (s : State) :
    (takeEarmark c k s).earmarkedFor c = s.earmarkedFor c + min (s.freePlates k) (s.course c).owed := by
  rw [earmarkedFor_eq, heldBy_takeEarmark, if_pos (decide_eq_true rfl)]
  rfl

theorem takeEarmark_freePlates (c k j : Nat) (s : State) :
    (takeEarmark c k s).freePlates j =
      s.freePlates j - if k = j then min (s.freePlates k) (s.course c).owed else 0 := by
  have cab : (takeEarmark c k s).cab j = s.cab j := by unfold State.cab; rw [(takeEarmark_beside c k s).cabs]
  have free (t : State) : t.freePlates j = (t.cab j).lotTotal - t.earmarkedAt j := rfl
  rw [free, free s, cab, earmarkedAt_eq, heldBy_takeEarmark, ← earmarkedAt_eq]
  simp only [decide_eq_true_eq]
  split <;> omega

theorem takeEarmark_course (c k : Nat) (s : State) : CourseKeeps (s.course c) ((takeEarmark c k s).course c) :=
  ((Floor.stable s).toHush.takeEarmark c k (Floor.refl s)).course c

theorem takeEarmark_length (c k : Nat) (s : State) : (takeEarmark c k s).courses.length = s.courses.length := by
  unfold takeEarmark
  dsimp only
  split
  · rfl
  · simp [setOwed, setEarmark, State.setCourse]

theorem takeEarmark_serves (c k j : Nat) (s : State) : (takeEarmark c k s).servesCourse c j = s.servesCourse c j := by
  have beside := takeEarmark_beside c k s
  have keeps := takeEarmark_course c k s
  unfold State.servesCourse State.reaches State.cab State.fn
  rw [beside.cabs, beside.fns, keeps.cls, keeps.fn]

/-! ### A course's visits (R29, step 4) -/

/-- The course visits a cabinet: it takes there if the cabinet serves it. -/
def visit (c k : Nat) (s : State) : State := if s.servesCourse c k then takeEarmark c k s else s

theorem takeEarmarks_eq (c : Nat) (s : State) : takeEarmarks c s = forEach (List.range 24) (visit c) s := rfl

/-- What the visits of a course do between `s` and `t`: it takes plate for plate, and no cabinet gets more free plates. -/
structure Visited (c : Nat) (s t : State) : Prop where
  courses : t.courses.length = s.courses.length
  sum : t.earmarkedFor c + (t.course c).owed = s.earmarkedFor c + (s.course c).owed
  owed : (t.course c).owed ≤ (s.course c).owed
  free : ∀ j, t.freePlates j ≤ s.freePlates j
  serves : ∀ j, t.servesCourse c j = s.servesCourse c j

theorem Visited.refl (c : Nat) (s : State) : Visited c s s :=
  ⟨rfl, rfl, Nat.le_refl _, fun _ => Nat.le_refl _, fun _ => rfl⟩

theorem Visited.trans {c : Nat} {s t u : State} (h : Visited c s t) (g : Visited c t u) : Visited c s u :=
  ⟨g.courses.trans h.courses, g.sum.trans h.sum, g.owed.trans h.owed, fun j => (g.free j).trans (h.free j),
    fun j => (g.serves j).trans (h.serves j)⟩

theorem visit_visited {c : Nat} (k : Nat) (hc : c < s.courses.length) : Visited c s (visit c k s) := by
  unfold visit
  split
  · refine ⟨takeEarmark_length c k s, ?_, ?_, fun j => ?_, fun j => takeEarmark_serves c k j s⟩
    · rw [takeEarmark_earmarkedFor, takeEarmark_owed k hc]
      omega
    · rw [takeEarmark_owed k hc]
      omega
    · rw [takeEarmark_freePlates]
      omega
  · exact Visited.refl c s

/-- After its visit a course owes nothing, or the cabinet that serves it has no free plate. -/
theorem visit_exhausts {c k : Nat} (hc : c < s.courses.length) (hk : s.servesCourse c k = true) :
    ((visit c k s).course c).owed = 0 ∨ (visit c k s).freePlates k = 0 := by
  unfold visit
  rw [if_pos hk, takeEarmark_owed k hc, takeEarmark_freePlates, if_pos rfl]
  omega

theorem visits_visited {c : Nat} : ∀ (l : List Nat) {s : State}, c < s.courses.length → Visited c s (forEach l (visit c) s)
  | [], s, _ => Visited.refl c s
  | k :: l, _, hc => by
    have h := visit_visited k hc
    exact h.trans (visits_visited l (h.courses.symm ▸ hc))

/-- A course stops short only where none of the cabinets that serve it has a free plate left. -/
theorem visits_exhaust {c : Nat} : ∀ (l : List Nat) {s : State}, c < s.courses.length →
    ((forEach l (visit c) s).course c).owed = 0 ∨
      ∀ k ∈ l, s.servesCourse c k = true → (forEach l (visit c) s).freePlates k = 0
  | [], _, _ => .inr fun k hk => absurd hk List.not_mem_nil
  | j :: l, s, hc => by
    have first := visit_visited j hc
    have hc' : c < (visit c j s).courses.length := first.courses.symm ▸ hc
    have rest : Visited c (visit c j s) (forEach (j :: l) (visit c) s) := visits_visited l hc'
    rcases visits_exhaust l hc' with h | h
    · exact .inl h
    · refine or_iff_not_imp_left.2 fun howed k hk hserves => ?_
      rcases List.mem_cons.1 hk with rfl | hk
      · rcases visit_exhausts hc hserves with h0 | h0
        · exact absurd (Nat.le_zero.1 (h0 ▸ rest.owed)) howed
        · exact Nat.le_zero.1 (h0 ▸ rest.free k)
      · exact h k hk ((first.serves k).trans hserves)

/-! ### The fire -/

theorem startBatch_floor (c : Nat) (s : State) : Floor s (startBatch c s) := by
  unfold startBatch
  split
  · exact Floor.refl s
  · rename_i b _
    refine (Floor.stable s).cab _ _ { CabKeeps.refl (s.cab b.oven) with batches := ?_ } (Floor.refl s)
    rw [Quiet.refreshBatches_booking, List.map_map]
    refine List.map_congr_left fun b _ => ?_
    simp only [Function.comp_apply]
    split <;> rfl

/-- An empty slot has no batch to start. -/
theorem started_initial (c : Nat) : Cab.initial.started c = Cab.initial := rfl

/-- What a fire leaves: the course's record, the counter and the batch it names aside, all that `Floor` names. -/
theorem fire_started (c : Nat) (u : State) :
    Floor (fired c u) (takeEarmarks c (startBatch c (fired c u))) ∧
      ∀ b, (u.course c).batch = some b →
        (takeEarmarks c (startBatch c (fired c u))).cab b.oven = (u.cab b.oven).started c := by
  refine ⟨(Floor.stable _).toHush.takeEarmarks c (startBatch_floor c _), fun b hb => ?_⟩
  have beside := (Beside.hush _).takeEarmarks c (Beside.refl (startBatch c (fired c u)))
  have cab : (takeEarmarks c (startBatch c (fired c u))).cab b.oven = (startBatch c (fired c u)).cab b.oven := by
    unfold State.cab
    rw [beside.cabs]
  rw [cab]
  by_cases hk : b.oven < u.cabs.length
  · exact startBatch_cab c u b hb hk
  · have hl : (startBatch c (fired c u)).cabs.length = u.cabs.length := by
      unfold startBatch
      rw [fired_batch, hb]
      simp [State.setCab, fired_cabs]
    rw [cab_outside (by rw [hl]; exact hk), cab_outside hk]
    rfl

theorem fired_course {c : Nat} (hc : c < s.courses.length) :
    (fired c s).course c = { s.course c with
      fireSeq := some s.fire.next, fireTime := none, state := .fired, owed := (s.course c).covers, plated := 0 } := by
  unfold fired
  exact State.course_setCourse _ _ _ (by split <;> exact hc)

end Sys2Proof.Machine

namespace Sys2Proof.Certificates

open Sys2Proof.Machine

/-- COURSE_FIRE (R28, R29). -/
theorem courseFire_clauses (p : Port) (c : Nat) (s : State) (ha : Admitted (.courseFire p c) p s) :
    let taken := fun (c : Nat) (u : State) => takeEarmarks c (startBatch c (fired c u))
    let told := fun (c : Nat) (u : State) =>
      evaluate c (raise .courseFired c u.fire.next ((taken c u).course c).owed (taken c u))
    let started := fun (c : Nat) (u : State) =>
      Floor (fired c u) (taken c u) ∧
        ∀ b, (u.course c).batch = some b → (taken c u).cab b.oven = (u.cab b.oven).started c
    let i := Instr.courseFire p c
    let u := before i p s
    let x := u.course c
    let good := c < 32 ∧ x.state = .armed ∧ s.day.state = .service
    (good → s.fire.exhausted = false →
      ∃ t, Executes i p s (beOpt16 (some s.fire.next) ++ be16 (t.earmarkedFor c) ++ be16 (t.course c).owed) t ∧
        t = finish (told c u) ∧ started c u ∧
        Floor (raise .courseFired c s.fire.next ((taken c u).course c).owed (taken c u)) t) ∧
      (good → s.fire.exhausted = true → RefusedWith i p s .full) ∧
      (c < 32 → x.state = .empty → RefusedWith i p s .notFound) ∧
      (c < 32 → x.state ≠ .empty → x.state ≠ .armed ∨ s.day.state ≠ .service → RefusedWith i p s .badState) ∧
      (32 ≤ c → RefusedWith i p s .range) := by
  intro taken told started i u x good
  have hb : courseFireBody c u = checked _ _ u := rfl
  have hfire : u.fire = s.fire := before_fire _ _ _
  have able : (inDay u [.service] && decide ((u.course c).state = .armed)) = true ↔
      x.state = .armed ∧ s.day.state = .service := by
    simp [inDay, u, x, and_comm]
  have found (h : x.state = .armed) : decide ((u.course c).state ≠ .empty) = true :=
    decide_eq_true (by rw [show (u.course c).state = .armed from h]; decide)
  refine ⟨fun hg he => ⟨finish (told c u), ?_, rfl, fire_started c u, ?_⟩, fun hg he => ?_, fun h32 hx => ?_,
    fun h32 hx h => ?_, fun h32 => ?_⟩
  · have floor : Floor (taken c u) (finish (told c u)) :=
      let h := Floor.stable (taken c u)
      h.finish (h.evaluate c (h.raise _ _ _ _ (Floor.refl _)))
    have seq : ((finish (told c u)).course c).fireSeq = some s.fire.next := by
      have hc : c < u.courses.length := lt_of_used (by rw [show u.course c = x from rfl, hg.2.1]; decide)
      rw [(floor.course c).fireSeq, ((fire_started c u).1.course c).fireSeq, fired_course hc, hfire]
    refine Executes.of_checks rfl ha hb ?_ (okWith_congr ?_ rfl)
    · exact (firstFailure_tail (by simpa using hg.1)).trans ((firstFailure_tail (found hg.2.1)).trans
        ((firstFailure_tail (able.2 hg.2)).trans (firstFailure_tail (by rw [hfire, he]; rfl))))
    · rw [← seq]
      rfl
  · rw [← hfire]
    exact Floor.finish_hush (fun h => h.evaluate c) _
  · exact RefusedWith.of_checks rfl ha hb ((firstFailure_tail (by simpa using hg.1)).trans
      ((firstFailure_tail (found hg.2.1)).trans ((firstFailure_tail (able.2 hg.2)).trans
        (firstFailure_head (by rw [hfire, he]; rfl)))))
  · exact RefusedWith.of_checks rfl ha hb ((firstFailure_tail (by simpa using h32)).trans
      (firstFailure_head (by simpa using hx)))
  · refine RefusedWith.of_checks rfl ha hb ((firstFailure_tail (by simpa using h32)).trans
      ((firstFailure_tail (by simpa using hx)).trans (firstFailure_head (Bool.eq_false_iff.2 fun hd => ?_))))
    obtain ⟨h1, h2⟩ := able.1 hd
    exact h.elim (absurd h1) (absurd h2)
  · exact RefusedWith.of_checks rfl ha hb (firstFailure_head (decide_eq_false (by omega)))

/-- PLANNED_FIRE_TIME_REACHED (R30). -/
theorem plannedFire_clauses (c tm : Nat) (s : State) (live : s.day.resetLow = false) (ht : (s.course c).fireTime = some tm)
    (hclock : tm ≤ s.day.clock) :
    let taken := fun (c : Nat) (u : State) => takeEarmarks c (startBatch c (fired c u))
    let told := fun (c : Nat) (u : State) =>
      evaluate c (raise .courseFired c u.fire.next ((taken c u).course c).owed (taken c u))
    let started := fun (c : Nat) (u : State) =>
      Floor (fired c u) (taken c u) ∧
        ∀ b, (u.course c).batch = some b → (taken c u).cab b.oven = (u.cab b.oven).started c
    let x := s.course c
    let good := x.state = .armed ∧ s.day.state = .service ∧ s.fire.exhausted = false
    (good →
      ∃ t, exec (.plannedFireTimeReached c) s = .next t ∧ t = finish (told c s) ∧ started c s ∧
        Floor (raise .courseFired c s.fire.next ((taken c s).course c).owed (taken c s)) t) ∧
      (¬good →
        exec (.plannedFireTimeReached c) s =
          .next (raise .courseFireMissed c x.state.code (tm % 65536) (s.setCourse c { x with fireTime := none }))) := by
  intro taken told started x good
  have due : plannedFire c s =
      if decide (x.state = .armed) && decide (s.day.state = .service) && !s.fire.exhausted then finish (fireCourse c s)
      else missFire c tm s := by
    unfold plannedFire
    dsimp only
    rw [ht]
    exact if_neg (Nat.not_lt.2 hclock)
  have able : (decide (x.state = .armed) && decide (s.day.state = .service) && !s.fire.exhausted) = true ↔ good := by
    simp [good, and_assoc]
  refine ⟨fun hg => ⟨finish (told c s), ?_, rfl, fire_started c s, Floor.finish_hush (fun h => h.evaluate c) _⟩, fun hg => ?_⟩
  · refine (live_next _ live).trans (congrArg _ ?_)
    rw [due, if_pos (able.2 hg)]
    rfl
  · refine (live_next _ live).trans (congrArg _ ?_)
    rw [due, if_neg (mt able.1 hg)]
    rfl

/-- O20's clause of a fire's earmarks (R29, step 4). -/
theorem takeEarmarks_clauses (c : Nat) (s : State) (hc : c < s.courses.length) :
    let t := takeEarmarks c s
    t.earmarkedFor c + (t.course c).owed = s.earmarkedFor c + (s.course c).owed ∧
      ((t.course c).owed = 0 ∨
        ∀ k, k < 24 → (s.cab k).eligible = true → (s.cab k).cls = some (s.course c).cls → s.reaches c k = true →
          t.freePlates k = 0) := by
  intro t
  refine ⟨(visits_visited (List.range 24) hc).sum, (visits_exhaust (List.range 24) hc).imp_right fun h k hk h1 h2 h3 => ?_⟩
  refine h k (List.mem_range.2 hk) ?_
  simp only [State.servesCourse, h1, h2, h3, decide_true, Bool.and_self]

/-- O20's clause of one take (R29, R34). -/
theorem takeEarmark_clauses (c k : Nat) (s : State) :
    let x := s.course c
    let n := min (s.freePlates k) x.owed
    let t := takeEarmark c k s
    (n = 0 → t = s) ∧
      (n ≠ 0 →
        t.earmark c k = s.earmark c k + n ∧ (∀ i j, i ≠ c ∨ j ≠ k → t.earmark i j = s.earmark i j) ∧
          t = (s.setCourse c { x with owed := x.owed - n }).withEarmarks t.earmarks) := by
  intro x n t
  refine ⟨takeEarmark_none, fun h => ?_⟩
  have written : t = setOwed c (x.owed - n) (setEarmark c k (s.earmark c k + n) s) := takeEarmark_some h
  have marks (i j : Nat) : t.earmark i j = if i = c ∧ j = k then s.earmark c k + n else s.earmark i j := by
    rw [written, ← earmark_setEarmark]
    rfl
  refine ⟨(marks c k).trans (if_pos ⟨rfl, rfl⟩), fun i j hij => (marks i j).trans (if_neg ?_), ?_⟩
  · tauto
  · rw [written]
    rfl

/-- O20's clauses of the walks and of a release (R29, R34, R35). -/
theorem walks_clauses (c k : Nat) (s : State) :
    let serves := fun (c k : Nat) (t : State) =>
      let w := t.cab k
      w.kind = .warmer ∧ (w.state = .heating ∨ w.state = .holding ∨ w.state = .waitPower ∨ w.state = .shed) ∧
        w.cls = some (t.course c).cls ∧ (t.fn (t.course c).fn).members.testBit k = true
    takeEarmarks c s = forEach (List.range 24) (fun j t => if serves c j t then takeEarmark c j t else t) s ∧
      ∀ cls, (s.cab k).cls = some cls →
        walkOwing k s = forEach (s.owing cls) (fun i t => if serves i k t then takeEarmark i k t else t) s ∧
          refill cls s = forEach (s.owing cls) takeEarmarks s ∧
          (let held := s.earmarks.filter fun e => e.cab = k
           let freed := held.foldl (fun t e =>
             setOwed e.course ((t.course e.course).owed + e.count) (setEarmark e.course e.cab 0 t)) s
           (held = [] → releaseWarmer k s = s) ∧
             (held ≠ [] → (freed.cab k).cls = some cls → releaseWarmer k s = evaluateAll (refill cls freed))) := by
  intro serves
  have taking (i j : Nat) (t : State) :
      (if t.servesCourse i j then takeEarmark i j t else t) = if serves i j t then takeEarmark i j t else t :=
    if_congr (servesCourse_iff i j t) rfl rfl
  refine ⟨?_, fun cls hcls => ⟨?_, rfl, fun hnone => ?_, fun hsome hfreed => ?_⟩⟩
  · unfold takeEarmarks
    simp only [taking]
  · unfold walkOwing
    rw [hcls]
    simp only [taking]
  · unfold releaseWarmer
    rw [hnone]
  · unfold releaseWarmer
    split
    · exact absurd (by assumption) hsome
    · show (match (State.cab _ k).cls with | none => _ | some cls => _) = _
      unfold releaseEntries releaseEntry
      rw [hfreed]

/-- Settles O20. -/
theorem coursesFire : Obligations.CoursesFire := by
  refine ⟨courseFire_clauses, plannedFire_clauses, takeEarmarks_clauses, takeEarmark_clauses, walks_clauses, fun cls s =>
    ⟨fun c => ?_, owing_pairwise s cls⟩⟩
  rw [mem_owing, CourseState.active_iff]

end Sys2Proof.Certificates
end

section
/-! SUPPORT. A batch joins an oven's list (R27, R47, R73). -/

namespace Sys2Proof.Machine

variable {s : State}

/-! ### A batch that has not begun to cook -/

/-- A batch under the run condition of its oven (R73). -/
def Batch.refreshed (run : Bool) (b : Batch) : Batch :=
  if run then
    if b.state = .waiting ∨ b.state = .paused then { b with state := .cooking } else b
  else if b.state = .cooking ∧ b.remaining ≠ 0 then { b with state := .paused }
  else b

theorem refreshBatches_batches (c : Cab) : c.refreshBatches.batches = c.batches.map (Batch.refreshed c.runs) := rfl

theorem refreshBatches_keeps (c : Cab) : CabKeeps c c.refreshBatches :=
  { CabKeeps.refl c with batches := Quiet.refreshBatches_booking c }

/-- BOOKED or WAITING. -/
def Batch.Unbegun (b : Batch) : Prop := b.state = .booked ∨ b.state = .waiting

theorem Batch.Unbegun.refreshed {b : Batch} (h : b.Unbegun) (run : Bool) :
    b.refreshed run = { b with state := if b.state ≠ .booked ∧ run = true then .cooking else b.state } := by
  obtain ⟨c, n, t, r, st, d⟩ := b
  rcases h with h | h <;> cases run <;> (cases h; rfl)

/-- It stays as it is while its oven does not run. -/
theorem Batch.Unbegun.refreshed_false {b : Batch} (h : b.Unbegun) : b.refreshed false = b := by
  rw [h.refreshed]
  simp

theorem Batch.Unbegun.refreshed_twice {b : Batch} (h : b.Unbegun) (run : Bool) :
    (b.refreshed run).refreshed run = b.refreshed run := by
  rw [h.refreshed]
  obtain ⟨c, n, t, r, st, d⟩ := b
  rcases h with h | h <;> cases run <;> (cases h; rfl)

/-- The batch stands in the list, as it came or as the run condition has made it. -/
def Cab.Lists (c : Cab) (b : Batch) : Prop := b ∈ c.batches ∨ b.refreshed c.runs ∈ c.batches

theorem Cab.Lists.refresh {c : Cab} {b : Batch} (hb : b.Unbegun) (h : c.Lists b) :
    b.refreshed c.runs ∈ c.refreshBatches.batches := by
  rw [refreshBatches_batches]
  rcases h with h | h
  · exact List.mem_map_of_mem h
  · exact hb.refreshed_twice c.runs ▸ List.mem_map_of_mem (f := Batch.refreshed c.runs) h

/-- Entry to a state in which a cabinet is on (R73). -/
theorem enter_lists {c : Cab} {b : Batch} {st : CabState} (hst : st = .waitPower ∨ st = .heating ∨ st = .holding)
    (h : b ∈ c.batches) : (c.enter st).Lists b := by
  rcases hst with rfl | rfl | rfl <;> exact .inr (List.mem_map_of_mem h)

/-- Entry to WAIT_POWER or HEATING: an oven that does not run. -/
theorem enter_mem {c : Cab} {b : Batch} {st : CabState} (hb : b.Unbegun) (hst : st = .waitPower ∨ st = .heating)
    (h : b ∈ c.batches) : b ∈ (c.enter st).batches := by
  have hr : b.refreshed false ∈ c.batches.map (Batch.refreshed false) := List.mem_map_of_mem h
  rw [hb.refreshed_false] at hr
  rcases hst with rfl | rfl <;> exact hr

theorem changeState_self {k : Nat} {st : CabState} (u : Bool) (h : (s.cab k).state = st) : changeState k st u s = s := by
  unfold changeState
  exact if_pos h

theorem changeState_mem {k : Nat} {b : Batch} {st : CabState} (u : Bool) (hk : k < s.cabs.length) (hb : b.Unbegun)
    (hst : st = .waitPower ∨ st = .heating) (h : b ∈ (s.cab k).batches) : b ∈ ((changeState k st u s).cab k).batches := by
  by_cases e : (s.cab k).state = st
  · rwa [changeState_self u e]
  · rw [changeState_cab u hk e]
    exact enter_mem hb hst h

theorem cab_congr {s t : State} (h : t.cabs = s.cabs) (k : Nat) : t.cab k = s.cab k := by unfold State.cab; rw [h]

theorem requestHeat_mem {k : Nat} {b : Batch} (hk : k < s.cabs.length) (hb : b.Unbegun) (h : b ∈ (s.cab k).batches) :
    b ∈ ((requestHeat k s).cab k).batches := by
  unfold requestHeat
  extract_lets t u
  have hu : u.cabs = t.cabs := request_cabs _ _ _
  have ht : t.cabs.length = s.cabs.length := changeState_length _ _ _ _
  have hm : b ∈ (u.cab k).batches := by
    rw [cab_congr hu]
    exact changeState_mem false hk hb (.inl rfl) h
  split
  · exact changeState_mem false (by rw [hu, ht]; exact hk) hb (.inr rfl) hm
  · exact hm

/-- A judged temperature leaves the batch in the list (R56). -/
theorem judgeNow_lists {k : Nat} {b : Batch} (hk : k < s.cabs.length) (hb : b.Unbegun) (h : b ∈ (s.cab k).batches) :
    ((judgeNow k s).cab k).Lists b := by
  unfold judgeNow
  dsimp only
  split
  · rename_i hs
    split
    · have hc : (lowerTo k (s.cab k).hold s).cab k = s.cab k := cab_congr (lowerTo_cabs _ _ _) k
      rw [changeState_cab false (by rw [lowerTo_cabs]; exact hk) (by rw [hc, hs]; decide), hc]
      exact enter_lists (.inr (.inr rfl)) h
    · exact .inl h
  · split
    · exact .inl (requestHeat_mem hk hb h)
    · exact .inl h
  · exact .inl h

/-! ### Booking -/

theorem booked_cab {k : Nat} (b : Batch) (hk : k < s.cabs.length) : b ∈ ((booked k b s).cab k).batches := by
  unfold booked
  rw [cab_setCab _ _ _ hk]
  simp

theorem booked_length (k : Nat) (b : Batch) (s : State) : (booked k b s).cabs.length = s.cabs.length := by
  simp [booked, State.setCab]

/-- The oven once the setpoint of a first batch has been claimed and judged (R54, R56). -/
def bookedJudged (k : Nat) (b : Batch) (s : State) : State :=
  if (s.cab k).batches = [] ∧ (s.cab k).setpoint ≠ b.setpoint then judgeNow k (claimCab k false (booked k b s)) else booked k b s

theorem bookedAndRun_eq (k : Nat) (b : Batch) (s : State) :
    bookedAndRun k b s = (bookedJudged k b s).setCab k ((bookedJudged k b s).cab k).refreshBatches := rfl

theorem bookedJudged_still (k : Nat) (b : Batch) (s : State) : Still (booked k b s) (bookedJudged k b s) := by
  unfold bookedJudged
  split
  · exact Still.judgeNow k ((Still.stable _).toHush.claimCab k false (Still.refl _))
  · exact Still.refl _

theorem bookedJudged_lists {k : Nat} {b : Batch} (hk : k < s.cabs.length) (hb : b.Unbegun) :
    ((bookedJudged k b s).cab k).Lists b := by
  unfold bookedJudged
  split
  · have hc := ((Beside.hush (booked k b s)).claimCab k false (Beside.refl _)).cabs
    refine judgeNow_lists (by rw [hc, booked_length]; exact hk) hb ?_
    rw [cab_congr hc]
    exact booked_cab b hk
  · exact .inl (booked_cab b hk)

theorem bookedJudged_length (k : Nat) (b : Batch) (s : State) : (bookedJudged k b s).cabs.length = s.cabs.length := by
  have judged (t : State) : (judgeNow k t).cabs.length = t.cabs.length := by
    unfold judgeNow
    dsimp only
    split
    · split
      · rw [changeState_length, lowerTo_cabs]
      · rfl
    · split
      · unfold requestHeat
        dsimp only
        split
        · rw [changeState_length, request_cabs, changeState_length]
        · rw [request_cabs, changeState_length]
      · rfl
    · rfl
  unfold bookedJudged
  split
  · rw [judged, ((Beside.hush (booked k b s)).claimCab k false (Beside.refl _)).cabs, booked_length]
  · exact booked_length k b s

/-- What a booking leaves as it was, the record of its oven aside. -/
theorem bookedAndRun_still (k : Nat) (b : Batch) (s : State) : Still (booked k b s) (bookedAndRun k b s) := by
  rw [bookedAndRun_eq]
  exact (Still.stable _).cab k _ (refreshBatches_keeps _) (bookedJudged_still k b s)

/-- The batch stands in the oven's list, under the oven's run condition (R73). -/
theorem bookedAndRun_mem {k : Nat} {b : Batch} (hk : k < s.cabs.length) (hb : b.Unbegun) :
    b.refreshed ((bookedAndRun k b s).cab k).runs ∈ ((bookedAndRun k b s).cab k).batches := by
  rw [bookedAndRun_eq, cab_setCab _ _ _ (by rw [bookedJudged_length]; exact hk)]
  exact (bookedJudged_lists hk hb).refresh hb

/-! ### The tests of an oven (R27, R47) -/

/-- An oven that is neither in FAULT nor OFFLINE stands in the table. -/
theorem lt_of_inUse {k : Nat} (h : ¬((s.cab k).state = .fault ∨ (s.cab k).state = .offline)) : k < s.cabs.length := by
  by_contra hk
  rw [cab_outside hk] at h
  exact h (.inr rfl)

theorem outOfUse_iff (c : Cab) : c.outOfUse = true ↔ c.state = .fault ∨ c.state = .offline := by simp [Cab.outOfUse]

theorem fits_iff (c : Cab) (shelves : Nat) (setpoint : Int) :
    (decide (shelves ≤ c.freeShelves) && c.batches.all fun b => decide (b.setpoint = setpoint)) = true ↔
      ¬clashes c shelves setpoint := by
  simp only [clashes, Cab.freeShelves, Bool.and_eq_true, decide_eq_true_eq, List.all_eq_true, not_or, not_exists, not_and,
    not_not, Nat.not_lt]
  exact and_congr_left fun _ => decide_eq_true_iff

variable {c : Cab} {shelves : Nat} {setpoint : Int}

theorem bookable_ok (h1 : ¬(c.state = .fault ∨ c.state = .offline)) (h2 : c.batches.length < 4)
    (h3 : ¬clashes c shelves setpoint) : firstFailure (c.bookable shelves setpoint) = none :=
  (firstFailure_tail (by simpa using mt (outOfUse_iff c).1 h1)).trans ((firstFailure_tail (decide_eq_true h2)).trans
    (firstFailure_tail ((fits_iff c shelves setpoint).2 h3)))

theorem bookable_out (h : c.state = .fault ∨ c.state = .offline) :
    firstFailure (c.bookable shelves setpoint) = some .badState :=
  firstFailure_head (by simpa using (outOfUse_iff c).2 h)

theorem bookable_full (h1 : ¬(c.state = .fault ∨ c.state = .offline)) (h2 : 4 ≤ c.batches.length) :
    firstFailure (c.bookable shelves setpoint) = some .full :=
  (firstFailure_tail (by simpa using mt (outOfUse_iff c).1 h1)).trans (firstFailure_head (decide_eq_false (Nat.not_lt.2 h2)))

theorem bookable_clash (h1 : ¬(c.state = .fault ∨ c.state = .offline)) (h2 : c.batches.length < 4)
    (h3 : clashes c shelves setpoint) : firstFailure (c.bookable shelves setpoint) = some .conflict :=
  (firstFailure_tail (by simpa using mt (outOfUse_iff c).1 h1)).trans ((firstFailure_tail (decide_eq_true h2)).trans
    (firstFailure_head (Bool.eq_false_iff.2 fun h => (fits_iff c shelves setpoint).1 h h3)))

/-! ### The two commands' checks and effects -/

/-- COURSE_ARM's own checks come before those of the batch. -/
theorem courseArmBody_none {c : Nat} (h : (s.course c).batch = none) :
    courseArmBody c s =
      checked
        ((decide (c < 32), .range) :: (decide ((s.course c).state ≠ .empty), .notFound) ::
          [(inDay s [.service] && decide ((s.course c).state = .planned), .badState)])
        (fun s => okWith [] (finish (enterCourse c .armed s))) s := by
  unfold courseArmBody
  simp only [h]
  rfl

theorem courseArmBody_some {c : Nat} {b : BatchArgs} (h : (s.course c).batch = some b) :
    courseArmBody c s =
      checked
        ((decide (c < 32), .range) :: (decide ((s.course c).state ≠ .empty), .notFound) ::
          (inDay s [.service] && decide ((s.course c).state = .planned), .badState) ::
          (s.cab b.oven).bookable b.shelves b.setpoint)
        (fun s => okWith [] (finish (enterCourse c .armed
          (bookBatch b.oven ⟨c, b.shelves, b.setpoint, b.cook, .booked, none⟩ s)))) s := by
  unfold courseArmBody
  simp only [h]
  rfl

/-- COURSE_REBATCH of a course whose batch is in a list. -/
theorem courseRebatchBody_some {c k : Nat} {a : BatchArgs} {b : Batch} (ha : (s.course c).batch = some a)
    (hb : s.batchOf c = some b) :
    courseRebatchBody c k s =
      checked
        ((decide (c < 32) && decide (k < 24) && (s.cab k).isOven &&
            (decide (a.oven ≠ k) && decide (a.shelves ≤ (s.cab k).shelves)), .range) ::
          (decide ((s.course c).state ≠ .empty), .notFound) :: (inDay s [.service] && b.movable, .badState) ::
          (s.cab k).bookable b.shelves b.setpoint)
        (fun s => okWith (be16 b.remaining) (finish (rebatch c k b s))) s := by
  unfold courseRebatchBody
  simp only [ha, hb]
  rfl

/-- COURSE_REBATCH of a course without a batch. -/
theorem courseRebatchBody_none {c k : Nat} (ha : (s.course c).batch = none) :
    ∃ f, courseRebatchBody c k s =
      checked
        ((decide (c < 32) && decide (k < 24) && (s.cab k).isOven && true, .range) ::
          (decide ((s.course c).state ≠ .empty), .notFound) :: [(inDay s [.service] && false, .badState)]) f s := by
  have hb : s.batchOf c = none := by unfold State.batchOf; rw [ha]
  unfold courseRebatchBody
  simp only [ha, hb]
  exact ⟨_, rfl⟩

theorem movable_iff (b : Batch) : b.movable = true ↔ b.state = .booked ∨ b.state = .waiting ∨ b.state = .paused := by
  simp [Batch.movable, or_assoc]

theorem unbooked_course (c j : Nat) (s : State) : (unbooked c s).course j = s.course j := by
  unfold unbooked
  split <;> rfl

theorem unbooked_cab_other {c k : Nat} {a : BatchArgs} (ha : (s.course c).batch = some a) (hk : a.oven ≠ k) :
    (unbooked c s).cab k = s.cab k := by
  unfold unbooked
  rw [ha]
  exact State.cab_setCab_other _ _ _ _ hk.symm

theorem unbooked_length (c : Nat) (s : State) : (unbooked c s).cabs.length = s.cabs.length := by
  unfold unbooked
  split
  · rfl
  · simp [State.setCab]

/-- The move of a batch (R47): it leaves its list, the course names the other oven, and it is booked there. -/
theorem rebatch_eq {c k : Nat} {a : BatchArgs} (b : Batch) (ha : (s.course c).batch = some a) :
    rebatch c k b s =
      bookBatch k { b with state := if (s.course c).state = .armed then .booked else .waiting }
        ((unbooked c s).setCourse c { s.course c with ovenFault := false, batch := some { a with oven := k } }) := by
  unfold rebatch
  simp only [removeBatch_eq_unbooked, unbooked_course, ha, Option.map_some]

end Sys2Proof.Machine

namespace Sys2Proof.Certificates

open Sys2Proof.Machine

/-- COURSE_ARM (R27). -/
theorem courseArm_clauses (p : Port) (c : Nat) (s : State) (ha : Admitted (.courseArm p c) p s) :
    let i := Instr.courseArm p c
    let u := before i p s
    let x := u.course c
    let armed := fun (v : State) =>
      raise .courseState c CourseState.armed.code CourseState.planned.code
        (v.setCourse c { v.course c with state := .armed })
    let good := c < 32 ∧ x.state = .planned ∧ s.day.state = .service
    (good → x.batch = none → ∃ t, Executes i p s [] t ∧ t = finish (armed u) ∧ Floor (armed u) t) ∧
      (∀ b, good → x.batch = some b →
        let k := u.cab b.oven
        let out := k.state = .fault ∨ k.state = .offline
        let y : Batch := ⟨c, b.shelves, b.setpoint, b.cook, .booked, none⟩
        let w := bookedAndRun b.oven y u
        (¬out → k.batches.length < 4 → ¬clashes k b.shelves b.setpoint →
          ∃ t, Executes i p s [] t ∧ t = finish (armed w) ∧ y ∈ (w.cab b.oven).batches ∧
            Still (booked b.oven y u) w ∧ Floor (armed w) t) ∧
          (out → RefusedWith i p s .badState) ∧ (¬out → 4 ≤ k.batches.length → RefusedWith i p s .full) ∧
          (¬out → k.batches.length < 4 → clashes k b.shelves b.setpoint → RefusedWith i p s .conflict)) ∧
      (c < 32 → x.state = .empty → RefusedWith i p s .notFound) ∧
      (c < 32 → x.state ≠ .empty → x.state ≠ .planned ∨ s.day.state ≠ .service → RefusedWith i p s .badState) ∧
      (32 ≤ c → RefusedWith i p s .range) := by
  intro i u x armed good
  have able : (inDay u [.service] && decide ((u.course c).state = .planned)) = true ↔
      x.state = .planned ∧ s.day.state = .service := by
    simp [inDay, u, x, and_comm]
  have own (hg : good) (rest : List (Bool × Status)) :
      firstFailure ((decide (c < 32), .range) :: (decide ((u.course c).state ≠ .empty), .notFound) ::
        (inDay u [.service] && decide ((u.course c).state = .planned), .badState) :: rest) = firstFailure rest :=
    (firstFailure_tail (by simpa using hg.1)).trans
      ((firstFailure_tail (decide_eq_true (by rw [show (u.course c).state = .planned from hg.2.1]; decide))).trans
        (firstFailure_tail (able.2 hg.2)))
  have entered (v : State) (hv : (v.course c).state = .planned) : enterCourse c .armed v = armed v := by
    unfold enterCourse
    rw [hv]
  have checks : ∃ rest f, courseArmBody c u =
      checked ((decide (c < 32), .range) :: (decide ((u.course c).state ≠ .empty), .notFound) ::
        (inDay u [.service] && decide ((u.course c).state = .planned), .badState) :: rest) f u := by
    cases hx : (u.course c).batch with
    | none => exact ⟨_, _, courseArmBody_none hx⟩
    | some b => exact ⟨_, _, courseArmBody_some hx⟩
  refine ⟨fun hg hx => ⟨_, ?_, rfl, finish_floor _⟩, fun b hg hx => ?_, ?_⟩
  · refine Executes.of_checks rfl ha (courseArmBody_none hx) (own hg []) ?_
    rw [entered _ hg.2.1]
  · intro k out y w
    have body := courseArmBody_some hx
    refine ⟨fun h1 h2 h3 => ⟨_, ?_, rfl, ?_, bookedAndRun_still _ _ _, finish_floor _⟩, fun h => ?_, fun h1 h2 => ?_,
      fun h1 h2 h3 => ?_⟩
    · refine Executes.of_checks rfl ha body ((own hg _).trans (bookable_ok h1 h2 h3)) ?_
      have hw : bookBatch b.oven y u = w := bookBatch_eq_bookedAndRun _ _ _ (lt_of_inUse h1)
      have planned : (w.course c).state = .planned := by
        rcases ((bookedAndRun_still b.oven y u).course c).state with h | ⟨h, -⟩ | ⟨h, -⟩
        · exact h.trans hg.2.1
        · exact absurd (h.symm.trans hg.2.1) (by decide)
        · exact absurd (h.symm.trans hg.2.1) (by decide)
      show okWith [] (finish (enterCourse c .armed (bookBatch b.oven y u))) = _
      rw [hw, entered w planned]
    · have hy : y.Unbegun := .inl rfl
      have hm := bookedAndRun_mem (s := u) (lt_of_inUse h1) hy
      rw [hy.refreshed] at hm
      exact hm
    · exact RefusedWith.of_checks rfl ha body ((own hg _).trans (bookable_out h))
    · exact RefusedWith.of_checks rfl ha body ((own hg _).trans (bookable_full h1 h2))
    · exact RefusedWith.of_checks rfl ha body ((own hg _).trans (bookable_clash h1 h2 h3))
  · obtain ⟨rest, f, body⟩ := checks
    refine ⟨fun h32 hx => ?_, fun h32 hx h => ?_, fun h32 => ?_⟩
    · exact RefusedWith.of_checks rfl ha body ((firstFailure_tail (decide_eq_true h32)).trans
        (firstFailure_head (decide_eq_false (not_not.2 hx))))
    · refine RefusedWith.of_checks rfl ha body ((firstFailure_tail (decide_eq_true h32)).trans
        ((firstFailure_tail (decide_eq_true hx)).trans (firstFailure_head (Bool.eq_false_iff.2 fun hd => ?_))))
      obtain ⟨h1, h2⟩ := able.1 hd
      exact h.elim (absurd h1) (absurd h2)
    · exact RefusedWith.of_checks rfl ha body (firstFailure_head (decide_eq_false (by omega)))

/-- COURSE_REBATCH (R47). -/
theorem courseRebatch_clauses (p : Port) (c k : Nat) (s : State) (ha : Admitted (.courseRebatch p c k) p s) :
    let i := Instr.courseRebatch p c k
    let u := before i p s
    let x := u.course c
    (∀ a b, x.batch = some a → u.batchOf c = some b →
      let good := c < 32 ∧ k < 24 ∧ (u.cab k).kind = .oven ∧ a.oven ≠ k ∧ a.shelves ≤ (u.cab k).shelves
      let able := s.day.state = .service ∧ (b.state = .booked ∨ b.state = .waiting ∨ b.state = .paused)
      let out := (u.cab k).state = .fault ∨ (u.cab k).state = .offline
      let y := { b with state := if x.state = .armed then .booked else .waiting }
      let v := (unbooked c u).setCourse c { x with ovenFault := false, batch := some { a with oven := k } }
      let w := bookedAndRun k y v
      let ran := if x.state ≠ .armed ∧ (w.cab k).state = .holding ∧ (w.cab k).live.doorOpen = false then .cooking else y.state
      (good → able → x.state ≠ .empty → ¬out → (u.cab k).batches.length < 4 → ¬clashes (u.cab k) b.shelves b.setpoint →
        ∃ t, Executes i p s (be16 b.remaining) t ∧ t = finish w ∧ { y with state := ran } ∈ (w.cab k).batches ∧
          Still (booked k y v) t) ∧
        (good → x.state ≠ .empty → ¬able ∨ out → RefusedWith i p s .badState) ∧
        (good → x.state ≠ .empty → able → ¬out → 4 ≤ (u.cab k).batches.length → RefusedWith i p s .full) ∧
        (good → x.state ≠ .empty → able → ¬out → (u.cab k).batches.length < 4 →
          clashes (u.cab k) b.shelves b.setpoint → RefusedWith i p s .conflict) ∧
        (¬good → RefusedWith i p s .range)) ∧
      (c < 32 → k < 24 → (u.cab k).kind = .oven → x.batch = none →
        (x.state = .empty → RefusedWith i p s .notFound) ∧ (x.state ≠ .empty → RefusedWith i p s .badState)) := by
  intro i u x
  refine ⟨fun a b hxa hxb => ?_, fun h32 hk hkind hx => ?_⟩
  · intro good able out y v w ran
    have body := courseRebatchBody_some (k := k) hxa hxb
    have range : (decide (c < 32) && decide (k < 24) && (u.cab k).isOven &&
        (decide (a.oven ≠ k) && decide (a.shelves ≤ (u.cab k).shelves))) = true ↔ good := by
      simp only [Cab.isOven, Bool.and_eq_true, decide_eq_true_eq, and_assoc]
      exact Iff.rfl
    have movable : (inDay u [.service] && b.movable) = true ↔ able := by
      simp [inDay, movable_iff, u, able]
    have own (hg : good) (hx : x.state ≠ .empty) (hm : able) (rest : List (Bool × Status)) :
        firstFailure ((decide (c < 32) && decide (k < 24) && (u.cab k).isOven &&
            (decide (a.oven ≠ k) && decide (a.shelves ≤ (u.cab k).shelves)), .range) ::
          (decide ((u.course c).state ≠ .empty), .notFound) :: (inDay u [.service] && b.movable, .badState) :: rest) =
        firstFailure rest :=
      (firstFailure_tail (range.2 hg)).trans ((firstFailure_tail (decide_eq_true hx)).trans (firstFailure_tail (movable.2 hm)))
    refine ⟨fun hg hm hx h1 h2 h3 => ⟨finish w, ?_, rfl, ?_, ?_⟩, fun hg hx h => ?_, fun hg hx hm h1 h2 => ?_,
      fun hg hx hm h1 h2 h3 => ?_, fun hg => ?_⟩
    · refine Executes.of_checks rfl ha body ((own hg hx hm _).trans (bookable_ok h1 h2 h3)) ?_
      have hv : k < v.cabs.length := by
        show k < (unbooked c u).cabs.length
        rw [unbooked_length]
        exact lt_of_inUse h1
      show okWith (be16 b.remaining) (finish (rebatch c k b u)) = _
      rw [rebatch_eq b hxa]
      exact congrArg (fun t => okWith (be16 b.remaining) (finish t)) (bookBatch_eq_bookedAndRun k y v hv)
    · have hv : k < v.cabs.length := by
        show k < (unbooked c u).cabs.length
        rw [unbooked_length]
        exact lt_of_inUse h1
      by_cases harmed : x.state = .armed
      · have hst : y.state = .booked := if_pos harmed
        have hm := bookedAndRun_mem hv (show y.Unbegun from .inl hst)
        rw [Batch.Unbegun.refreshed (.inl hst), if_neg (fun h => h.1 hst)] at hm
        rw [show ran = y.state from if_neg fun h => h.1 harmed]
        exact hm
      · have hst : y.state = .waiting := if_neg harmed
        have hm := bookedAndRun_mem hv (show y.Unbegun from .inr hst)
        rw [Batch.Unbegun.refreshed (.inr hst)] at hm
        have hran : ran = if y.state ≠ .booked ∧ (w.cab k).runs = true then .cooking else y.state := by
          refine if_congr ?_ rfl rfl
          simp [harmed, hst, Cab.runs]
        rw [hran]
        exact hm
    · exact (Still.stable _).finish (bookedAndRun_still k y v)
    · by_cases hm : able
      · exact RefusedWith.of_checks rfl ha body ((own hg hx hm _).trans (bookable_out (h.resolve_left (not_not.2 hm))))
      · exact RefusedWith.of_checks rfl ha body ((firstFailure_tail (range.2 hg)).trans
          ((firstFailure_tail (decide_eq_true hx)).trans (firstFailure_head (Bool.eq_false_iff.2 (mt movable.1 hm)))))
    · exact RefusedWith.of_checks rfl ha body ((own hg hx hm _).trans (bookable_full h1 h2))
    · exact RefusedWith.of_checks rfl ha body ((own hg hx hm _).trans (bookable_clash h1 h2 h3))
    · exact RefusedWith.of_checks rfl ha body (firstFailure_head (Bool.eq_false_iff.2 (mt range.1 hg)))
  · obtain ⟨f, body⟩ := courseRebatchBody_none (k := k) hx
    have range : (decide (c < 32) && decide (k < 24) && (u.cab k).isOven && true) = true := by
      simp [h32, hk, Cab.isOven, hkind]
    refine ⟨fun h => ?_, fun h => ?_⟩
    · exact RefusedWith.of_checks rfl ha body ((firstFailure_tail range).trans
        (firstFailure_head (decide_eq_false (not_not.2 h))))
    · exact RefusedWith.of_checks rfl ha body ((firstFailure_tail range).trans
        ((firstFailure_tail (decide_eq_true h)).trans (firstFailure_head (Bool.and_false _))))

/-- Settles O19. -/
theorem batchesAreBooked : Obligations.BatchesAreBooked := ⟨courseArm_clauses, courseRebatch_clauses⟩

end Sys2Proof.Certificates
end

section
/-! SUPPORT. The stages of a lockout entry (R181), each in the words of its rule. -/

namespace Sys2Proof.Machine

variable {s t : State} {P : State → Prop}

/-! ### The stages -/

/-- Steps 1 to 4: the day, the hold, the power claims and the earmarks. -/
def lockoutDark (k : Nat) (s : State) : State :=
  let s := lockoutDay k s
  releaseAllEarmarks (powerLockout (endHold (some .holdBroken) s.hold.count s))

/-- Step 5: the cabinets. -/
def lockoutCabs (s : State) : State := forEach (List.range 24) lockoutCab s

/-- Steps 1 to 6: the lines too. -/
def lockoutLines (k : Nat) (s : State) : State := lockoutLine 1 (lockoutLine 0 (lockoutCabs (lockoutDark k s)))

theorem enterLockout_eq (k : Nat) (s : State) :
    enterLockout k s =
      raise .lockoutEntered k s.day.state.code s.hold.owner.isSome.toNat (lockoutPage (lockoutLines k s)) := rfl

theorem lockoutDay_eq (k : Nat) (s : State) :
    lockoutDay k s = (s.withDay { s.day with
      state := .lockout, ret := some s.day.state, cause := some k, feedcut := true, confirm := List.replicate 24 none }).withBus
        { s.bus with discTimer := some (s.bus.discTimer.getD 5) } := by
  have h : (match s.bus.discTimer with | none => some Config.discoverySec | some n => some n) =
      some (s.bus.discTimer.getD 5) := by
    cases s.bus.discTimer <;> rfl
  rw [← h]
  rfl

theorem endHold_broken_eq (n : Nat) (s : State) :
    endHold (some .holdBroken) n s =
      (match s.hold.owner with
       | none => s
       | some p => raiseTo p .holdBroken p.code n s.hold.count s).withHold ⟨none, 0, none⟩ := by
  unfold endHold
  cases s.hold.owner <;> rfl

theorem setCab_wantedOn_state (k j : Nat) (b : Bool) (s : State) :
    ((s.setCab k { s.cab k with wantedOn := b }).cab j).state = (s.cab j).state := by
  rw [State.cab_setCab_ite]
  split
  · rename_i h
    rw [h.1]
  · rfl

/-- Step 5 at one cabinet. -/
theorem lockoutCab_eq (k : Nat) (s : State) :
    lockoutCab k s = claimCab k true
      (if (s.cab k).state.on = true then enterOff k true (s.setCab k { s.cab k with wantedOn := false })
       else s.setCab k { s.cab k with wantedOn := false }) := by
  unfold lockoutCab switchOff
  dsimp only
  rw [setCab_wantedOn_state]

/-! ### What an entry to OFF writes while no course holds an earmark -/

theorem setConsumer_eq (c : Nat) (x : Consumer) (s : State) :
    ∃ w l, s.setConsumer c x = (s.withPower w).withLines l ∧ w.settle = s.power.settle ∧ w.unresolved = s.power.unresolved := by
  unfold State.setConsumer
  dsimp only
  split
  · exact ⟨{ s.power with consumers := s.power.consumers.set c x }, s.lines, rfl, rfl, rfl⟩
  · exact ⟨{ s.power with consumers := s.power.consumers.set c x }, _, rfl, rfl, rfl⟩

theorem setConsumer_earmarks (c : Nat) (x : Consumer) (s : State) : (s.setConsumer c x).earmarks = s.earmarks := by
  obtain ⟨w, l, e, -⟩ := setConsumer_eq c x s
  rw [e]
  rfl

theorem queueSet_eq (a : Nat) (u : Bool) (s : State) : ∃ b, queueSet a u s = s.withBus b := by
  unfold queueSet preempt
  split
  · exact ⟨s.bus, rfl⟩
  · split
    · split
      · exact ⟨_, rfl⟩
      · split <;> exact ⟨_, rfl⟩
    · split
      · exact ⟨s.bus, rfl⟩
      · exact ⟨_, rfl⟩

/-- A SET claim writes the bus alone. -/
theorem claimSet_eq (addr : Option Nat) (who : Binding) (w : Wanted) (u : Bool) (s : State) :
    ∃ b, claimSet addr who w u s = s.withBus b := by
  unfold claimSet
  split
  · exact ⟨s.bus, rfl⟩
  · dsimp only
    split
    · obtain ⟨b, e⟩ := queueSet_eq _ u (s.setNode _ _)
      exact ⟨b, e⟩
    · exact ⟨s.bus, rfl⟩

theorem claimCab_eq (k : Nat) (u : Bool) (s : State) : ∃ b, claimCab k u s = s.withBus b := by
  unfold claimCab
  dsimp only
  split
  · exact ⟨s.bus, rfl⟩
  · exact claimSet_eq _ _ _ _ _

theorem claimCab_earmarks (k : Nat) (u : Bool) (s : State) : (claimCab k u s).earmarks = s.earmarks := by
  obtain ⟨b, e⟩ := claimCab_eq k u s
  rw [e]
  rfl

theorem releaseWarmer_none {k : Nat} (h : s.earmarks = []) : releaseWarmer k s = s := by
  unfold releaseWarmer
  rw [h]
  rfl

/-- `P` is kept by what an entry of cabinet `k` to OFF writes while no course holds an earmark. -/
structure Switched (k : Nat) (P : State → Prop) : Prop where
  calls : ∀ {s : State} x, P s → P (s.withCalls x)
  offer : ∀ {s : State} q n, P s → P (offerWhere q n s)
  setCab : ∀ {s : State} x, P s → P (s.setCab k x)
  setLine : ∀ {s : State} l x, x.stops = (s.line l).stops → P s → P (s.setLine l x)
  setWare : ∀ {s : State} c x, P s → P (s.setWare c x)
  released : ∀ {s : State}, P s → P (s.setConsumer k (s.consumer k).released)
  claim : ∀ {s : State} u, P s → P (claimCab k u s)

namespace Switched

variable {k : Nat} (h : Switched k P)
include h

/-- Entry to OFF with no earmark to release calls no judging of courses. -/
theorem changeState (he : s.earmarks = []) (u : Bool) (hs : P s) : P (changeState k .off u s) := by
  unfold Machine.changeState
  dsimp only
  split
  · exact hs
  · have h1 := h.claim u (h.offer (fun _ => false) ⟨.cabinetState, k, CabState.off.code, (s.cab k).state.code, s.now⟩
      (h.setCab ((s.cab k).enter .off) hs))
    refine h.calls _ (h.calls _ ?_)
    split
    · rw [releaseWarmer_none (by rw [claimCab_earmarks]; exact he)]
      exact h1
    · split
      · rename_i hel
        simp only [CabState.eligible, Bool.and_false, Bool.false_and, Bool.false_eq_true] at hel
      · exact h1

theorem enterOff (he : s.earmarks = []) (u : Bool) (hs : P s) : P (enterOff k u s) := by
  have released : P (release k s) := h.calls _ (h.released hs)
  have hr : (release k s).earmarks = [] := (setConsumer_earmarks k (s.consumer k).released s).trans he
  have unrouted : ∀ r : Route, ∀ {t : State}, P t → P (unrouteRack r.line r.tag t) := fun r t ht => by
    unfold unrouteRack callRoute
    split <;> exact h.calls _ (h.setLine _ _ rfl ht)
  unfold Machine.enterOff
  dsimp only
  have off := h.setCab { (Machine.changeState k .off u (release k s)).cab k with sleepT := none, oobT := none, doorT := none }
    (h.changeState hr u released)
  have routes : P (cancelRoutes k _) :=
    Hush.foldl (f := fun t (r : Route) => unrouteRack r.line r.tag t) (fun r _ ht => unrouted r ht) _ (h.setCab _ off)
  unfold unload
  dsimp only
  split
  · exact routes
  · exact h.setWare _ _ (h.setCab _ routes)

theorem lockoutCab (he : s.earmarks = []) (hs : P s) : P (lockoutCab k s) := by
  rw [lockoutCab_eq]
  refine h.claim _ ?_
  split
  · exact h.enterOff (s := s.setCab k { s.cab k with wantedOn := false }) he true (h.setCab _ hs)
  · exact h.setCab _ hs

end Switched

/-! ### A node under an urgent SET to its owner's wish -/

/-- The node at `a`, bound to `who`, is wanted as `w` with the urgent flag, and its SET stands in the urgent part (R152). -/
structure Ordered (a : Nat) (who : Binding) (w : Wanted) (s : State) : Prop where
  bound : (s.node a).binding = who
  wanted : (s.node a).wanted = w
  flag : (s.node a).wantedUrgent = true
  queued : Tx.set a ∈ s.bus.urgent

theorem preempt_bus (a : Nat) (s : State) :
    (preempt a s).bus.nodes = s.bus.nodes ∧ (preempt a s).bus.urgent = s.bus.urgent := by
  unfold preempt
  split
  · exact ⟨rfl, rfl⟩
  · split <;> exact ⟨rfl, rfl⟩

theorem queueSet_bus (a : Nat) (u : Bool) (s : State) :
    (queueSet a u s).bus.nodes = s.bus.nodes ∧ s.bus.urgent <+: (queueSet a u s).bus.urgent := by
  unfold queueSet
  split
  · exact ⟨rfl, List.prefix_refl _⟩
  · split
    · refine ⟨(preempt_bus _ _).1, ?_⟩
      rw [(preempt_bus _ _).2]
      exact List.prefix_append _ _
    · split <;> exact ⟨rfl, List.prefix_refl _⟩

theorem queueSet_urgent (a : Nat) (s : State) : Tx.set a ∈ (queueSet a true s).bus.urgent := by
  unfold queueSet
  split
  · assumption
  · rw [if_pos rfl, (preempt_bus _ _).2]
    exact List.mem_append_right _ List.mem_cons_self

theorem node_congr {s t : State} (h : t.bus.nodes = s.bus.nodes) (a : Nat) : t.node a = s.node a := by
  unfold State.node
  rw [h]

/-- An urgent claim of its owner. -/
theorem claimSet_ordered {a : Nat} {who : Binding} (w : Wanted) (hlt : State.nodeIdx a < s.bus.nodes.length)
    (hb : (s.node a).binding = who) (ha : (s.node a).answering = true) : Ordered a who w (claimSet (some a) who w true s) := by
  have e : claimSet (some a) who w true s = queueSet a true (s.setNode a { s.node a with wanted := w, wantedUrgent := true }) := by
    unfold claimSet
    exact if_pos (by simp [hb, ha])
  have node : (queueSet a true (s.setNode a { s.node a with wanted := w, wantedUrgent := true })).node a =
      { s.node a with wanted := w, wantedUrgent := true } := by
    rw [node_congr (queueSet_bus _ _ _).1, State.node_setNode_ite, if_pos ⟨rfl, hlt⟩]
  rw [e]
  exact ⟨by rw [node]; exact hb, by rw [node], by rw [node], queueSet_urgent a _⟩

/-- The claims of other owners leave it alone. -/
theorem Ordered.claimSet {a : Nat} {who : Binding} {w : Wanted} (h : Ordered a who w s) (addr : Option Nat) {other : Binding}
    (hne : other ≠ who) (v : Wanted) (u : Bool) : Ordered a who w (claimSet addr other v u s) := by
  unfold Machine.claimSet
  split
  · exact h
  · rename_i x
    dsimp only
    split
    · rename_i hc
      simp only [Bool.and_eq_true, decide_eq_true_eq] at hc
      obtain ⟨hnodes, hurgent⟩ := queueSet_bus x u (s.setNode x { s.node x with wanted := v, wantedUrgent := u })
      have node : (queueSet x u (s.setNode x { s.node x with wanted := v, wantedUrgent := u })).node a = s.node a := by
        rw [node_congr hnodes, State.node_setNode_ite]
        refine if_neg fun hi => hne ?_
        have same : s.node a = s.node x := by unfold State.node; rw [hi.1]
        rw [← hc.2, ← same, h.bound]
      exact ⟨by rw [node]; exact h.bound, by rw [node]; exact h.wanted, by rw [node]; exact h.flag, hurgent.subset h.queued⟩
    · exact h

theorem Ordered.claimCab {a j k : Nat} {w : Wanted} (h : Ordered a (.cabinet j) w s) (hne : k ≠ j) (u : Bool) :
    Ordered a (.cabinet j) w (claimCab k u s) := by
  unfold Machine.claimCab
  dsimp only
  split
  · exact h
  · exact h.claimSet _ (fun e => hne (Binding.cabinet.inj e)) _ _

/-- What leaves the bus alone leaves it ordered. -/
theorem Ordered.of_bus {a : Nat} {who : Binding} {w : Wanted} (h : Ordered a who w s)
    (hn : t.bus.nodes = s.bus.nodes) (hu : t.bus.urgent = s.bus.urgent) : Ordered a who w t :=
  ⟨by rw [node_congr hn]; exact h.bound, by rw [node_congr hn]; exact h.wanted, by rw [node_congr hn]; exact h.flag,
    by rw [hu]; exact h.queued⟩

/-! ### Pages and the urgent part -/

theorem endPage_bus (id : Nat) (out : PageState) (s : State) : (endPage id out s).bus = s.bus := by
  unfold endPage
  split
  · rfl
  · dsimp only
    split <;> rfl

theorem dropInfo_bus (s : State) : (dropInfo s).bus = s.bus :=
  Hush.forEach (P := fun t => t.bus = s.bus) (fun k _ ht => (endPage_bus k .dropped _).trans ht) _ rfl

theorem handOff_bus (p : Page) (s : State) :
    (handOff p s).bus.nodes = s.bus.nodes ∧ (handOff p s).bus.urgent = s.bus.urgent := ⟨rfl, rfl⟩

/-- A selection pass queues DELIVERs in the ordinary part alone (R131). -/
theorem selectUpTo_bus : ∀ (n : Nat) (s : State),
    (selectUpTo n s).bus.nodes = s.bus.nodes ∧ (selectUpTo n s).bus.urgent = s.bus.urgent
  | 0, s => by
    unfold selectUpTo
    rw [dropInfo_bus]
    exact ⟨rfl, rfl⟩
  | n + 1, s => by
    unfold selectUpTo
    dsimp only
    split
    · split
      · rw [dropInfo_bus]
        exact ⟨rfl, rfl⟩
      · rename_i p anti _
        obtain ⟨hn, hu⟩ := selectUpTo_bus n (handOff p (withAnti anti (dropInfo s)))
        obtain ⟨gn, gu⟩ := handOff_bus p (withAnti anti (dropInfo s))
        have kept : (withAnti anti (dropInfo s)).bus = s.bus := dropInfo_bus s
        rw [kept] at gn gu
        exact ⟨hn.trans gn, hu.trans gu⟩
    · rw [dropInfo_bus]
      exact ⟨rfl, rfl⟩

theorem claimPage_bus (g : Target) (c x : Nat) (r : Prio) (k : Option Nat) (s : State) :
    (claimPage g c x r k s).bus.nodes = s.bus.nodes ∧ (claimPage g c x r k s).bus.urgent = s.bus.urgent := by
  unfold claimPage
  split
  · exact ⟨rfl, rfl⟩
  · split
    · exact ⟨rfl, rfl⟩
    · rename_i t ht
      have room : t.bus = s.bus := by
        unfold makeRoom at ht
        split at ht
        · cases ht
          rfl
        · obtain ⟨q, _, rfl⟩ := Option.map_eq_some_iff.mp ht
          exact endPage_bus _ _ _
      have sel := selectUpTo_bus Config.baseCap (addPage g c x r .block k t)
      exact ⟨sel.1.trans (congrArg Bus.nodes room), sel.2.trans (congrArg Bus.urgent room)⟩

end Sys2Proof.Machine
end

section
/-! SUPPORT. What each stage of a lockout entry leaves (R181). -/

namespace Sys2Proof.Machine

variable {s t : State} {P : State → Prop}

/-! ### The power claims (R112) -/

/-- The consumer has no grant, no request and no mark. -/
def Unclaimed (c : Nat) (s : State) : Prop :=
  (s.consumer c).grant = 0 ∧ (s.consumer c).request = 0 ∧ (s.consumer c).mark = false

theorem setConsumer_consumer_ite (c j : Nat) (x : Consumer) (s : State) :
    (s.setConsumer c x).consumer j = if j = c ∧ c < s.power.consumers.length then x else s.consumer j := by
  by_cases h : j = c
  · subst h
    by_cases hl : j < s.power.consumers.length
    · rw [if_pos ⟨rfl, hl⟩, setConsumer_consumer _ _ _ hl]
    · rw [if_neg fun g => hl g.2]
      have e : (s.power.consumers.set j x) = s.power.consumers := List.set_eq_of_length_le (by omega)
      unfold State.setConsumer
      dsimp only
      rw [e]
      split <;> rfl
  · rw [if_neg fun g => h g.1, setConsumer_consumer_other _ _ h]

/-- A release leaves no claim where there was none. -/
theorem Unclaimed.released {c : Nat} (h : Unclaimed c s) (k : Nat) :
    Unclaimed c (s.setConsumer k (s.consumer k).released) := by
  unfold Unclaimed
  rw [setConsumer_consumer_ite]
  split
  · exact ⟨rfl, rfl, rfl⟩
  · exact h

/-- Every consumer released, one after another. -/
def releaseClaims (s : State) : State := forEach (List.range 26) (fun c t => t.setConsumer c (t.consumer c).released) s

theorem powerLockout_released (s : State) :
    powerLockout s = (releaseClaims s).withPower { (releaseClaims s).power with settle := none, unresolved := false } := by
  unfold powerLockout releaseClaims Consumer.released
  rfl

theorem releaseClaims_eq (s : State) : ∃ w l, releaseClaims s = (s.withPower w).withLines l :=
  Hush.forEach (P := fun t => ∃ w l, t = (s.withPower w).withLines l)
    (fun c t ⟨w, l, ht⟩ => by
      obtain ⟨w', l', e, -⟩ := setConsumer_eq c (t.consumer c).released t
      exact ⟨w', l', by rw [e, ht]; rfl⟩)
    _ ⟨s.power, s.lines, rfl⟩

/-- A lockout entry writes the consumers, with the lines' POWER reasons (R96), and clears the settle timer and its flag. -/
theorem powerLockout_eq (s : State) :
    ∃ w l, powerLockout s = (s.withPower w).withLines l ∧ w.settle = none ∧ w.unresolved = false := by
  obtain ⟨w, l, e⟩ := releaseClaims_eq s
  rw [powerLockout_released, e]
  exact ⟨{ w with settle := none, unresolved := false }, l, rfl, rfl, rfl⟩

theorem releaseClaims_unclaimed (hl : s.power.consumers.length = 26) {c : Nat} (hc : c < 26) : Unclaimed c (releaseClaims s) :=
  forEach_establishes (Inv := fun t => t.power.consumers.length = 26) (Q := Unclaimed) (D := (· < 26))
    (fun k t ht => by
      have h : (t.setConsumer k (t.consumer k).released).power.consumers = t.power.consumers.set k (t.consumer k).released := by
        unfold State.setConsumer
        dsimp only
        split <;> rfl
      rw [h, List.length_set, ht])
    (fun k t hk ht => by
      unfold Unclaimed
      rw [setConsumer_consumer _ _ _ (by rw [ht]; exact hk)]
      exact ⟨rfl, rfl, rfl⟩)
    (fun k j t _ hj => hj.released k)
    (List.range 26) hl c hc (.inl (List.mem_range.2 hc))

theorem powerLockout_unclaimed (hl : s.power.consumers.length = 26) {c : Nat} (hc : c < 26) : Unclaimed c (powerLockout s) := by
  have h : Unclaimed c (releaseClaims s) := releaseClaims_unclaimed hl hc
  have e := powerLockout_released s
  generalize releaseClaims s = t at h e
  rw [e]
  exact h

/-! ### Steps 1 to 3 -/

/-- The state once the day, the hold and the power claims are as a lockout has them. -/
def lockoutUnpowered (k : Nat) (s : State) : State :=
  powerLockout (endHold (some .holdBroken) (lockoutDay k s).hold.count (lockoutDay k s))

theorem lockoutDark_eq (k : Nat) (s : State) : lockoutDark k s = releaseAllEarmarks (lockoutUnpowered k s) := rfl

theorem lockoutUnpowered_eq (k : Nat) (s : State) :
    ∃ b ports w l, lockoutUnpowered k s =
        (((((s.withDay (lockoutDay k s).day).withBus b).withPorts ports).withHold ⟨none, 0, none⟩).withPower w).withLines l ∧
      w.settle = none ∧ w.unresolved = false ∧ b.nodes = s.bus.nodes := by
  unfold lockoutUnpowered
  obtain ⟨w, l, e, hs, hu⟩ := powerLockout_eq (endHold (some .holdBroken) (lockoutDay k s).hold.count (lockoutDay k s))
  rw [e, endHold_broken_eq]
  refine ⟨(lockoutDay k s).bus, ?_⟩
  cases (lockoutDay k s).hold.owner with
  | none => exact ⟨s.ports, w, l, rfl, hs, hu, rfl⟩
  | some p => exact ⟨_, w, l, rfl, hs, hu, rfl⟩

/-! ### The release of every earmark (R35) -/

theorem releaseEntry_earmarks (x : Earmark) (s : State) :
    (releaseEntry x s).earmarks = s.earmarks.filter fun e => !(decide (e.course = x.course) && decide (e.cab = x.cab)) := rfl

/-- What is left has none of the pairs released. -/
theorem releaseEntries_earmarks : ∀ (l : List Earmark) {s : State}, ∀ e ∈ (releaseEntries l s).earmarks,
    e ∈ s.earmarks ∧ ∀ x ∈ l, ¬(e.course = x.course ∧ e.cab = x.cab)
  | [], _, e, he => ⟨he, fun x hx => absurd hx List.not_mem_nil⟩
  | x :: l, s, e, he => by
    obtain ⟨h1, h2⟩ := releaseEntries_earmarks l (s := releaseEntry x s) e he
    rw [releaseEntry_earmarks, List.mem_filter] at h1
    refine ⟨h1.1, fun y hy => ?_⟩
    rcases List.mem_cons.1 hy with rfl | hy
    · exact fun ⟨hc, hk⟩ => by simp [hc, hk] at h1
    · exact h2 y hy

theorem releaseEntries_all (s : State) : (releaseEntries s.earmarks s).earmarks = [] :=
  List.eq_nil_iff_forall_not_mem.2 fun e he =>
    let ⟨h1, h2⟩ := releaseEntries_earmarks s.earmarks e he
    h2 e h1 ⟨rfl, rfl⟩

theorem releaseEntry_course (x : Earmark) (c : Nat) (s : State) :
    (releaseEntry x s).course c =
      if c = x.course ∧ x.course < s.courses.length then { s.course c with owed := (s.course c).owed + x.count }
      else s.course c := by
  have h : (releaseEntry x s).course c =
      if c = x.course ∧ x.course < s.courses.length then
        { s.course x.course with owed := (s.course x.course).owed + x.count } else s.course c :=
    State.course_setCourse_ite _ _ _ _
  rw [h]
  split
  · rename_i g
    rw [g.1]
  · rfl

/-- A course that gives up an earmark owes. -/
theorem releaseEntries_owed {c : Nat} : ∀ (l : List Earmark) {s : State}, c < s.courses.length →
    (0 < (s.course c).owed ∨ ∃ e ∈ l, e.course = c ∧ 0 < e.count) →
    ((releaseEntries l s).course c).state = (s.course c).state ∧ 0 < ((releaseEntries l s).course c).owed
  | [], _, _, h => ⟨rfl, h.resolve_right fun ⟨_, he, _⟩ => absurd he List.not_mem_nil⟩
  | x :: l, s, hc, h => by
    have hx := releaseEntry_course x c s
    have state : ((releaseEntry x s).course c).state = (s.course c).state := by rw [hx]; split <;> rfl
    have hl : (releaseEntry x s).courses.length = s.courses.length := by simp [releaseEntry, setOwed, setEarmark, State.setCourse]
    have rest := releaseEntries_owed l (s := releaseEntry x s) (by rw [hl]; exact hc) ?_
    · exact ⟨rest.1.trans state, rest.2⟩
    · rw [hx]
      rcases h with h | ⟨e, he, hec, hn⟩
      · refine .inl ?_
        split
        · exact Nat.add_pos_left h _
        · exact h
      · rcases List.mem_cons.1 he with rfl | he
        · rw [if_pos ⟨hec.symm, by rw [hec]; exact hc⟩]
          exact .inl (Nat.add_pos_right _ hn)
        · exact .inr ⟨e, he, hec, hn⟩

/-! ### The judging that follows -/

theorem evaluate_murmur (h : Murmur P) (course : ∀ {s : State} x, P s → P (s.setCourse c x)) (hs : P s) :
    P (evaluate c s) := by
  unfold evaluate
  split
  · split
    · exact h.raise _ _ _ _ (h.claimPage _ _ _ _ _ (h.startRush _ (course _ hs)))
    · exact hs
  · split
    · exact hs
    · exact h.cancelCoursePages _ _ (h.raise _ _ _ _ (course _ hs))
  · exact hs

theorem pageShort_murmur (h : Murmur P) (course : ∀ {s : State} x, P s → P (s.setCourse c x)) (hs : P s) :
    P (pageShort c s) := by
  unfold pageShort
  dsimp only
  split
  · exact h.claimPage _ _ _ _ _ (course _ hs)
  · exact hs

/-- The judging of courses makes no earmark. -/
theorem evaluateAll_earmarks (s : State) : (evaluateAll s).earmarks = s.earmarks := by
  have h : Murmur fun t => t.earmarks = s.earmarks := ⟨fun _ _ h => h, fun _ h => h, fun _ h => h⟩
  exact Hush.forEach (f := pageShort) (fun c _ ht => pageShort_murmur h (fun _ h => h) ht) _
    (Hush.forEach (P := fun t => t.earmarks = s.earmarks) (f := evaluate)
      (fun c _ ht => evaluate_murmur h (fun _ h => h) ht) _ rfl)

theorem course_murmur (c : Nat) (y : Course) : Murmur fun t => t.course c = y := ⟨fun _ _ h => h, fun _ h => h, fun _ h => h⟩

/-- A course is judged on its own. -/
theorem evaluate_other {i c : Nat} (h : c ≠ i) (s : State) : (evaluate i s).course c = s.course c :=
  evaluate_murmur (course_murmur c (s.course c)) (fun x hs => (State.course_setCourse_other _ _ _ x h).trans hs) rfl

/-- A READY course that owes goes back to FIRED (R39). -/
theorem evaluate_owing {c : Nat} (hc : c < s.courses.length) (h1 : (s.course c).state = .fired ∨ (s.course c).state = .ready)
    (h2 : 0 < (s.course c).owed) : (evaluate c s).course c = { s.course c with state := .fired } := by
  have hr : s.isReady c = false := by
    simp only [State.isReady, decide_eq_false (Nat.pos_iff_ne_zero.1 h2), Bool.and_false, Bool.false_and]
  rcases h1 with h1 | h1
  · rw [evaluate_none (fun _ => hr) (fun h => absurd (h1.symm.trans h) (by decide)), ← h1]
  · rw [evaluate_ready h1 hr]
    have m := course_murmur c { s.course c with state := .fired }
    exact m.cancelCoursePages _ _ (m.raise _ _ _ _ (State.course_setCourse _ _ _ hc))

/-- FIRED, and owing. -/
def FiredOwing (c : Nat) (s : State) : Prop := (s.course c).state = .fired ∧ 0 < (s.course c).owed

theorem pageShort_firedOwing {c : Nat} (i : Nat) (h : FiredOwing c s) : FiredOwing c (pageShort i s) := by
  unfold pageShort
  dsimp only
  split
  · refine Murmur.claimPage (P := FiredOwing c) ⟨fun _ _ h => h, fun _ h => h, fun _ h => h⟩ _ _ _ _ _ ?_
    unfold FiredOwing
    rw [State.course_setCourse_ite]
    split
    · rename_i e
      obtain ⟨rfl, -⟩ := e
      exact h
    · exact h
  · exact h

theorem evaluate_length (c : Nat) (s : State) : (evaluate c s).courses.length = s.courses.length :=
  evaluate_murmur (P := fun t => t.courses.length = s.courses.length) ⟨fun _ _ h => h, fun _ h => h, fun _ h => h⟩
    (fun x hs => by simpa [State.setCourse] using hs) rfl

/-- A READY course that owes is FIRED once the courses have been judged. -/
theorem evaluateAll_owing {c : Nat} (hc : c < s.courses.length) (h1 : (s.course c).state = .ready)
    (h2 : 0 < (s.course c).owed) : FiredOwing c (evaluateAll s) := by
  have listed : c ∈ s.activeCourses := mem_activeCourses.2 ⟨hc, by rw [h1]; rfl⟩
  have judged : (forEach s.activeCourses evaluate s).course c = { s.course c with state := .fired } :=
    forEach_establishes
      (Inv := fun t => t.courses.length = s.courses.length ∧
        (t.course c = s.course c ∨ t.course c = { s.course c with state := .fired }))
      (Q := fun i t => t.course i = { s.course c with state := .fired }) (D := (· = c))
      (fun k t ht => by
        obtain ⟨hl, hcs⟩ := ht
        refine ⟨(evaluate_length k t).trans hl, ?_⟩
        by_cases e : c = k
        · subst e
          rw [evaluate_owing (by rw [hl]; exact hc) (by rcases hcs with h | h <;> simp [h, h1])
            (by rcases hcs with h | h <;> simp [h, h2])]
          rcases hcs with h | h <;> simp [h]
        · rwa [evaluate_other e])
      (fun k t hk ht => by
        obtain ⟨hl, hcs⟩ := ht
        subst hk
        rw [evaluate_owing (by rw [hl]; exact hc) (by rcases hcs with h | h <;> simp [h, h1])
          (by rcases hcs with h | h <;> simp [h, h2])]
        rcases hcs with h | h <;> simp [h])
      (fun k j t hj hQ => by rwa [evaluate_other hj])
      s.activeCourses ⟨rfl, .inl rfl⟩ c rfl (.inl listed)
  refine Hush.forEach (f := pageShort) (fun i _ ht => pageShort_firedOwing i ht) _ ?_
  unfold FiredOwing
  rw [judged]
  exact ⟨rfl, h2⟩

end Sys2Proof.Machine
end

section
/-! SUPPORT. The cabinets, the lines and the page of a lockout entry (R181), and the state it leaves. -/

namespace Sys2Proof.Machine

variable {s t : State} {P : State → Prop}

/-! ### Steps 1 to 4 -/

/-- The state `v` once steps 1 to 4 of a lockout entry that confirm timer `k` causes have been taken from `s`. -/
structure Dark (k : Nat) (s v : State) : Prop where
  day : v.day = (lockoutDay k s).day
  hold : v.hold = ⟨none, 0, none⟩
  earmarks : v.earmarks = []
  settle : v.power.settle = none
  unresolved : v.power.unresolved = false
  unclaimed : ∀ c, c < 26 → Unclaimed c v
  cabs : v.cabs = s.cabs
  node : ∀ a, NodeKeeps (s.node a) (v.node a)
  sized : Sized v
  owing : ∀ c, c < 32 → (s.course c).state = .ready → (∃ e ∈ s.earmarks, e.course = c ∧ 0 < e.count) → FiredOwing c v

theorem lockoutUnpowered_unclaimed (k : Nat) (hs : Sized s) {c : Nat} (hc : c < 26) : Unclaimed c (lockoutUnpowered k s) := by
  refine powerLockout_unclaimed ?_ hc
  rw [endHold_broken_eq]
  cases (lockoutDay k s).hold.owner <;> exact hs.consumers

/-- What a law of `Wide` says of steps 1 to 4. -/
theorem Wide.lockoutDark (h : Wide P) (k : Nat) (hd : s.day.state ≠ .lockout) (hs : P s) : P (lockoutDark k s) :=
  h.releaseAllEarmarks (h.powerLockout (h.endHold _ _ (h.matchDiscovery (h.lockout k hd hs))))

theorem Wide.lockoutCabs (h : Wide P) (hs : P s) : P (lockoutCabs s) :=
  Hush.forEach (f := lockoutCab) (fun k _ ht => h.lockoutCab k ht) _ hs

theorem Wide.lockoutLines (h : Wide P) (k : Nat) (hd : s.day.state ≠ .lockout) (hs : P s) : P (lockoutLines k s) :=
  h.lockoutLine 1 (h.lockoutLine 0 (Wide.lockoutCabs h (Wide.lockoutDark h k hd hs)))

theorem lockoutDark_dark (k : Nat) (hs : Sized s) (hd : s.day.state ≠ .lockout) : Dark k s (lockoutDark k s) := by
  have sized : Sized (lockoutDark k s) := Wide.lockoutDark (sized_full .a).toWide k hd hs
  have unclaimed := fun c (hc : c < 26) => lockoutUnpowered_unclaimed k hs hc
  obtain ⟨b, ports, w, l, e, hset, hun, hnodes⟩ := lockoutUnpowered_eq k s
  rw [lockoutDark_eq] at sized ⊢
  rw [e] at sized unclaimed ⊢
  generalize hm : State.withLines _ l = m at sized unclaimed ⊢
  have beside := (Beside.hush m).releaseAllEarmarks (Beside.refl m)
  have power : (releaseAllEarmarks m).power = w := by rw [beside.power, ← hm]; rfl
  have none : (releaseEntries m.earmarks m).earmarks = [] := releaseEntries_all m
  refine ⟨?_, ?_, (evaluateAll_earmarks _).trans none, ?_, ?_, fun c hc => ?_, ?_, fun a => ?_, sized, fun c hc hr hem => ?_⟩
  · rw [beside.day, ← hm]
    rfl
  · rw [beside.hold, ← hm]
    rfl
  · rw [power, hset]
  · rw [power, hun]
  · have h := unclaimed c hc
    unfold Unclaimed State.consumer at h ⊢
    rwa [beside.power]
  · rw [beside.cabs, ← hm]
    rfl
  · have keeps := ((BusKept.work m.bus).toHush.releaseAllEarmarks (BusKeeps.refl m.bus)).nodes (State.nodeIdx a)
    have same : m.bus.nodes = s.bus.nodes := by rw [← hm]; exact hnodes
    rw [same] at keeps
    exact keeps
  · have course : m.course c = s.course c := by rw [← hm]; rfl
    have marks : m.earmarks = s.earmarks := by rw [← hm]; rfl
    have length : c < m.courses.length := by rw [← hm]; exact hs.courses ▸ hc
    obtain ⟨hstate, howed⟩ := releaseEntries_owed m.earmarks length (.inr (marks.symm ▸ hem))
    refine evaluateAll_owing ?_ (hstate.trans ((congrArg Course.state course).trans hr)) howed
    have hsame : (releaseEntries m.earmarks m).courses.length = m.courses.length :=
      Hush.foldl (P := fun t => t.courses.length = m.courses.length) (f := fun t e => releaseEntry e t)
        (fun x t ht => by simpa [releaseEntry, setOwed, setEarmark, State.setCourse] using ht) _ rfl
    rw [hsame]
    exact length

/-! ### Step 5 -/

/-- What the cabinets' turns leave of the rest. -/
structure Rests (s t : State) : Prop where
  day : t.day = s.day
  hold : t.hold = s.hold
  earmarks : t.earmarks = s.earmarks
  courses : t.courses = s.courses
  settle : t.power.settle = s.power.settle
  unresolved : t.power.unresolved = s.power.unresolved

theorem Rests.refl (s : State) : Rests s s := ⟨rfl, rfl, rfl, rfl, rfl, rfl⟩

theorem Rests.switched (s : State) (k : Nat) : Switched k (Rests s) where
  calls _ h := ⟨h.day, h.hold, h.earmarks, h.courses, h.settle, h.unresolved⟩
  offer _ _ h := ⟨h.day, h.hold, h.earmarks, h.courses, h.settle, h.unresolved⟩
  setCab _ h := ⟨h.day, h.hold, h.earmarks, h.courses, h.settle, h.unresolved⟩
  setLine _ _ _ h := ⟨h.day, h.hold, h.earmarks, h.courses, h.settle, h.unresolved⟩
  setWare _ _ h := ⟨h.day, h.hold, h.earmarks, h.courses, h.settle, h.unresolved⟩
  released {t} h := by
    obtain ⟨w, l, e, hs, hu⟩ := setConsumer_eq k (t.consumer k).released t
    rw [e]
    exact ⟨h.day, h.hold, h.earmarks, h.courses, hs.trans h.settle, hu.trans h.unresolved⟩
  claim {t} u h := by
    obtain ⟨b, e⟩ := claimCab_eq k u t
    rw [e]
    exact ⟨h.day, h.hold, h.earmarks, h.courses, h.settle, h.unresolved⟩

theorem Unclaimed.switched (c k : Nat) : Switched k (Unclaimed c) where
  calls _ h := h
  offer _ _ h := h
  setCab _ h := h
  setLine _ _ _ h := h
  setWare _ _ h := h
  released h := h.released k
  claim {t} u h := by
    obtain ⟨b, e⟩ := claimCab_eq k u t
    rw [e]
    exact h

theorem Ordered.switched {k j : Nat} (hk : k ≠ j) (a : Nat) (w : Wanted) : Switched k (Ordered a (.cabinet j) w) where
  calls _ h := h.of_bus rfl rfl
  offer _ _ h := h.of_bus rfl rfl
  setCab _ h := h.of_bus rfl rfl
  setLine _ _ _ h := h.of_bus rfl rfl
  setWare _ _ h := h.of_bus rfl rfl
  released {t} h := by
    obtain ⟨w', l, e, -⟩ := setConsumer_eq k (t.consumer k).released t
    rw [e]
    exact h.of_bus rfl rfl
  claim u h := h.claimCab hk u

theorem lockoutCab_earmarks (k : Nat) (he : s.earmarks = []) : (lockoutCab k s).earmarks = [] :=
  ((Rests.switched s k).lockoutCab he (Rests.refl s)).earmarks.trans he

/-- What every cabinet's turn keeps, with no earmark to release. -/
theorem lockoutCabs_keeps (h : ∀ k, Switched k P) (he : s.earmarks = []) (hs : P s) : P (lockoutCabs s) :=
  (Hush.forEach (P := fun t => t.earmarks = [] ∧ P t) (f := lockoutCab)
    (fun k _ ht => ⟨lockoutCab_earmarks k ht.1, (h k).lockoutCab ht.1 ht.2⟩) _ ⟨he, hs⟩).2

theorem lockoutCab_sized (k : Nat) (hs : Sized s) : Sized (lockoutCab k s) := (sized_full .a).toWide.lockoutCab k hs

/-- The record of a cabinet that is switched off. -/
theorem switchOff_cab {k : Nat} (hs : Sized s) (hk : k < 24) :
    (switchOff k true s).cab k =
      if (s.cab k).state.on = true then Cab.asOff { s.cab k with wantedOn := false } else { s.cab k with wantedOn := false } := by
  have own : (s.setCab k { s.cab k with wantedOn := false }).cab k = { s.cab k with wantedOn := false } :=
    cab_setCab _ _ _ (hs.cabs ▸ hk)
  unfold switchOff
  dsimp only
  rw [own]
  dsimp only
  split
  · rename_i hon
    have hoff : (s.cab k).state ≠ .off := fun e => by rw [e] at hon; cases hon
    rw [(enterOff_records k true (s.setCab k { s.cab k with wantedOn := false })
      (by simpa [State.setCab] using (hs.cabs ▸ hk : k < s.cabs.length))
      (show k < s.power.consumers.length by rw [hs.consumers]; omega) (by rw [own]; exact hoff)).1, own]
  · exact own

theorem lockoutCab_cabs (k : Nat) (s : State) : (lockoutCab k s).cabs = (switchOff k true s).cabs := by
  obtain ⟨b, e⟩ := claimCab_eq k true (switchOff k true s)
  show (claimCab k true (switchOff k true s)).cabs = _
  rw [e]
  rfl

theorem lockoutCab_cab_other {j k : Nat} (h : j ≠ k) (s : State) : (lockoutCab k s).cab j = s.cab j := by
  rw [cab_congr (lockoutCab_cabs k s)]
  exact (apart_cab h (s.cab j)).switchOff true rfl

theorem lockoutCab_down {k : Nat} (hs : Sized s) (hk : k < 24) : Down k (lockoutCab k s) := by
  unfold Down
  rw [cab_congr (lockoutCab_cabs k s), switchOff_cab hs hk]
  split
  · exact ⟨rfl, rfl⟩
  · rename_i h
    exact ⟨rfl, Bool.eq_false_iff.2 h⟩

theorem lockoutCabs_down (hs : Sized s) {j : Nat} (hj : j < 24) : Down j (lockoutCabs s) :=
  forEach_establishes (Q := Down) (D := (· < 24)) (fun k _ ht => lockoutCab_sized k ht)
    (fun _ _ hk ht => lockoutCab_down ht hk)
    (fun k i t hi hQ => by
      unfold Down
      rw [lockoutCab_cab_other hi]
      exact hQ)
    _ hs j hj (.inl (List.mem_range.2 hj))

/-- A cabinet whose bound node an urgent SET to OFF is to reach (R181, step 5). -/
structure Orderable (j a : Nat) (sp : Int) (s : State) : Prop where
  addr : (s.cab j).addr = some a
  setpoint : (s.cab j).setpoint = sp
  here : (s.cab j).state ≠ .offline
  mode : (s.cab j).state.on = true ∨ (s.cab j).wantMode = .off
  bound : (s.node a).binding = .cabinet j
  answers : (s.node a).presence = .present ∨ (s.node a).presence = .silent

theorem Orderable.of {j a : Nat} {sp : Int} (h : Orderable j a sp s) (hc : t.cab j = s.cab j)
    (hn : NodeKeeps (s.node a) (t.node a)) : Orderable j a sp t :=
  ⟨by rw [hc]; exact h.addr, by rw [hc]; exact h.setpoint, by rw [hc]; exact h.here, by rw [hc]; exact h.mode,
    hn.binding.trans h.bound, by rw [hn.presence]; exact h.answers⟩

theorem switchOff_node (k a : Nat) (s : State) : NodeKeeps (s.node a) ((switchOff k true s).node a) :=
  ((BusKept.work s.bus).switchOff k true (BusKeeps.refl s.bus)).nodes (State.nodeIdx a)

theorem lockoutCab_node (k a : Nat) (s : State) : NodeKeeps (s.node a) ((lockoutCab k s).node a) :=
  ((BusKept.work s.bus).lockoutCab k (BusKeeps.refl s.bus)).nodes (State.nodeIdx a)

/-- A cabinet that is switched off is in OFF, or where it was with its element wanted off. -/
theorem Orderable.off {j a : Nat} {sp : Int} (h : Orderable j a sp s) (hs : Sized s) (hj : j < 24) :
    Orderable j a sp (switchOff j true s) ∧ ((switchOff j true s).cab j).wantMode = .off := by
  have node := switchOff_node j a s
  have bound := node.binding.trans h.bound
  have answers : ((switchOff j true s).node a).presence = .present ∨ ((switchOff j true s).node a).presence = .silent := by
    rw [node.presence]
    exact h.answers
  have cab := switchOff_cab hs hj
  split at cab
  · exact ⟨⟨by rw [cab]; exact h.addr, by rw [cab]; exact h.setpoint, by rw [cab]; exact CabState.noConfusion,
      .inr (by rw [cab]; rfl), bound, answers⟩, by rw [cab]; rfl⟩
  · rename_i hon
    have off := h.mode.resolve_left hon
    exact ⟨⟨by rw [cab]; exact h.addr, by rw [cab]; exact h.setpoint, by rw [cab]; exact h.here,
      .inr (by rw [cab]; exact off), bound, answers⟩, by rw [cab]; exact off⟩

theorem Orderable.lockoutCab {j a : Nat} {sp : Int} (h : Orderable j a sp s) (hs : Sized s) (hj : j < 24) (k : Nat) :
    Orderable j a sp (lockoutCab k s) := by
  by_cases e : j = k
  · subst e
    have g := (h.off hs hj).1
    have claimed := ((BusKept.work _).claimCab j true (BusKeeps.refl (switchOff j true s).bus)).nodes (State.nodeIdx a)
    exact g.of (cab_congr (lockoutCab_cabs j s) j) claimed
  · exact h.of (lockoutCab_cab_other e s) (lockoutCab_node k a s)

/-- The urgent SET to OFF is claimed. -/
theorem Orderable.ordered {j a : Nat} {sp : Int} (h : Orderable j a sp s) (hs : Sized s) (hj : j < 24) (h1 : 1 ≤ a)
    (h31 : a ≤ 31) : Ordered a (.cabinet j) (.cabinet .off sp) (Machine.lockoutCab j s) := by
  obtain ⟨g, off⟩ := h.off hs hj
  have sized : Sized (switchOff j true s) := (sized_full .a).toWide.switchOff j true hs
  have claim : Machine.lockoutCab j s = claimSet (some a) (.cabinet j) (.cabinet .off sp) true (switchOff j true s) := by
    show claimCab j true (switchOff j true s) = _
    unfold claimCab
    dsimp only
    rw [if_neg g.here, g.addr, g.setpoint, off]
  rw [claim]
  refine claimSet_ordered _ ?_ g.bound ((answering_iff _).2 g.answers)
  rw [sized.nodes, State.nodeIdx, if_neg (by omega)]
  omega

theorem lockoutCabs_ordered {j a : Nat} {sp : Int} (h : Orderable j a sp s) (hs : Sized s) (he : s.earmarks = []) (hj : j < 24)
    (h1 : 1 ≤ a) (h31 : a ≤ 31) : Ordered a (.cabinet j) (.cabinet .off sp) (lockoutCabs s) :=
  (forEach_establishes (f := lockoutCab) (Inv := fun t => Sized t ∧ Orderable j a sp t ∧ t.earmarks = [])
    (Q := fun i t => i = j → t.earmarks = [] ∧ Ordered a (.cabinet j) (.cabinet .off sp) t) (D := (· = j))
    (fun k t ⟨hs, ho, he⟩ => ⟨lockoutCab_sized k hs, ho.lockoutCab hs hj k, lockoutCab_earmarks k he⟩)
    (fun k t hk ⟨hs, ho, he⟩ _ => by
      subst hk
      exact ⟨lockoutCab_earmarks k he, ho.ordered hs hj h1 h31⟩)
    (fun k i t hi hQ e => by
      obtain ⟨he, ho⟩ := hQ e
      exact ⟨lockoutCab_earmarks k he, (Ordered.switched (fun hk => hi (e.trans hk.symm)) a _).lockoutCab he ho⟩)
    _ ⟨hs, h, he⟩ j rfl (.inl (List.mem_range.2 hj)) rfl).2

/-! ### Step 6 -/

/-- A line's record in LOCKOUT (R92, R181). -/
def Line.lockedOut (x : Line) : Line := { x with stops := { x.stops with lockout := true }, wantedRun := false }

/-- In LOCKOUT a booster without a claim stays so (R95). -/
theorem boosterSync_lockout {l : Nat} (hd : s.day.state = .lockout) (hu : Unclaimed (24 + l) s) : boosterSync l s = s := by
  obtain ⟨hg, hr, -⟩ := hu
  unfold boosterSync
  dsimp only
  rw [if_neg (by simp [State.dayRuns, hd]), if_neg (by omega)]

/-- Step 6 at one line: its record, and an urgent SET where it was wanted to run. -/
theorem lockoutLine_eq {l : Nat} (hd : s.day.state = .lockout) (hu : Unclaimed (24 + l) s) (hl : l < s.lines.length) :
    lockoutLine l s =
      if (s.line l).wantedRun = false then s.setLine l (s.line l).lockedOut
      else claimSet (s.line l).addr (.line l) (.line false) true (s.setLine l (s.line l).lockedOut) := by
  have idle : boosterSync l (withStops l { (s.line l).stops with lockout := true } s) =
      s.setLine l { s.line l with stops := { (s.line l).stops with lockout := true } } :=
    boosterSync_lockout (s := withStops l { (s.line l).stops with lockout := true } s) hd hu
  unfold lockoutLine
  dsimp only
  rw [idle]
  unfold conveyorSync
  dsimp only
  rw [State.line_setLine _ _ _ hl, State.setLine_setLine]
  have stopped : StopSet.isEmpty { (s.line l).stops with lockout := true } = false := decide_eq_false (by simp)
  dsimp only
  rw [stopped]
  split
  · rename_i h
    refine congrArg (s.setLine l) ?_
    unfold Line.lockedOut
    rw [← h]
  · rfl

theorem lockoutLine_bus {l : Nat} (hd : s.day.state = .lockout) (hu : Unclaimed (24 + l) s) (hl : l < s.lines.length) :
    ∃ b, lockoutLine l s = (s.setLine l (s.line l).lockedOut).withBus b := by
  rw [lockoutLine_eq hd hu hl]
  split
  · exact ⟨s.bus, rfl⟩
  · exact claimSet_eq _ _ _ _ _

theorem Ordered.lockoutLine {a j l : Nat} {w : Wanted} (h : Ordered a (.cabinet j) w s) (hd : s.day.state = .lockout)
    (hu : Unclaimed (24 + l) s) (hl : l < s.lines.length) : Ordered a (.cabinet j) w (lockoutLine l s) := by
  have line : Ordered a (.cabinet j) w (s.setLine l (s.line l).lockedOut) := h.of_bus rfl rfl
  rw [lockoutLine_eq hd hu hl]
  split
  · exact line
  · exact line.claimSet _ Binding.noConfusion _ _

/-- Step 6: both lines, and what SETs the bus has taken. -/
theorem lockoutLine_both (hd : s.day.state = .lockout) (hu : ∀ c, c < 26 → Unclaimed c s) (hl : s.lines.length = 2) :
    ∃ b, lockoutLine 1 (lockoutLine 0 s) =
      ((s.setLine 0 (s.line 0).lockedOut).setLine 1 (s.line 1).lockedOut).withBus b := by
  obtain ⟨b0, e0⟩ := lockoutLine_bus (l := 0) hd (hu 24 (by decide)) (by rw [hl]; decide)
  have one : ((s.setLine 0 (s.line 0).lockedOut).withBus b0).line 1 = s.line 1 :=
    State.line_setLine_other _ _ _ _ (by decide)
  obtain ⟨b1, e1⟩ := lockoutLine_bus (s := (s.setLine 0 (s.line 0).lockedOut).withBus b0) (l := 1) hd (hu 25 (by decide))
    (by simp [State.setLine, hl])
  rw [e0, e1, one]
  exact ⟨b1, rfl⟩

theorem Ordered.lockoutLine_both {a j : Nat} {w : Wanted} (h : Ordered a (.cabinet j) w s) (hd : s.day.state = .lockout)
    (hu : ∀ c, c < 26 → Unclaimed c s) (hl : s.lines.length = 2) :
    Ordered a (.cabinet j) w (Machine.lockoutLine 1 (Machine.lockoutLine 0 s)) := by
  have first := h.lockoutLine (l := 0) hd (hu 24 (by decide)) (by rw [hl]; decide)
  obtain ⟨b0, e0⟩ := lockoutLine_bus (l := 0) hd (hu 24 (by decide)) (by rw [hl]; decide)
  rw [e0] at first ⊢
  exact Ordered.lockoutLine first hd (hu 25 (by decide)) (by simp [State.setLine, hl])

/-! ### Step 7 -/

theorem lockoutPage_eq (s : State) :
    lockoutPage s = claimPage .all 0x08 (Config.lockoutPageArg s.freeCount).val .urgent none
      (s.withFreeCount (s.freeCount + 1)) := rfl

theorem lockoutPage_beside (s : State) : Beside s (lockoutPage s) := by
  have h := Beside.hush s
  exact h.claimPage _ _ _ _ _ (h.freeCount _ (Beside.refl s))

theorem lockoutPage_courses (s : State) : (lockoutPage s).courses = s.courses ∧ (lockoutPage s).earmarks = s.earmarks :=
  Murmur.claimPage (P := fun t => t.courses = s.courses ∧ t.earmarks = s.earmarks)
    ⟨fun _ _ h => h, fun _ h => h, fun _ h => h⟩ _ _ _ _ _ ⟨rfl, rfl⟩

theorem Ordered.lockoutPage {a : Nat} {who : Binding} {w : Wanted} (h : Ordered a who w s) :
    Ordered a who w (lockoutPage s) := by
  have page := claimPage_bus .all 0x08 (Config.lockoutPageArg s.freeCount).val .urgent none
    (s.withFreeCount (s.freeCount + 1))
  exact h.of_bus page.1 page.2

/-! ### The state that a lockout entry leaves -/

/-- What stands in `w` once a lockout entry that confirm timer `k` causes has been taken from `s`. -/
structure LockedOut (k : Nat) (s w : State) : Prop where
  day : w.day = (lockoutDay k s).day
  hold : w.hold = ⟨none, 0, none⟩
  earmarks : w.earmarks = []
  reverted : ∀ c, c < 32 → (s.course c).state = .ready → (∃ e ∈ s.earmarks, e.course = c ∧ 0 < e.count) →
    (w.course c).state = .fired
  unclaimed : ∀ c, c < 26 → Unclaimed c w
  down : ∀ j, j < 24 → Down j w
  ordered : ∀ j a, j < 24 → 1 ≤ a → a ≤ 31 → Orderable j a (s.cab j).setpoint s →
    Ordered a (.cabinet j) (.cabinet .off (s.cab j).setpoint) w
  line : ∀ l, l < 2 → (w.line l).stops.lockout = true ∧ (w.line l).wantedRun = false
  settle : w.power.settle = none
  unresolved : w.power.unresolved = false

/-- After steps 1 to 6. -/
theorem lockoutLines_lockedOut (k : Nat) (hs : Sized s) (hd : s.day.state ≠ .lockout) :
    LockedOut k s (lockoutLines k s) := by
  have dark := lockoutDark_dark k hs hd
  unfold lockoutLines
  generalize lockoutDark k s = v at dark
  have rests : Rests v (lockoutCabs v) := lockoutCabs_keeps (Rests.switched v) dark.earmarks (Rests.refl v)
  have unclaimed : ∀ c, c < 26 → Unclaimed c (lockoutCabs v) := fun c hc =>
    lockoutCabs_keeps (Unclaimed.switched c) dark.earmarks (dark.unclaimed c hc)
  have down : ∀ j, j < 24 → Down j (lockoutCabs v) := fun j hj => lockoutCabs_down dark.sized hj
  have ordered : ∀ j a, j < 24 → 1 ≤ a → a ≤ 31 → Orderable j a (s.cab j).setpoint s →
      Ordered a (.cabinet j) (.cabinet .off (s.cab j).setpoint) (lockoutCabs v) := fun j a hj h1 h31 ho =>
    lockoutCabs_ordered (ho.of (cab_congr dark.cabs j) (dark.node a)) dark.sized dark.earmarks hj h1 h31
  have lines : (lockoutCabs v).lines.length = 2 := (Wide.lockoutCabs (sized_full .a).toWide dark.sized).lines
  generalize lockoutCabs v = o at rests unclaimed down ordered lines
  have lockout : o.day.state = .lockout := by rw [rests.day, dark.day]; rfl
  have ordered' := fun j a hj h1 h31 ho => Ordered.lockoutLine_both (ordered j a hj h1 h31 ho) lockout unclaimed lines
  obtain ⟨b, e⟩ := lockoutLine_both lockout unclaimed lines
  rw [e] at ordered' ⊢
  refine ⟨rests.day.trans dark.day, rests.hold.trans dark.hold, rests.earmarks.trans dark.earmarks, fun c hc hr he => ?_,
    unclaimed, down, ordered', fun l hl => ?_, rests.settle.trans dark.settle, rests.unresolved.trans dark.unresolved⟩
  · have h := (dark.owing c hc hr he).1
    unfold State.course at h ⊢
    exact (congrArg (fun l => (List.getD l c Course.initial).state) rests.courses).trans h
  · have line : ((((o.setLine 0 (o.line 0).lockedOut).setLine 1 (o.line 1).lockedOut).withBus b).line l) =
        (o.line l).lockedOut := by
      obtain rfl | rfl : l = 0 ∨ l = 1 := by omega
      · exact (State.line_setLine_other _ _ _ _ (by decide)).trans (State.line_setLine _ _ _ (by rw [lines]; decide))
      · exact State.line_setLine _ _ _ (by simp [State.setLine, lines])
    rw [line]
    exact ⟨rfl, rfl⟩

/-- After the page. -/
theorem lockoutPage_lockedOut (k : Nat) (hs : Sized s) (hd : s.day.state ≠ .lockout) :
    LockedOut k s (lockoutPage (lockoutLines k s)) := by
  have h := lockoutLines_lockedOut k hs hd
  generalize lockoutLines k s = u at h
  have beside := lockoutPage_beside u
  obtain ⟨courses, earmarks⟩ := lockoutPage_courses u
  refine ⟨beside.day.trans h.day, beside.hold.trans h.hold, earmarks.trans h.earmarks, fun c hc hr he => ?_, fun c hc => ?_,
    fun j hj => ?_, fun j a hj h1 h31 ho => (h.ordered j a hj h1 h31 ho).lockoutPage, fun l hl => ?_, ?_, ?_⟩
  · have g := h.reverted c hc hr he
    unfold State.course at g ⊢
    rwa [courses]
  · have g := h.unclaimed c hc
    unfold Unclaimed State.consumer at g ⊢
    rwa [beside.power]
  · have g := h.down j hj
    unfold Down at g ⊢
    rwa [cab_congr beside.cabs]
  · have g := h.line l hl
    unfold State.line at g ⊢
    rwa [beside.lines]
  · rw [beside.power]
    exact h.settle
  · rw [beside.power]
    exact h.unresolved

theorem confirmTimerExpiry_eq {k b : Nat} (h : s.day.confirm.getD k none = some b) :
    confirmTimerExpiry k s =
      if s.day.state = .lockout then s else finish (enterLockout k (reachMs (b + Config.confirmMs) s)) := by
  unfold confirmTimerExpiry
  rw [h]

end Sys2Proof.Machine

namespace Sys2Proof.Certificates

open Sys2Proof.Machine

/-- Settles O53: the state written out is the one that the stages of the entry make, of which `LockedOut` says the rest. -/
theorem confirmExpiryEntersLockout : Obligations.ConfirmExpiryEntersLockout := by
  intro k b s live sized hk hb
  refine ⟨fun hd => ?_, fun hd => ?_⟩
  · refine (live_next _ live).trans (congrArg _ ?_)
    rw [confirmTimerExpiry_eq hb, if_pos hd]
  · intro entered told broken cut dead freed off stopped u
    let r := reachMs (b + Config.confirmMs) s
    have hentered : entered = lockoutDay k r := (lockoutDay_eq k r).symm
    have hbroken : broken = endHold (some .holdBroken) (lockoutDay k r).hold.count (lockoutDay k r) := by
      rw [endHold_broken_eq, ← hentered]
      rfl
    have hdead : dead = lockoutUnpowered k r := by
      unfold lockoutUnpowered
      rw [powerLockout_released, ← hbroken]
      rfl
    have hdark : evaluateAll freed = lockoutDark k r := by
      rw [lockoutDark_eq, ← hdead]
      rfl
    have hoff : off = lockoutCabs (lockoutDark k r) := by
      unfold lockoutCabs
      rw [← hdark]
      exact congrArg (fun f => forEach (List.range 24) f (evaluateAll freed))
        (funext fun j => funext fun v => (lockoutCab_eq j v).symm)
    have hline (l : Nat) (v : State) : stopped l v = lockoutLine l v := rfl
    have hu : u = lockoutLines k r := by
      unfold lockoutLines
      rw [← hoff, ← hline, ← hline]
    have sized' : Sized r := (sized_full .a).toWide.reachMs _ sized
    have locked := lockoutPage_lockedOut k sized' hd
    have conserves : Conserves s → Conserves (lockoutPage (lockoutLines k r)) := fun h =>
      let w := (conserves_full .a).toWide
      w.lockoutPage (Wide.lockoutLines w k hd (w.reachMs _ h))
    have held : (if s.hold.owner = none then 0 else 1) = r.hold.owner.isSome.toNat := by
      show _ = s.hold.owner.isSome.toNat
      cases s.hold.owner <;> rfl
    refine ⟨(Config.lockoutPageArg u.freeCount).val, lockoutPage (lockoutLines k r),
      finish (raise .lockoutEntered k s.day.state.code (if s.hold.owner = none then 0 else 1) (lockoutPage (lockoutLines k r))),
      ?_, rfl, ?_, finish_floor _, ?_, locked.hold, locked.earmarks, locked.reverted, locked.unclaimed, locked.down, ?_,
      locked.line, locked.settle, locked.unresolved, conserves⟩
    · refine (live_next _ live).trans (congrArg _ ?_)
      rw [confirmTimerExpiry_eq hb, if_neg hd, enterLockout_eq, held]
      rfl
    · rw [← hu]
      exact lockoutPage_eq u
    · rw [hentered]
      exact locked.day
    · intro j a hj h1 h31 haddr hbound hans hhere hmode
      have order := locked.ordered j a hj h1 h31 ⟨haddr, rfl, hhere, hmode, hbound, hans⟩
      exact ⟨order.wanted, order.flag, order.queued⟩

end Sys2Proof.Certificates
end

section
/-! SUPPORT. A service second (R176, R73, R85). -/

namespace Sys2Proof.Certificates

open Sys2Proof.Machine

/-- Settles O50: each stage of the service second writes one record, and the stages write different ones. -/
theorem serviceSecondCounts : Obligations.ServiceSecondCounts := by
  intro s live less
  have stages : serviceSecond s =
      (((((clockSecond s).withCabs (s.cabs.map Cab.second)).withLines (s.lines.map Line.second)).withPower
        { s.power with settle := tick s.power.settle }).withBus { s.bus with
          discTimer := tick s.bus.discTimer, nodes := s.bus.nodes.map fun n => { n with silence := tick n.silence } }).withPaging
        { s.paging with ageJudged := s.paging.settings.age } := rfl
  exact (live_next serviceSecond live).trans (congrArg _ stages)

end Sys2Proof.Certificates
end

section
/-! SUPPORT. The commands that switch a cabinet, set its setpoint and rearm it (R54–R57, R61–R65, R103). -/

namespace Sys2Proof.Machine

variable {s : State}

theorem claimCab_beside (k : Nat) (u : Bool) (s : State) : Beside s (claimCab k u s) :=
  (Beside.hush s).claimCab k u (Beside.refl s)

theorem claimCab_cab (k : Nat) (u : Bool) (s : State) (j : Nat) : (claimCab k u s).cab j = s.cab j :=
  cab_congr (claimCab_beside k u s).cabs j

theorem claimCab_consumer (k : Nat) (u : Bool) (s : State) (c : Nat) : (claimCab k u s).consumer c = s.consumer c := by
  unfold State.consumer
  rw [(claimCab_beside k u s).power]

theorem lowerTo_cab (c n : Nat) (s : State) (k : Nat) : (lowerTo c n s).cab k = s.cab k :=
  cab_congr (lowerTo_cabs c n s) k

theorem request_cab (c n : Nat) (s : State) (k : Nat) : (request c n s).cab k = s.cab k :=
  cab_congr (request_cabs c n s) k

/-! ### The record after a change of state (R54, R73) -/

/-- The batches of an oven that enters a state. -/
theorem enter_batches (c : Cab) (st : CabState) :
    (c.enter st).batches = c.batches.map fun b =>
      if st = .off ∨ st = .fault ∨ st = .offline then b.paused
      else b.refreshed (decide (st = .holding) && !c.live.doorOpen) := by
  cases st <;> rfl

theorem Batch.refreshed_eq (run : Prop) [Decidable run] (b : Batch) :
    b.refreshed (decide run) =
      if run then (if b.state = .waiting ∨ b.state = .paused then { b with state := .cooking } else b)
      else if b.state = .cooking ∧ b.remaining ≠ 0 then { b with state := .paused } else b := by
  unfold Batch.refreshed
  by_cases h : run
  · rw [if_pos h, if_pos (decide_eq_true h)]
  · rw [if_neg h, if_neg (by simpa using h)]

/-- A change of state writes the state's wanted mode and the batches, and stops the sleep timer. -/
theorem enter_eq {c : Cab} {st : CabState} {l : List Batch} (h : (c.enter st).batches = l) :
    c.enter st = { c with state := st, sleepT := none, wantMode := st.mode c.wantMode, batches := l } := by
  subst h
  cases st <;> rfl

/-- What follows the new record: notice and SET, then the earmarks released or the plates given out. -/
theorem changeState_eq {k : Nat} {st : CabState} {x : Cab} (u : Bool) (h : (s.cab k).state ≠ st)
    (hx : (s.cab k).enter st = x) :
    changeState k st u s = callClose (callRoutes
      (let c := s.cab k
       let v := claimCab k u (raise .cabinetState k st.code c.state.code (s.setCab k x))
       if c.isWarmer && c.state.eligible && !st.eligible then releaseWarmer k v
       else if c.isWarmer && !c.state.eligible && st.eligible && !c.lots.isEmpty then evaluateAll (walkOwing k v)
       else v)) := by
  subst hx
  exact if_neg h

/-! ### A cabinet that is switched -/

/-- What CABINET_MODE ON makes of an OFF cabinet in SERVICE, step by step (R55): the cabinet waits, and its request
stands at its heat units. -/
theorem waiting_records {k : Nat} (hs : Sized s) (hk : k < 24) (h : (s.cab k).state ≠ .waitPower) :
    let waiting := request k (s.cab k).heat (changeState k .waitPower false s)
    (waiting.cab k).state = .waitPower ∧
      requestHeat k s = if (s.cab k).heat ≤ (waiting.consumer k).grant then changeState k .heating false waiting else waiting := by
  have record : (changeState k .waitPower false s).cab k = (s.cab k).enter .waitPower :=
    changeState_cab false (hs.cabs ▸ hk) h
  have heat : ((changeState k .waitPower false s).cab k).heat = (s.cab k).heat := by rw [record]; rfl
  intro waiting
  refine ⟨?_, ?_⟩
  · rw [show waiting.cab k = _ from request_cab _ _ _ _, record]
    rfl
  · unfold requestHeat
    extract_lets a b
    have hb : b = waiting := by
      show request k ((changeState k .waitPower false s).cab k).heat _ = _
      rw [heat]
    rw [hb, show (waiting.cab k).heat = (s.cab k).heat by rw [show waiting.cab k = _ from request_cab _ _ _ _, heat]]

/-- Outside LOCKOUT a changing command finds an open day (R164). -/
theorem Admitted.inDay {i : Instr} {p : Port} (h : Admitted i p s) (h1 : isRead i = false)
    (h2 : passesLockout i = false) : Machine.inDay (before i p s) openDays = true :=
  inDay_openDays (by rw [before_day]; exact h.notLockout h1 h2)

/-- CABINET_MODE ON in its words: only an OFF cabinet that is wanted ON in a running day claims units. -/
theorem switchOn_eq {k : Nat} (h : (s.cab k).wantedOn = true) :
    switchOn k s =
      if (s.cab k).state = .off ∧ (s.day.state = .service ∨ s.day.state = .closing) then requestHeat k s else s := by
  unfold switchOn State.dayRuns
  simp [h]

/-- CABINET_MODE OFF is refused without force for a warmer with earmarks and for an oven with a batch (R61). -/
theorem modeAllowed_off (k force : Nat) (s : State) :
    s.modeAllowed k 1 force = true ↔ ¬(force ≠ 1 ∧ ((s.cab k).kind = .warmer ∧ 0 < s.earmarkedAt k ∨
      (s.cab k).kind = .oven ∧ (s.cab k).batches ≠ [])) := by
  unfold State.modeAllowed Cab.isWarmer Cab.isOven
  by_cases h : force = 1
  · simp [h]
  · simp [h, List.isEmpty_iff, imp_iff_not_or]

end Sys2Proof.Machine

namespace Sys2Proof.Certificates

open Sys2Proof.Machine

/-- CABINET_MODE ON (R61, R55). -/
theorem cabinetOn_clauses (p : Port) (k force : Nat) (s : State) (ha : Admitted (.cabinetMode p k 0 force) p s)
    (sized : Sized s) :
    let i := Instr.cabinetMode p k 0 force
    let u := before i p s
    let c := u.cab k
    let v := u.setCab k { c with wantedOn := true }
    let good := k < 24 ∧ force < 2
    let barred := s.day.state = .closing ∨ c.state = .fault
    (good → c.kind ≠ .empty → ¬barred →
      (c.state = .off → s.day.state = .service →
        let waiting := request k c.heat (changeState k .waitPower false v)
        let w := if c.heat ≤ (waiting.consumer k).grant then changeState k .heating false waiting else waiting
        ∃ t, Executes i p s (be8 (t.cab k).state.code) t ∧ t = finish w ∧ Floor v w ∧ Floor w t ∧
          (waiting.cab k).state = .waitPower ∧ ((w.cab k).state = .waitPower ∨ (w.cab k).state = .heating) ∧
          (w.consumer k).request = c.heat) ∧
        (¬(c.state = .off ∧ s.day.state = .service) →
          ∃ t, Executes i p s (be8 (t.cab k).state.code) t ∧ Floor v t ∧ t = finish v)) ∧
      (good → c.kind ≠ .empty → barred → RefusedWith i p s .badState) ∧
      (good → c.kind = .empty → RefusedWith i p s .notFound) ∧ (¬good → RefusedWith i p s .range) := by
  intro i u c v good barred
  have body : bodyOf i u = checked
      [(decide (k < 24) && isFlag 0 && isFlag force, .range), (decide (c.kind ≠ .empty), .notFound),
        (inDay u openDays && u.modeAllowed k 0 force, .badState)]
      (fun u => let t := finish (switchOn k (u.setCab k { u.cab k with wantedOn := true }))
        okWith (be8 (t.cab k).state.code) t) u := rfl
  have range : (decide (k < 24) && isFlag 0 && isFlag force) = true ↔ good := by simp [isFlag, good]
  have open' : inDay u openDays = true := ha.inDay rfl rfl
  have allowed : (inDay u openDays && u.modeAllowed k 0 force) = true ↔ ¬barred := by
    simp [open', State.modeAllowed, barred, c, u]
  have executes (hg : good) (hk : c.kind ≠ .empty) (hb : ¬barred) {w : State} (hw : switchOn k v = w) :
      Executes i p s (be8 ((finish w).cab k).state.code) (finish w) :=
    Executes.of_checks rfl ha body ((firstFailure_tail (range.2 hg)).trans ((firstFailure_tail (decide_eq_true hk)).trans
      (firstFailure_tail (allowed.2 hb)))) (by rw [← hw])
  have own (hg : good) : v.cab k = { c with wantedOn := true } :=
    State.cab_setCab _ _ _ (by rw [(sized.before i p).cabs]; exact hg.1)
  have switched (hg : good) : switchOn k v =
      if c.state = .off ∧ (s.day.state = .service ∨ s.day.state = .closing) then requestHeat k v else v := by
    rw [switchOn_eq (by rw [own hg]), own hg, show v.day = s.day from before_day i p s]
  refine ⟨fun hg hk hb => ⟨fun hoff hserve => ?_, fun h => ?_⟩, fun hg hk hb => ?_, fun hg hk => ?_, fun hg => ?_⟩
  · intro waiting w
    have sizedV : Sized v := (sized.before i p).setCab _ _
    obtain ⟨waits, heats⟩ := waiting_records sizedV hg.1 (by rw [own hg, show c.state = .off from hoff]; decide)
    rw [own hg] at waits heats
    have hw : requestHeat k v = w := heats
    have records := requestHeat_records k v (by rw [sizedV.cabs]; exact hg.1) (by rw [sizedV.consumers]; have := hg.1; omega)
    rw [hw, own hg] at records
    refine ⟨_, executes hg hk hb ((switched hg).trans ((if_pos ⟨hoff, .inl hserve⟩).trans hw)), rfl, ?_, finish_floor w,
      waits, records⟩
    rw [← hw]
    exact (Floor.stable v).requestHeat k (Floor.refl v)
  · refine ⟨_, executes hg hk hb ((switched hg).trans (if_neg fun e => h ⟨e.1, e.2.resolve_right fun e => hb (.inl e)⟩)),
      finish_floor v, rfl⟩
  · exact RefusedWith.of_checks rfl ha body ((firstFailure_tail (range.2 hg)).trans ((firstFailure_tail
      (decide_eq_true hk)).trans (firstFailure_head (Bool.eq_false_iff.2 fun h => allowed.1 h hb))))
  · exact RefusedWith.of_checks rfl ha body ((firstFailure_tail (range.2 hg)).trans
      (firstFailure_head (decide_eq_false (not_not.2 hk))))
  · exact RefusedWith.of_checks rfl ha body (firstFailure_head (Bool.eq_false_iff.2 (mt range.1 hg)))

/-- CABINET_MODE OFF (R61, R57). -/
theorem cabinetOff_clauses (p : Port) (k force : Nat) (s : State) (ha : Admitted (.cabinetMode p k 1 force) p s)
    (sized : Sized s) :
    let i := Instr.cabinetMode p k 1 force
    let u := before i p s
    let c := u.cab k
    let v := u.setCab k { c with wantedOn := false }
    let good := k < 24 ∧ force < 2
    let kept := force = 0 ∧ (c.kind = .warmer ∧ 0 < s.earmarkedAt k ∨ c.kind = .oven ∧ c.batches ≠ [])
    let w := enterOff k false v
    (good → c.kind ≠ .empty → ¬kept →
      (c.state.on = true →
        ∃ t, Executes i p s (be8 (t.cab k).state.code) t ∧ t = finish w ∧ Bedrock u w ∧ Floor w t ∧
          w.cab k = { c.asOff with wantedOn := false } ∧ w.consumer k = (u.consumer k).released) ∧
        (c.state.on = false → ∃ t, Executes i p s (be8 (t.cab k).state.code) t ∧ Floor v t ∧ t = finish v)) ∧
      (good → c.kind ≠ .empty → kept → RefusedWith i p s .badState) ∧
      (good → c.kind = .empty → RefusedWith i p s .notFound) ∧ (¬good → RefusedWith i p s .range) := by
  intro i u c v good kept w
  have body : bodyOf i u = checked
      [(decide (k < 24) && isFlag 1 && isFlag force, .range), (decide (c.kind ≠ .empty), .notFound),
        (inDay u openDays && u.modeAllowed k 1 force, .badState)]
      (fun u => let t := finish (switchOff k false u)
        okWith (be8 (t.cab k).state.code) t) u := rfl
  have range : (decide (k < 24) && isFlag 1 && isFlag force) = true ↔ good := by simp [isFlag, good]
  have open' : inDay u openDays = true := ha.inDay rfl rfl
  have earmarked : u.earmarkedAt k = s.earmarkedAt k := by unfold State.earmarkedAt; rw [before_earmarks]
  have allowed (hg : good) : (inDay u openDays && u.modeAllowed k 1 force) = true ↔ ¬kept := by
    rw [open', Bool.true_and, modeAllowed_off, earmarked]
    have hf : force ≠ 1 ↔ force = 0 := by have := hg.2; omega
    rw [hf]
  have executes (hg : good) (hk : c.kind ≠ .empty) (hb : ¬kept) {w : State} (hw : switchOff k false u = w) :
      Executes i p s (be8 ((finish w).cab k).state.code) (finish w) :=
    Executes.of_checks rfl ha body ((firstFailure_tail (range.2 hg)).trans ((firstFailure_tail (decide_eq_true hk)).trans
      (firstFailure_tail ((allowed hg).2 hb)))) (by rw [← hw])
  refine ⟨fun hg hk hb => ⟨fun hon => ?_, fun hoff => ?_⟩, fun hg hk hb => ?_, fun hg hk => ?_, fun hg => ?_⟩
  · have hu : k < u.cabs.length := by rw [(sized.before i p).cabs]; exact hg.1
    have own : v.cab k = { c with wantedOn := false } := State.cab_setCab _ _ _ hu
    have hstate : (v.cab k).state ≠ .off := fun e => by
      rw [own] at e
      rw [show c.state = .off from e] at hon
      cases hon
    have records := enterOff_records k false v (by simpa [v] using hu)
      (by show k < u.power.consumers.length; rw [(sized.before i p).consumers]; have := hg.1; omega) hstate
    rw [own] at records
    refine ⟨_, executes hg hk hb ((switchOff_eq k u).trans (if_pos hon)), rfl, ?_, finish_floor w, records⟩
    exact (Bedrock.work u).enterOff k false ((Bedrock.work u).setCab k _ (by constructor <;> rfl) (Bedrock.refl u))
  · exact ⟨_, executes hg hk hb ((switchOff_eq k u).trans (if_neg (by
      rw [show (u.cab k).state.on = false from hoff]; decide))), finish_floor v, rfl⟩
  · exact RefusedWith.of_checks rfl ha body ((firstFailure_tail (range.2 hg)).trans ((firstFailure_tail
      (decide_eq_true hk)).trans (firstFailure_head (Bool.eq_false_iff.2 fun h => (allowed hg).1 h hb))))
  · exact RefusedWith.of_checks rfl ha body ((firstFailure_tail (range.2 hg)).trans
      (firstFailure_head (decide_eq_false (not_not.2 hk))))
  · exact RefusedWith.of_checks rfl ha body (firstFailure_head (Bool.eq_false_iff.2 (mt range.1 hg)))

/-- A change of state and the SET and heat claims that go with it (R54, R55, R73). -/
theorem changeState_clauses (k : Nat) (st : CabState) (urgent : Bool) (s : State) :
    let c := s.cab k
    let eligible := fun (x : CabState) => x = .heating ∨ x = .holding ∨ x = .waitPower ∨ x = .shed
    let runs := st = .holding ∧ c.live.doorOpen = false
    let entered := { c with
      state := st, sleepT := none,
      wantMode :=
        match st with
        | .heating => .heat
        | .holding => .hold
        | .sleep | .shed => .standby
        | .waitPower => c.wantMode
        | .off | .fault | .offline => .off,
      batches := c.batches.map fun b =>
        if st = .off ∨ st = .fault ∨ st = .offline then b.paused
        else if runs then (if b.state = .waiting ∨ b.state = .paused then { b with state := .cooking } else b)
        else if b.state = .cooking ∧ b.remaining ≠ 0 then { b with state := .paused }
        else b }
    let v := claimCab k urgent (raise .cabinetState k st.code c.state.code (s.setCab k entered))
    let leaves := c.kind = .warmer ∧ eligible c.state ∧ ¬eligible st
    let enters := c.kind = .warmer ∧ ¬eligible c.state ∧ eligible st ∧ c.lots ≠ []
    (c.state = st → changeState k st urgent s = s) ∧
      (c.state ≠ st →
        (leaves → changeState k st urgent s = callClose (callRoutes (releaseWarmer k v))) ∧
          (enters → changeState k st urgent s = callClose (callRoutes (evaluateAll (walkOwing k v)))) ∧
          (¬leaves → ¬enters → changeState k st urgent s = callClose (callRoutes v))) ∧
      claimCab k urgent s =
        (if c.state = .offline then s
         else claimSet c.addr (.cabinet k) (.cabinet c.wantMode c.setpoint) urgent s) ∧
      (let w := request k ((changeState k .waitPower false s).cab k).heat (changeState k .waitPower false s)
       requestHeat k s = if (w.cab k).heat ≤ (w.consumer k).grant then changeState k .heating false w else w) := by
  intro c eligible runs entered v leaves enters
  have record : c.enter st = entered := by
    have batches : (c.enter st).batches = entered.batches := by
      have hr : (decide (st = .holding) && !c.live.doorOpen) = decide runs := by simp [runs]
      rw [enter_batches, hr]
      simp only [Batch.refreshed_eq]
      rfl
    rw [enter_eq batches]
    cases st <;> rfl
  have leaving : (c.isWarmer && c.state.eligible && !st.eligible) = true ↔ leaves := by
    simp [Cab.isWarmer, CabState.eligible_iff, leaves, eligible, ← Bool.not_eq_true, and_assoc]
  have entering : (c.isWarmer && !c.state.eligible && st.eligible && !c.lots.isEmpty) = true ↔ enters := by
    simp [Cab.isWarmer, CabState.eligible_iff, enters, eligible, ← Bool.not_eq_true, and_assoc]
  refine ⟨changeState_self urgent, fun h => ?_, rfl, rfl⟩
  have steps := changeState_eq urgent h record
  refine ⟨fun hl => ?_, fun he => ?_, fun hl he => ?_⟩
  · exact steps.trans (congrArg _ (congrArg _ (if_pos (leaving.2 hl))))
  · have hl : ¬leaves := fun hl => he.2.1 hl.2.1
    exact steps.trans (congrArg _ (congrArg _ ((if_neg (mt leaving.1 hl)).trans (if_pos (entering.2 he)))))
  · exact steps.trans (congrArg _ (congrArg _ ((if_neg (mt leaving.1 hl)).trans (if_neg (mt entering.1 he)))))

/-- The claims of units (R103). -/
theorem claims_clauses (c n : Nat) (s : State) :
    let x := s.consumer c
    let m := min n x.grant
    (x.grant < n → request c n s = callAdmission (s.setConsumer c
      { x with request := n, reqTime := if x.grant < x.request then x.reqTime else some s.day.clock })) ∧
      (n ≤ x.grant → request c n s = lowerTo c n s) ∧
      lowerTo c n s = callRestore (s.setConsumer c { x with grant := m, request := m, reqTime := none }) ∧
      release c s = callRestore (s.setConsumer c x.released) :=
  ⟨fun h => if_pos h, fun h => if_neg (Nat.not_lt.2 h), rfl, rfl⟩

/-- Settles O25. -/
theorem cabinetModeSwitchesCabinet : Obligations.CabinetModeSwitchesCabinet :=
  ⟨cabinetOn_clauses, cabinetOff_clauses, changeState_clauses, claims_clauses⟩

end Sys2Proof.Certificates
end

section
/-! SUPPORT. CABINET_SETPOINT and CABINET_REARM (R56, R60, R62–R65). -/

namespace Sys2Proof.Machine

variable {s : State}

/-! ### A new setpoint (R56, R62) -/

theorem CabKind.setpointOk_iff (q : CabKind) (t : Int) :
    q.setpointOk t = true ↔ (q = .oven → 60 ≤ t ∧ t ≤ 250) ∧ (q = .warmer → 60 ≤ t ∧ t ≤ 95) := by
  cases q <;> simp [CabKind.setpointOk, withinTemp]

theorem judgeNow_heating {k : Nat} (h : (s.cab k).state = .heating) :
    judgeNow k s = if (s.cab k).inBand then changeState k .holding false (lowerTo k (s.cab k).hold s) else s := by
  unfold judgeNow
  simp only [h]

theorem judgeNow_holding {k : Nat} (h : (s.cab k).state = .holding) :
    judgeNow k s = if (s.cab k).farBelow then requestHeat k s else s := by
  unfold judgeNow
  simp only [h]

theorem judgeNow_other {k : Nat} (h1 : (s.cab k).state ≠ .heating) (h2 : (s.cab k).state ≠ .holding) :
    judgeNow k s = s := by
  unfold judgeNow
  dsimp only
  split
  · contradiction
  · contradiction
  · rfl

theorem inBand_iff (c : Cab) : c.inBand = true ↔ c.setpoint - c.band ≤ c.temp := decide_eq_true_iff
theorem farBelow_iff (c : Cab) : c.farBelow = true ↔ c.temp < c.setpoint - 2 * c.band := decide_eq_true_iff

/-- Entry to HOLDING with the claim lowered to `n` units (R56). -/
theorem holding_records {k : Nat} (n : Nat) (hs : Sized s) (hk : k < 24) (h : (s.cab k).state ≠ .holding) :
    let w := changeState k .holding false (lowerTo k n s)
    (w.cab k).state = .holding ∧ (w.consumer k).grant = min n (s.consumer k).grant ∧
      (w.consumer k).request = min n (s.consumer k).grant := by
  intro w
  have record : w.cab k = (s.cab k).enter .holding := by
    show (changeState k .holding false (lowerTo k n s)).cab k = _
    rw [changeState_cab false (by rw [lowerTo_cabs, hs.cabs]; exact hk) (by rw [lowerTo_cab]; exact h), lowerTo_cab]
  have claim : w.consumer k =
      { s.consumer k with grant := min n (s.consumer k).grant, request := min n (s.consumer k).grant, reqTime := none } := by
    show (changeState k .holding false _).power.consumers.getD k _ = _
    rw [changeState_power]
    exact setConsumer_consumer k _ s (by rw [hs.consumers]; omega)
  rw [record, claim]
  exact ⟨rfl, rfl, rfl⟩

/-! ### A rearm (R60, R63–R65) -/

theorem hasFault_iff (x : CondSet) :
    hasFault x = false ↔ x.overtemp = false ∧ x.probeFault = false ∧ x.elementFault = false := by
  simp [hasFault, and_assoc]

theorem relatch_eq (k : Nat) (s : State) :
    relatch k s =
      if (s.cab k).live = (s.cab k).latchedSet then s.setCab k { s.cab k with latched := false }
      else raise .cabinetCondition k (s.cab k).live.mask (s.cab k).state.code
        (s.setCab k { s.cab k with latched := true, latchedSet := (s.cab k).live }) := rfl

/-- A rearm touches the latch alone. -/
theorem relatch_cab {k : Nat} (hk : k < s.cabs.length) :
    ∃ b x, (relatch k s).cab k = { s.cab k with latched := b, latchedSet := x } := by
  rw [relatch_eq]
  split
  · exact ⟨false, (s.cab k).latchedSet, State.cab_setCab _ _ _ hk⟩
  · exact ⟨true, (s.cab k).live, State.cab_setCab _ _ _ hk⟩

theorem relatch_rest (k : Nat) (s : State) :
    (relatch k s).bus = s.bus ∧ (relatch k s).power = s.power ∧ (relatch k s).cabs.length = s.cabs.length := by
  rw [relatch_eq]
  split
  · exact ⟨rfl, rfl, by simp⟩
  · exact ⟨rfl, rfl, List.length_set⟩

theorem cabAnswering_iff (k : Nat) (s : State) :
    s.cabAnswering k = true ↔
      (s.cab k).addr ≠ none ∧ ((s.node ((s.cab k).addr.getD 0)).presence = .present ∨
        (s.node ((s.cab k).addr.getD 0)).presence = .silent) ∧ (s.node ((s.cab k).addr.getD 0)).binding = .cabinet k := by
  unfold State.cabAnswering State.cabBound State.boundTo
  cases h : (s.cab k).addr with
  | none => simp
  | some a => simp [answering_iff]

/-- Entry to OFFLINE (R60, R103): the consumer's record. -/
theorem enterOffline_consumer {k : Nat} (hc : k < s.power.consumers.length) :
    (enterOffline k s).consumer k = { (s.consumer k).released with measured := 0, lastReport := none } := by
  unfold enterOffline
  extract_lets a c
  have released : (release k s).consumer k = (s.consumer k).released := setConsumer_consumer k _ s hc
  have len : k < (release k s).power.consumers.length := by
    show k < (s.setConsumer k _).power.consumers.length
    unfold State.setConsumer
    dsimp only
    split <;> simpa using hc
  show (cancelRoutes k _).power.consumers.getD k _ = _
  rw [cancelRoutes_power, changeState_power]
  exact (setConsumer_consumer k _ (release k s) len).trans (by rw [released])

end Sys2Proof.Machine

namespace Sys2Proof.Certificates

open Sys2Proof.Machine

/-- CABINET_SETPOINT (R62, R56). -/
theorem cabinetSetpoint_clauses (p : Port) (k band : Nat) (tp : Int) (s : State)
    (ha : Admitted (.cabinetSetpoint p k tp band) p s) (sized : Sized s) :
    let i := Instr.cabinetSetpoint p k tp band
    let u := before i p s
    let c := u.cab k
    let good := k < 24 ∧ (c.kind = .oven → 60 ≤ tp ∧ tp ≤ 250) ∧ (c.kind = .warmer → 60 ≤ tp ∧ tp ≤ 95) ∧ 2 ≤ band ∧ band ≤ 20
    let shared := c.kind = .oven ∧ c.batches ≠ []
    let v := claimCab k false (u.setCab k { c with setpoint := tp, band := band })
    let low := min c.hold (u.consumer k).grant
    let holds := c.state = .heating ∧ tp - band ≤ c.temp
    let raises := c.state = .holding ∧ c.temp < tp - 2 * band
    let executes := fun (w : State) =>
      ∃ t, Executes i p s [] t ∧ t = finish w ∧ Floor w t ∧ Still (u.setCab k { c with setpoint := tp, band := band }) w
    (good → c.kind ≠ .empty → ¬shared →
      (holds →
        let w := changeState k .holding false (lowerTo k c.hold v)
        executes w ∧ (w.cab k).state = .holding ∧ (w.consumer k).grant = low ∧ (w.consumer k).request = low) ∧
        (raises →
          let w := requestHeat k v
          executes w ∧ ((w.cab k).state = .waitPower ∨ (w.cab k).state = .heating) ∧ (w.consumer k).request = c.heat) ∧
        (¬holds → ¬raises → executes v)) ∧
      (good → c.kind ≠ .empty → shared → RefusedWith i p s .conflict) ∧
      (good → c.kind = .empty → RefusedWith i p s .notFound) ∧ (¬good → RefusedWith i p s .range) := by
  intro i u c good shared v low holds raises executes
  have body : bodyOf i u = checked
      [(decide (k < 24) && c.kind.setpointOk tp && within 2 20 band, .range), (decide (c.kind ≠ .empty), .notFound),
        (inDay u openDays, .badState), (!(c.isOven && !c.batches.isEmpty), .conflict)]
      (fun u => okWith [] (finish (applySetpoint k tp band u))) u := rfl
  have range : (decide (k < 24) && c.kind.setpointOk tp && within 2 20 band) = true ↔ good := by
    simp only [Bool.and_eq_true, decide_eq_true_eq, CabKind.setpointOk_iff, within_iff, and_assoc]
    exact Iff.rfl
  have alone : (!(c.isOven && !c.batches.isEmpty)) = true ↔ ¬shared := by
    simp [Cab.isOven, shared, List.isEmpty_iff, imp_iff_not_or]
  have upTo (hg : good) (hk : c.kind ≠ .empty) (rest : List (Bool × Status)) :
      firstFailure ((decide (k < 24) && c.kind.setpointOk tp && within 2 20 band, .range) ::
        (decide (c.kind ≠ .empty), .notFound) :: (inDay u openDays, .badState) :: rest) = firstFailure rest :=
    (firstFailure_tail (range.2 hg)).trans ((firstFailure_tail (decide_eq_true hk)).trans
      (firstFailure_tail (ha.inDay rfl rfl)))
  have executed (hg : good) (hk : c.kind ≠ .empty) (hb : ¬shared) {w : State} (hw : judgeNow k v = w) : executes w := by
    refine ⟨_, Executes.of_checks rfl ha body ((upTo hg hk _).trans (firstFailure_tail (alone.2 hb))) (congrArg _ (congrArg _ hw)),
      rfl, finish_floor w, ?_⟩
    rw [← hw]
    exact Still.judgeNow k ((Still.stable _).claimCab k false (Still.refl _))
  have own (hg : good) : v.cab k = { c with setpoint := tp, band := band } :=
    (claimCab_cab k false _ k).trans (State.cab_setCab _ _ _ (by rw [(sized.before i p).cabs]; exact hg.1))
  have claim : v.consumer k = u.consumer k := claimCab_consumer k false _ k
  have sizedV : Sized v := ((Still.stable _).claimCab k false (Still.refl _)).sizes ((sized.before i p).setCab _ _)
  refine ⟨fun hg hk hb => ⟨fun h => ?_, fun h => ?_, fun h1 h2 => executed hg hk hb ?_⟩, fun hg hk hb => ?_,
    fun hg hk => ?_, fun hg => ?_⟩
  · have state : (v.cab k).state = .heating := by rw [own hg]; exact h.1
    have inBand : (v.cab k).inBand = true := by rw [own hg]; exact (inBand_iff _).2 h.2
    have records := holding_records c.hold sizedV hg.1 (by rw [state]; decide)
    rw [claim] at records
    exact ⟨executed hg hk hb ((judgeNow_heating state).trans ((if_pos inBand).trans (by rw [own hg]))), records⟩
  · have state : (v.cab k).state = .holding := by rw [own hg]; exact h.1
    have below : (v.cab k).farBelow = true := by rw [own hg]; exact (farBelow_iff _).2 h.2
    have records := requestHeat_records k v (by rw [sizedV.cabs]; exact hg.1)
      (by rw [sizedV.consumers]; have := hg.1; omega)
    rw [show (v.cab k).heat = c.heat by rw [own hg]] at records
    exact ⟨executed hg hk hb ((judgeNow_holding state).trans (if_pos below)), records⟩
  · by_cases e1 : (v.cab k).state = .heating
    · refine (judgeNow_heating e1).trans (if_neg fun e => h1 ?_)
      rw [own hg] at e e1
      exact ⟨e1, (inBand_iff _).1 e⟩
    · by_cases e2 : (v.cab k).state = .holding
      · refine (judgeNow_holding e2).trans (if_neg fun e => h2 ?_)
        rw [own hg] at e e2
        exact ⟨e2, (farBelow_iff _).1 e⟩
      · exact judgeNow_other e1 e2
  · exact RefusedWith.of_checks rfl ha body ((upTo hg hk _).trans
      (firstFailure_head (Bool.eq_false_iff.2 fun h => alone.1 h hb)))
  · exact RefusedWith.of_checks rfl ha body ((firstFailure_tail (range.2 hg)).trans
      (firstFailure_head (decide_eq_false (not_not.2 hk))))
  · exact RefusedWith.of_checks rfl ha body (firstFailure_head (Bool.eq_false_iff.2 (mt range.1 hg)))

/-- CABINET_REARM (R65). -/
theorem cabinetRearm_clauses (p : Port) (k : Nat) (s : State) (ha : Admitted (.cabinetRearm p k) p s) (sized : Sized s) :
    let i := Instr.cabinetRearm p k
    let u := before i p s
    let c := u.cab k
    let v :=
      if c.live = c.latchedSet then u.setCab k { c with latched := false }
      else
        raise .cabinetCondition k c.live.mask c.state.code (u.setCab k { c with latched := true, latchedSet := c.live })
    let reply := fun (t : State) =>
      be8 (t.cab k).state.code ++ be8 (t.cab k).live.mask ++ be8 (t.cab k).latchedSet.mask
    let leaves := c.state = .fault ∧ c.live.overtemp = false ∧ c.live.probeFault = false ∧ c.live.elementFault = false
    let n := s.node (c.addr.getD 0)
    let answered := c.addr ≠ none ∧ (n.presence = .present ∨ n.presence = .silent) ∧ n.binding = .cabinet k
    let executes := fun (w : State) => ∃ t, Executes i p s (reply t) t ∧ t = finish w ∧ Bedrock v w ∧ Floor w t
    (k < 24 → c.kind ≠ .empty →
      (¬leaves → ∃ t, Executes i p s (reply t) t ∧ Floor v t ∧ t = finish v) ∧
        (leaves → answered →
          let w := enterOff k false v
          executes w ∧ w.cab k = (v.cab k).asOff ∧ w.consumer k = (u.consumer k).released) ∧
        (leaves → ¬answered →
          let w := enterOffline k v
          executes w ∧ w.cab k = (v.cab k).asOffline ∧
            w.consumer k = { (u.consumer k).released with measured := 0, lastReport := none })) ∧
      (k < 24 → c.kind = .empty → RefusedWith i p s .notFound) ∧ (24 ≤ k → RefusedWith i p s .range) := by
  intro i u c v reply leaves n answered executes
  have body : bodyOf i u = checked
      [(decide (k < 24), .range), (decide (c.kind ≠ .empty), .notFound), (inDay u openDays, .badState)]
      (fun u => okWith (reply (finish (rearm k u))) (finish (rearm k u))) u := rfl
  have executed (h24 : k < 24) (hk : c.kind ≠ .empty) {w : State} (hw : rearm k u = w) :
      Executes i p s (reply (finish w)) (finish w) :=
    Executes.of_checks rfl ha body ((firstFailure_tail (decide_eq_true h24)).trans ((firstFailure_tail
      (decide_eq_true hk)).trans (firstFailure_tail (ha.inDay rfl rfl)))) (by rw [← hw])
  have latched : relatch k u = v := relatch_eq k u
  obtain ⟨bus, power, length⟩ := relatch_rest k u
  rw [latched] at bus power length
  have sizedU := sized.before i p
  have hcabs (h24 : k < 24) : k < v.cabs.length := by rw [length, sizedU.cabs]; exact h24
  have hconsumers (h24 : k < 24) : k < v.power.consumers.length := by rw [power, sizedU.consumers]; omega
  have own (h24 : k < 24) : ∃ b x, v.cab k = { c with latched := b, latchedSet := x } := by
    rw [← latched]
    exact relatch_cab (by rw [sizedU.cabs]; exact h24)
  have claim : v.consumer k = u.consumer k := by unfold State.consumer; rw [power]
  have leaving (h24 : k < 24) : (decide ((v.cab k).state = .fault) && !hasFault (v.cab k).live) = true ↔ leaves := by
    obtain ⟨b, x, e⟩ := own h24
    rw [e, Bool.and_eq_true, decide_eq_true_eq, Bool.not_eq_true', hasFault_iff]
  have answering (h24 : k < 24) : v.cabAnswering k = true ↔ answered := by
    obtain ⟨b, x, e⟩ := own h24
    have nodes (a : Nat) : v.node a = s.node a := by unfold State.node; rw [bus, before_bus]
    rw [cabAnswering_iff, e, nodes]
  have rearmed : rearm k u =
      if (decide ((v.cab k).state = .fault) && !hasFault (v.cab k).live) = true then
        (if v.cabAnswering k = true then enterOff k false v else enterOffline k v)
      else v := by
    rw [← latched]
    rfl
  have faulted (h24 : k < 24) (h : leaves) : (v.cab k).state = .fault := by
    obtain ⟨b, x, e⟩ := own h24
    rw [e]
    exact h.1
  refine ⟨fun h24 hk => ⟨fun h => ?_, fun h h1 => ?_, fun h h1 => ?_⟩, fun h24 hk => ?_, fun h24 => ?_⟩
  · exact ⟨_, executed h24 hk (rearmed.trans (if_neg (mt (leaving h24).1 h))), finish_floor v, rfl⟩
  · intro w
    have records := enterOff_records k false v (hcabs h24) (hconsumers h24) (by rw [faulted h24 h]; decide)
    rw [claim] at records
    exact ⟨⟨_, executed h24 hk (rearmed.trans ((if_pos ((leaving h24).2 h)).trans (if_pos ((answering h24).2 h1)))), rfl,
      (Bedrock.work v).enterOff k false (Bedrock.refl v), finish_floor w⟩, records⟩
  · intro w
    have consumer := enterOffline_consumer (hconsumers h24)
    rw [claim] at consumer
    exact ⟨⟨_, executed h24 hk (rearmed.trans ((if_pos ((leaving h24).2 h)).trans (if_neg (mt (answering h24).1 h1)))), rfl,
      (Bedrock.work v).enterOffline k (Bedrock.refl v), finish_floor w⟩,
      enterOffline_cab k v (hcabs h24) (by rw [faulted h24 h]; decide), consumer⟩
  · exact RefusedWith.of_checks rfl ha body ((firstFailure_tail (decide_eq_true h24)).trans
      (firstFailure_head (decide_eq_false (not_not.2 hk))))
  · exact RefusedWith.of_checks rfl ha body (firstFailure_head (decide_eq_false (by omega)))

/-- Settles O26. -/
theorem cabinetSetpointAndRearm : Obligations.CabinetSetpointAndRearm := ⟨cabinetSetpoint_clauses, cabinetRearm_clauses⟩

end Sys2Proof.Certificates
end

section
/-! SUPPORT. A node that is LOST (R145, R60, R94, R134): no operation that its block is told by writes a node's record. -/

namespace Sys2Proof.Machine

variable {s : State}

theorem nodeIdx_lt {a : Nat} (h1 : 1 ≤ a) (h31 : a ≤ 31) : State.nodeIdx a < 31 := by
  unfold State.nodeIdx
  rw [if_neg (by omega)]
  omega

theorem node_setNode {a : Nat} (x : Node) (h1 : 1 ≤ a) (h31 : a ≤ 31) (hs : s.bus.nodes.length = 31) :
    (s.setNode a x).node a = x := by
  rw [State.node_setNode_ite, if_pos ⟨rfl, hs ▸ nodeIdx_lt h1 h31⟩]

/-! ### Operations that leave the node records as they stand -/

theorem selectPass_nodes (s : State) : (selectPass s).bus.nodes = s.bus.nodes := (selectUpTo_bus _ s).1

theorem startRush_nodes (t : Nat) (s : State) : (startRush t s).bus.nodes = s.bus.nodes := by
  unfold startRush
  split
  · rw [selectPass_nodes]
    unfold setRush
    split <;> rfl
  · rfl

theorem cancelPage_nodes (id : Nat) (b : Bool) (s : State) : (cancelPage id b s).bus.nodes = s.bus.nodes := by
  unfold cancelPage
  split
  · rfl
  · split
    · rfl
    · split
      · rfl
      · rw [endPage_bus]

theorem cancelCoursePages_nodes (c : Nat) (b : Bool) (s : State) : (cancelCoursePages c b s).bus.nodes = s.bus.nodes :=
  (selectPass_nodes _).trans
    (Hush.forEach (P := fun t => t.bus.nodes = s.bus.nodes) (fun id _ h => (cancelPage_nodes id false _).trans h) _ rfl)

theorem evaluate_nodes (c : Nat) (s : State) : (evaluate c s).bus.nodes = s.bus.nodes := by
  unfold evaluate
  split
  · split
    · exact (claimPage_bus _ _ _ _ _ _).1.trans (startRush_nodes _ _)
    · rfl
  · split
    · rfl
    · exact cancelCoursePages_nodes _ _ _
  · rfl

theorem pageShort_nodes (c : Nat) (s : State) : (pageShort c s).bus.nodes = s.bus.nodes := by
  unfold pageShort
  dsimp only
  split
  · exact (claimPage_bus _ _ _ _ _ _).1
  · rfl

theorem evaluateAll_nodes (s : State) : (evaluateAll s).bus.nodes = s.bus.nodes :=
  Hush.forEach (P := fun t => t.bus.nodes = s.bus.nodes) (fun c _ h => (pageShort_nodes c _).trans h) _
    (Hush.forEach (P := fun t => t.bus.nodes = s.bus.nodes) (fun c _ h => (evaluate_nodes c _).trans h) _ rfl)

theorem takeEarmark_bus (c k : Nat) (s : State) : (takeEarmark c k s).bus = s.bus := by
  unfold takeEarmark
  dsimp only
  split <;> rfl

theorem takeEarmarks_bus (c : Nat) (s : State) : (takeEarmarks c s).bus = s.bus :=
  Hush.forEach (P := fun t => t.bus = s.bus)
    (fun k _ h => by
      split
      · exact (takeEarmark_bus c k _).trans h
      · exact h) _ rfl

theorem releaseEntries_bus (l : List Earmark) (s : State) : (releaseEntries l s).bus = s.bus :=
  Hush.foldl (f := fun t e => releaseEntry e t) (P := fun t => t.bus = s.bus) (fun _ _ h => h) l rfl

theorem releaseWarmer_nodes (k : Nat) (s : State) : (releaseWarmer k s).bus.nodes = s.bus.nodes := by
  have refilled (cls : Nat) (t : State) : (refill cls t).bus = t.bus :=
    Hush.forEach (P := fun v => v.bus = t.bus) (fun c _ h => (takeEarmarks_bus c _).trans h) _ rfl
  unfold releaseWarmer
  split
  · rfl
  · dsimp only
    split
    · rw [evaluateAll_nodes, releaseEntries_bus]
    · rw [evaluateAll_nodes, refilled, releaseEntries_bus]

/-- Entry to OFFLINE claims no SET (R54), and so writes no node's record. -/
theorem changeState_offline_nodes (k : Nat) (u : Bool) (s : State) : (changeState k .offline u s).bus.nodes = s.bus.nodes := by
  by_cases h : (s.cab k).state = .offline
  · rw [changeState_self u h]
  · have hk : k < s.cabs.length := by
      by_contra hk
      rw [cab_outside hk] at h
      exact h rfl
    have unclaimed : claimCab k u (raise .cabinetState k CabState.offline.code (s.cab k).state.code
        (s.setCab k ((s.cab k).enter .offline))) = raise .cabinetState k CabState.offline.code (s.cab k).state.code
        (s.setCab k ((s.cab k).enter .offline)) := by
      refine if_pos ?_
      show ((s.setCab k ((s.cab k).enter .offline)).cab k).state = .offline
      rw [State.cab_setCab _ _ _ hk]
      rfl
    rw [changeState_eq u h rfl]
    dsimp only
    rw [unclaimed]
    split
    · exact releaseWarmer_nodes _ _
    · rw [if_neg (by simp [CabState.eligible])]
      rfl

theorem unroutes_bus (l : List Route) (s : State) : (l.foldl (fun t r => unrouteRack r.line r.tag t) s).bus = s.bus :=
  Hush.foldl (P := fun t => t.bus = s.bus)
    (fun r _ h => by
      unfold unrouteRack callRoute
      split <;> exact h) l rfl

theorem setConsumer_bus (c : Nat) (x : Consumer) (s : State) : (s.setConsumer c x).bus = s.bus := by
  unfold State.setConsumer
  dsimp only
  split <;> rfl

theorem enterOffline_nodes (k : Nat) (s : State) : (enterOffline k s).bus.nodes = s.bus.nodes := by
  have claims : (clearMeasured k (release k s)).bus = s.bus :=
    (setConsumer_bus k _ (release k s)).trans (setConsumer_bus k _ s)
  show (cancelRoutes k _).bus.nodes = _
  unfold cancelRoutes
  dsimp only
  rw [unroutes_bus]
  exact (changeState_offline_nodes k false _).trans (congrArg _ claims)

theorem returnPage_bus (id : Nat) (s : State) : (returnPage id s).bus = s.bus := by
  unfold returnPage
  split
  · rfl
  · split
    · exact endPage_bus _ _ _
    · dsimp only
      split
      · exact endPage_bus _ _ _
      · rfl

theorem baseLost_nodes (s : State) : (baseLost s).bus.nodes = s.bus.nodes := by
  have returned (ids : List Nat) : (forEach ids returnPage s).bus = s.bus :=
    Hush.forEach (P := fun t => t.bus = s.bus) (fun id _ h => (returnPage_bus id _).trans h) ids rfl
  refine (selectPass_nodes _).trans ?_
  show (forEach ((s.paging.pages.filter Page.atBase).map (·.id)) returnPage s).bus.nodes = _
  rw [returned]

/-! ### A line's conveyor (R94) -/

theorem setRunning_rest (l : Nat) (run : Bool) (s : State) :
    (setRunning l run s).bus = s.bus ∧ (setRunning l run s).power = s.power := by
  unfold setRunning
  dsimp only
  split <;> exact ⟨rfl, rfl⟩

theorem setRunning_line {l : Nat} (run : Bool) (hl : l < s.lines.length) :
    (setRunning l run s).line l = { s.line l with running := run } := by
  unfold setRunning
  dsimp only
  split
  · rename_i h
    rw [← h]
  · exact State.line_setLine _ _ _ hl

end Sys2Proof.Machine

namespace Sys2Proof.Certificates

open Sys2Proof.Machine

/-- Settles O49: the block that the node was bound to is told after the node's record is written. -/
theorem silenceExpiryLosesNode : Obligations.SilenceExpiryLosesNode := by
  intro a s live sized h1 h31 n
  refine ⟨fun h => (live_next _ live).trans (congrArg _ (if_neg h)), fun h => ?_⟩
  intro lost kept gone v ends
  have told : goLost a s = tellLost n.binding v := by
    show tellLost n.binding (raise .nodeLost a (typeCode n.type) n.binding.kindCode gone) = _
    have code : typeCode n.type = (match n.type with | none => 0xFF | some ty => ty.code) := by
      cases n.type <;> rfl
    exact congrArg (fun z => tellLost n.binding (raise .nodeLost a z n.binding.kindCode gone)) code
  have own : v.node a = lost := node_setNode _ h1 h31 sized.nodes
  have ended {w : State} (hw : tellLost n.binding v = w) (nodes : w.bus.nodes = v.bus.nodes) : ends w := by
    have lostW : goLost a s = w := told.trans hw
    refine ⟨lostW, finish w, (live_next _ live).trans ?_, rfl, ?_, finish_floor w, (node_congr nodes a).trans own⟩
    · rw [← lostW]
      exact congrArg _ (if_pos h)
    · rw [← lostW]
      exact (Ground.calm s).goLost a (Ground.refl s)
  have length : v.cabs.length = 24 := sized.cabs
  refine ⟨fun hb => ended (by rw [hb]; rfl) rfl, fun hb => ended (by rw [hb]; rfl) (baseLost_nodes v),
    fun l hl hb => ?_, fun k hk hb => ⟨fun hf => ?_, fun hf => ?_⟩⟩
  · intro x w
    obtain ⟨bus, power⟩ := setRunning_rest l false v
    refine ⟨ended ?_ (congrArg Bus.nodes ((setConsumer_bus _ _ w).trans bus)),
      setRunning_line false (by show l < s.lines.length; rw [sized.lines]; exact hl)⟩
    have claim : w.consumer (24 + l) = s.consumer (24 + l) := by
      unfold State.consumer
      rw [show w.power = s.power from power]
    rw [hb, ← claim]
    rfl
  · refine ended ?_ rfl
    rw [hb]
    exact if_pos hf
  · intro w
    refine ⟨ended ?_ (enterOffline_nodes k v), fun ho => enterOffline_cab k v (by rw [length]; exact hk) ho,
      enterOffline_consumer (by show k < s.power.consumers.length; rw [sized.consumers]; omega)⟩
    rw [hb]
    exact if_neg hf

end Sys2Proof.Certificates
end

section
/-! SUPPORT. CABINET_SET (R53, R68, R148): what a change of naming leaves of the nodes and the cabinets, which slot an
address is bound to, and the slot's record. -/

namespace Sys2Proof.Machine

variable {s t : State} {P : State → Prop}

/-! ### A change of naming (R148) -/

/-- Nodes may have been bound again and baselines unset: the cabinets, the power budget unit, and what every node is, stand. -/
structure Rebound (s t : State) : Prop where
  cabs : t.cabs = s.cabs
  power : t.power = s.power
  length : t.bus.nodes.length = s.bus.nodes.length
  presence : ∀ a, (t.node a).presence = (s.node a).presence
  type : ∀ a, (t.node a).type = (s.node a).type

theorem Rebound.refl (s : State) : Rebound s s := ⟨rfl, rfl, rfl, fun _ => rfl, fun _ => rfl⟩

theorem Rebound.setNode (h : Rebound s t) {a : Nat} {x : Node} (hp : x.presence = (t.node a).presence)
    (ht : x.type = (t.node a).type) : Rebound s (t.setNode a x) where
  cabs := h.cabs
  power := h.power
  length := List.length_set.trans h.length
  presence b := by
    rw [State.node_setNode_ite, ← h.presence b]
    split
    · rename_i e
      rw [hp]
      unfold State.node
      rw [e.1]
    · rfl
  type b := by
    rw [State.node_setNode_ite, ← h.type b]
    split
    · rename_i e
      rw [ht]
      unfold State.node
      rw [e.1]
    · rfl

theorem Rebound.bindNode (h : Rebound s t) (a : Nat) : Rebound s (bindNode a t) := by
  unfold Machine.bindNode
  extract_lets n b v
  have bound : Rebound s v := by
    show Rebound s (if b = .unbound then _ else _)
    split
    · have g := h.setNode (a := a) (x := { n with binding := .unbound, wanted := .nothing, wantedUrgent := false }) rfl rfl
      exact ⟨g.cabs, g.power, g.length, g.presence, g.type⟩
    · exact h.setNode rfl rfl
  split
  · exact ⟨bound.cabs, bound.power, bound.length, bound.presence, bound.type⟩
  · exact bound

theorem Rebound.renamed (h : Rebound s t) (a : Option Nat) : Rebound s (renamed a t) := by
  unfold Machine.renamed
  split
  · exact h
  · split
    · exact h.bindNode _
    · exact h

theorem Rebound.renameFrom (h : Rebound s t) (a b : Option Nat) : Rebound s (renameFrom a b t) := by
  unfold Machine.renameFrom
  split
  · exact h.renamed _
  · exact (h.renamed _).renamed _

theorem Rebound.unsetBaselines (h : Rebound s t) (a : Option Nat) : Rebound s (unsetBaselines a t) := by
  unfold Machine.unsetBaselines
  split
  · exact h
  · exact h.setNode rfl rfl

theorem Calm.renameFrom (h : Calm P) (a b : Option Nat) (hs : P s) : P (renameFrom a b s) := by
  unfold Machine.renameFrom
  split
  · exact h.renamed _ hs
  · exact h.renamed _ (h.renamed _ hs)

theorem Calm.unsetBaselines (h : Calm P) (a : Option Nat) (hs : P s) : P (unsetBaselines a s) := by
  unfold Machine.unsetBaselines
  split
  · exact hs
  · exact h.setNode _ _ hs

/-! ### Which slot a node is bound to -/

theorem cabNaming_eq_some {a k : Nat} (hk : k < s.cabs.length) (hn : (s.cab k).kind ≠ .empty ∧ (s.cab k).addr = some a)
    (alone : ∀ j, j < k → ¬((s.cab j).kind ≠ .empty ∧ (s.cab j).addr = some a)) : s.cabNaming a = some k := by
  have entry {j : Nat} (hj : j < s.cabs.length) : s.cabs[j] = s.cab j := by
    simp [State.cab, List.getD_eq_getElem?_getD, List.getElem?_eq_getElem hj]
  unfold State.cabNaming
  rw [List.findIdx?_eq_some_iff_getElem]
  refine ⟨hk, ?_, fun j hj => ?_⟩
  · rw [entry hk]
    simpa using hn
  · rw [entry (hj.trans hk)]
    simpa using alone j hj

/-- The type that the node of a slot's kind has (R148). -/
theorem matching_eq_cabinet {a k : Nat} (hn : s.cabNaming a = some k) (hk : (s.cab k).kind ≠ .empty)
    (ht : (s.node a).type = (s.cab k).kind.nodeType) : s.matching a = .cabinet k := by
  unfold State.matching Cab.isOven Cab.isWarmer
  rw [ht, hn]
  cases h : (s.cab k).kind with
  | empty => exact absurd h hk
  | oven => simp [CabKind.nodeType, h]
  | warmer => simp [CabKind.nodeType, h]

theorem bindNode_binding {a : Nat} (h1 : 1 ≤ a) (h31 : a ≤ 31) (hs : s.bus.nodes.length = 31) (hb : s.matching a ≠ .unbound) :
    ((bindNode a s).node a).binding = s.matching a := by
  unfold bindNode
  extract_lets n b v
  have own : (v.node a).binding = b := by
    show ((if b = .unbound then _ else _ : State).node a).binding = b
    rw [if_neg hb, node_setNode _ h1 h31 hs]
  split
  · exact own
  · exact own

/-! ### The slot's record -/

theorem setCab_setCab (s : State) (k : Nat) (x y : Cab) : (s.setCab k x).setCab k y = s.setCab k y := by
  unfold State.setCab State.withCabs
  rw [List.set_set]

/-- A slot that unloads before its record is written over (R10, R53). -/
theorem unload_setCab (k : Nat) (x r : Cab) (s : State) :
    (unload k s).setCab k x = (s.setCab k r).setCab k x ∨
      ∃ cls n, (unload k s).setCab k x = (transfer cls .inWarmer .clean n (s.setCab k r)).setCab k x := by
  unfold unload
  dsimp only
  split
  · exact .inl (setCab_setCab s k r x).symm
  · rename_i cls _
    refine .inr ⟨cls, (s.cab k).lotTotal, ?_⟩
    show (s.withWares _).withCabs ((s.cabs.set k _).set k x) = (s.withWares _).withCabs ((s.cabs.set k r).set k x)
    rw [List.set_set, List.set_set]
    rfl

/-- The notice and the routing passes of a slot whose state is another than before (R54, R89). -/
def placeNoticed (k : Nat) (old : CabState) (v : State) : State :=
  if (v.cab k).state = old then v else callRoutes (raise .cabinetState k (v.cab k).state.code old.code v)

theorem placeNoticed_beside (k : Nat) (old : CabState) (s : State) : Beside s (placeNoticed k old s) := by
  unfold placeNoticed
  split
  · exact Beside.refl s
  · have h := Beside.hush s
    exact h.callRoutes (h.raise _ _ _ _ (Beside.refl s))

theorem Hush.placeNoticed (h : Hush P) (k : Nat) (old : CabState) (hs : P s) : P (placeNoticed k old s) := by
  unfold Machine.placeNoticed
  split
  · exact hs
  · exact h.callRoutes (h.raise _ _ _ _ hs)

/-- A slot whose node suits it is OFF. -/
theorem placeCab_suits {k : Nat} {silent : Bool} (old : CabState) (h : s.cabSuits k = true)
    (hn : decide ((s.node ((s.cab k).addr.getD 0)).presence = .silent) = silent) :
    placeCab k old s =
      claimCab k false (placeNoticed k old (s.setCab k { s.cab k with state := .off, stale := silent })) := by
  subst hn
  have addr : ∃ a, (s.cab k).addr = some a := by
    unfold State.cabSuits at h
    cases e : (s.cab k).addr with
    | none => simp [e] at h
    | some a => exact ⟨a, rfl⟩
  obtain ⟨a, ha⟩ := addr
  unfold placeCab
  dsimp only
  rw [if_pos h, ha]
  rfl

/-- Any other slot stays OFFLINE, and its node's draw is gone. -/
theorem placeCab_unsuited {k : Nat} (old : CabState) (h : ¬s.cabSuits k = true) :
    placeCab k old s = claimCab k false (placeNoticed k old (clearMeasured k s)) := by
  unfold placeCab
  dsimp only
  rw [if_neg h]
  rfl

theorem cabSuits_iff (k : Nat) (s : State) :
    s.cabSuits k = true ↔ ∃ a, (s.cab k).addr = some a ∧ ((s.node a).presence = .present ∨ (s.node a).presence = .silent) ∧
      (s.cab k).kind ≠ .empty ∧ (s.node a).type = (s.cab k).kind.nodeType := by
  unfold State.cabSuits
  dsimp only
  cases h : (s.cab k).addr with
  | none => simp
  | some a => simp [answering_iff, and_assoc]

/-! ### The checks of CABINET_SET -/

theorem addrTaken_iff (k a : Nat) (s : State) :
    s.addrTaken k a = true ↔ ∃ j, j < 24 ∧ j ≠ k ∧ (s.cab j).kind ≠ .empty ∧ (s.cab j).addr = some a := by
  simp [State.addrTaken, and_assoc]

theorem slotBooked_iff (k : Nat) (s : State) :
    s.slotBooked k = true ↔ ∃ c ∈ s.courses, c.state ≠ .empty ∧ ∃ b, c.batch = some b ∧ b.oven = k := by
  unfold State.slotBooked
  rw [List.any_eq_true]
  refine exists_congr fun c => and_congr_right fun _ => ?_
  cases c.batch <;> simp

theorem cabinetSetBody_eq (k : Nat) (q : CabKind) (a : CabinetArgs) (s : State) :
    cabinetSetBody k q.code a s = checked
      [(decide (k < 24) && cabinetArgsOk q a, .range), (decide (q = .empty) || !s.addrTaken k a.addr, .conflict),
        (inDay s [.opening] && decide ((s.cab k).state ≠ .fault) && !s.slotBooked k, .badState)]
      (fun s => okWith [] (finish (configureCab k q a s))) s := by
  cases q <;> rfl

/-- The ranges of the given fields (R52, R53). -/
def CabKind.Fits (q : CabKind) (a : CabinetArgs) : Prop :=
  let common := 1 ≤ a.addr ∧ a.addr ≤ 31 ∧ 60 ≤ a.setpoint ∧ 2 ≤ a.band ∧ a.band ≤ 20 ∧ 1 ≤ a.heat ∧ a.heat ≤ 400 ∧
    1 ≤ a.hold ∧ a.hold ≤ a.heat
  match q with
  | .empty => True
  | .oven => common ∧ a.setpoint ≤ 250 ∧ a.standby = 0 ∧ 1 ≤ a.shelves ∧ a.shelves ≤ 20
  | .warmer => common ∧ a.setpoint ≤ 95 ∧ a.standby ≤ a.hold ∧ (a.cls < 8 ∨ a.cls = 0xFF) ∧ 1 ≤ a.capacity ∧
      a.capacity ≤ 600 ∧ (a.idle = 0 ∨ 60 ≤ a.idle ∧ a.idle ≤ 3600)

theorem cabinetArgsOk_iff (q : CabKind) (a : CabinetArgs) : cabinetArgsOk q a = true ↔ q.Fits a := by
  cases q with
  | empty => simp [cabinetArgsOk, CabKind.Fits]
  | oven =>
    simp only [cabinetArgsOk, CabKind.Fits, Bool.and_eq_true, within_iff, withinTemp_iff, decide_eq_true_eq]
    omega
  | warmer =>
    simp only [cabinetArgsOk, CabKind.Fits, Bool.and_eq_true, Bool.or_eq_true, within_iff, withinTemp_iff,
      decide_eq_true_eq]
    omega

theorem CabKind.Fits.addr {q : CabKind} {a : CabinetArgs} (h : q.Fits a) (hq : q ≠ .empty) : 1 ≤ a.addr ∧ a.addr ≤ 31 := by
  cases q with
  | empty => exact absurd rfl hq
  | oven =>
    obtain ⟨⟨h1, h31, -⟩, -⟩ := h
    exact ⟨h1, h31⟩
  | warmer =>
    obtain ⟨⟨h1, h31, -⟩, -⟩ := h
    exact ⟨h1, h31⟩

/-- The node answers and is of the kind's type (R53). -/
def CabKind.Suits (q : CabKind) (n : Node) : Prop :=
  (n.presence = .present ∨ n.presence = .silent) ∧
    match q with
    | .empty => False
    | .oven => n.type = some .oven
    | .warmer => n.type = some .warmer

theorem CabKind.suits_iff (q : CabKind) (n : Node) :
    q.Suits n ↔ (n.presence = .present ∨ n.presence = .silent) ∧ q ≠ .empty ∧ n.type = q.nodeType := by
  cases q <;> simp [CabKind.Suits, CabKind.nodeType]

/-! ### The slot written, its naming changed, its node's baselines unset -/

/-- CABINET_SET before the slot's state is placed. -/
def reconfigured (k : Nat) (q : CabKind) (a : CabinetArgs) (s : State) : State :=
  let named := (unload k s).setCab k (newCab q a)
  unsetBaselines (newCab q a).addr
    (if (s.cab k).addr = (newCab q a).addr ∧ (s.cab k).kind = (newCab q a).kind then named
     else renameFrom (s.cab k).addr (newCab q a).addr named)

theorem configureCab_eq (k : Nat) (q : CabKind) (a : CabinetArgs) (s : State) :
    configureCab k q a s = placeCab k (s.cab k).state (reconfigured k q a s) := rfl

variable {k : Nat} {q : CabKind} {a : CabinetArgs}

theorem reconfigured_rebound (k : Nat) (q : CabKind) (a : CabinetArgs) (s : State) :
    Rebound ((unload k s).setCab k (newCab q a)) (reconfigured k q a s) := by
  refine Rebound.unsetBaselines ?_ _
  split
  · exact Rebound.refl _
  · exact (Rebound.refl _).renameFrom _ _

theorem reconfigured_cab (hk : k < s.cabs.length) : (reconfigured k q a s).cab k = newCab q a := by
  rw [cab_congr (reconfigured_rebound k q a s).cabs]
  exact State.cab_setCab _ _ _ (by rw [unload_length]; exact hk)

theorem unload_bus (k : Nat) (s : State) : (unload k s).bus = s.bus := by
  unfold unload
  dsimp only
  split <;> rfl

theorem reconfigured_consumer (k c : Nat) (q : CabKind) (a : CabinetArgs) (s : State) :
    (reconfigured k q a s).consumer c = s.consumer c := by
  unfold State.consumer
  rw [(reconfigured_rebound k q a s).power, State.setCab_power, unload_power]

theorem named_node (k : Nat) (x : Cab) (s : State) (b : Nat) : ((unload k s).setCab k x).node b = s.node b :=
  node_congr (congrArg Bus.nodes (unload_bus k s)) b

theorem reconfigured_node (k : Nat) (q : CabKind) (a : CabinetArgs) (s : State) (b : Nat) :
    ((reconfigured k q a s).node b).presence = (s.node b).presence ∧
      ((reconfigured k q a s).node b).type = (s.node b).type := by
  have h := reconfigured_rebound k q a s
  rw [h.presence, h.type, named_node]
  exact ⟨rfl, rfl⟩

/-- From the slot so written, nothing but what an event may change (R148). -/
theorem Calm.reconfigured (h : Calm P) {r : Cab} (hk : k < s.cabs.length) (hr : CabConfig r (newCab q a))
    (hs : P (s.setCab k r)) : P (reconfigured k q a s) := by
  have named : P ((unload k s).setCab k (newCab q a)) := by
    have own : (s.setCab k r).cab k = r := State.cab_setCab _ _ _ hk
    obtain e | ⟨cls, n, e⟩ := unload_setCab k (newCab q a) r s
    · rw [e]
      exact h.setCab k _ (by rw [own]; exact hr) hs
    · rw [e]
      exact h.setCab k _ (by
        show CabConfig ((s.setCab k r).cab k) _
        rw [own]
        exact hr) (h.plates _ _ _ _ hs)
  refine h.unsetBaselines _ ?_
  split
  · exact named
  · exact h.renameFrom _ _ named

theorem newCab_addr (hq : q ≠ .empty) : (newCab q a).addr = some a.addr := by
  cases q with
  | empty => exact absurd rfl hq
  | oven => rfl
  | warmer => rfl

theorem newCab_kind (q : CabKind) (a : CabinetArgs) : (newCab q a).kind = q := by cases q <;> rfl

theorem newCab_state (q : CabKind) (a : CabinetArgs) : (newCab q a).state = .offline := by cases q <;> rfl

theorem reconfigured_suits (hk : k < s.cabs.length) :
    (reconfigured k q a s).cabSuits k = true ↔ q.Suits (s.node a.addr) := by
  rw [cabSuits_iff, reconfigured_cab hk, newCab_kind, CabKind.suits_iff]
  by_cases hq : q = .empty
  · simp [hq]
  · simp [newCab_addr hq, reconfigured_node]

theorem unsetBaselines_node {b : Nat} (h1 : 1 ≤ b) (h31 : b ≤ 31) (hs : s.bus.nodes.length = 31) :
    ((unsetBaselines (some b) s).node b).loadBase = none ∧ ((unsetBaselines (some b) s).node b).drawBase = none := by
  have own := node_setNode { s.node b with loadBase := none, drawBase := none } h1 h31 hs
  constructor
  · exact congrArg Node.loadBase own
  · exact congrArg Node.drawBase own

theorem reconfigured_baselines (hq : q ≠ .empty) (hs : Sized s) (h1 : 1 ≤ a.addr) (h31 : a.addr ≤ 31) :
    ((reconfigured k q a s).node a.addr).loadBase = none ∧ ((reconfigured k q a s).node a.addr).drawBase = none := by
  unfold reconfigured
  extract_lets named
  rw [newCab_addr hq]
  refine unsetBaselines_node h1 h31 ?_
  have renamed : Rebound named (if (s.cab k).addr = some a.addr ∧ (s.cab k).kind = (newCab q a).kind then named
      else renameFrom (s.cab k).addr (some a.addr) named) := by
    split
    · exact Rebound.refl _
    · exact (Rebound.refl _).renameFrom _ _
  rw [renamed.length, State.setCab_bus, unload_bus, hs.nodes]

/-- The node that answers at a slot's new address, or at the address of a slot of a new kind, is bound to the slot. -/
theorem reconfigured_binding (hk : k < 24) (hs : Sized s) (h1 : 1 ≤ a.addr) (h31 : a.addr ≤ 31) (hq : q ≠ .empty)
    (answers : (s.node a.addr).presence = .present ∨ (s.node a.addr).presence = .silent)
    (type : (s.node a.addr).type = q.nodeType)
    (alone : ∀ j, j < 24 → j ≠ k → ¬((s.cab j).kind ≠ .empty ∧ (s.cab j).addr = some a.addr))
    (changed : ¬((s.cab k).addr = (newCab q a).addr ∧ (s.cab k).kind = (newCab q a).kind)) :
    ((reconfigured k q a s).node a.addr).binding = .cabinet k := by
  have bound (t : State) (h : Rebound ((unload k s).setCab k (newCab q a)) t) :
      ((renamed (some a.addr) t).node a.addr).binding = .cabinet k := by
    have cab (j : Nat) : t.cab j = ((unload k s).setCab k (newCab q a)).cab j := cab_congr h.cabs j
    have lengths : t.cabs.length = 24 := by rw [h.cabs, State.setCab_cabs, List.length_set, unload_length, hs.cabs]
    have own : t.cab k = newCab q a := by
      rw [cab]
      exact State.cab_setCab _ _ _ (by rw [unload_length, hs.cabs]; exact hk)
    have others (j : Nat) (hj : j ≠ k) : t.cab j = s.cab j := by
      rw [cab, State.cab_setCab_other _ _ _ _ hj, unload_cab_other hj]
    have node : (t.node a.addr).presence = (s.node a.addr).presence ∧ (t.node a.addr).type = (s.node a.addr).type := by
      rw [h.presence, h.type, named_node]
      exact ⟨rfl, rfl⟩
    have naming : t.cabNaming a.addr = some k := by
      refine cabNaming_eq_some (by rw [lengths]; exact hk) (by rw [own, newCab_kind]; exact ⟨hq, newCab_addr hq⟩) fun j hj => ?_
      rw [others j (by omega)]
      exact alone j (by omega) (by omega)
    have matched : t.matching a.addr = .cabinet k := matching_eq_cabinet naming (by rw [own, newCab_kind]; exact hq)
      (by rw [own, newCab_kind, node.2]; exact type)
    have made : renamed (some a.addr) t = bindNode a.addr t :=
      if_pos ((answering_iff _).2 (by rw [node.1]; exact answers))
    rw [made, bindNode_binding h1 h31 (by rw [h.length, State.setCab_bus, unload_bus, hs.nodes]) (by rw [matched]; simp),
      matched]
  have kept (t : State) (h : ((t.node a.addr).binding = .cabinet k)) :
      ((unsetBaselines (some a.addr) t).node a.addr).binding = .cabinet k := by
    show ((t.setNode a.addr _).node a.addr).binding = _
    rw [State.node_setNode_ite]
    split
    · exact h
    · exact h
  unfold reconfigured
  dsimp only
  rw [if_neg changed, newCab_addr hq]
  refine kept _ ?_
  unfold renameFrom
  split
  · exact bound _ (Rebound.refl _)
  · exact bound _ ((Rebound.refl _).renamed _)

end Sys2Proof.Machine

namespace Sys2Proof.Certificates

open Sys2Proof.Machine

/-- CABINET_SET placed: what the command answers, once its slot stands as `r` and `v` is left to be noticed. -/
theorem cabinetSet_placed {p : Port} {k : Nat} {q : CabKind} {a : CabinetArgs} {s : State}
    (ha : Admitted (.cabinetSet p k q.code a) p s) (sized : Sized s) (hk : k < 24) (fits : q.Fits a) {v : State} {r : Cab}
    (checks : firstFailure [(decide (k < 24) && cabinetArgsOk q a, .range),
      (decide (q = .empty) || !(before (.cabinetSet p k q.code a) p s).addrTaken k a.addr, .conflict),
      (inDay (before (.cabinetSet p k q.code a) p s) [.opening] &&
        decide (((before (.cabinetSet p k q.code a) p s).cab k).state ≠ .fault) &&
        !(before (.cabinetSet p k q.code a) p s).slotBooked k, .badState)] = none)
    (place : let u := before (.cabinetSet p k q.code a) p s
      placeCab k (u.cab k).state (reconfigured k q a u) = claimCab k false (placeNoticed k (u.cab k).state v))
    (own : v.cab k = r) (config : CabConfig r (newCab q a))
    (left : ∀ {P : State → Prop}, Calm P → P (reconfigured k q a (before (.cabinetSet p k q.code a) p s)) → P v)
    (bus : v.bus = (reconfigured k q a (before (.cabinetSet p k q.code a) p s)).bus) :
    let i := Instr.cabinetSet p k q.code a
    let u := before i p s
    let w := claimCab k false (placeNoticed k (u.cab k).state v)
    ∃ t, Executes i p s [] t ∧ t = finish w ∧ w.cab k = r ∧ Ground (u.setCab k r) w ∧ Floor w t ∧
      (q ≠ .empty → (w.node a.addr).loadBase = none ∧ (w.node a.addr).drawBase = none) := by
  intro i u w
  have sizedU : Sized u := sized.before i p
  refine ⟨finish w, ?_, rfl, ?_, ?_, finish_floor w, fun hq => ?_⟩
  · refine Executes.of_checks rfl ha (cabinetSetBody_eq k q a u) checks ?_
    show okWith [] (finish (configureCab k q a u)) = _
    rw [configureCab_eq, place]
  · rw [claimCab_cab, cab_congr (placeNoticed_beside _ _ _).cabs, own]
  · have calm := Ground.calm (u.setCab k r)
    exact calm.claimCab _ _ (calm.placeNoticed _ _ (left calm (calm.reconfigured (by rw [sizedU.cabs]; exact hk) config
      (Ground.refl _))))
  · obtain ⟨h1, h31⟩ := fits.addr hq
    have noticed : NodeKeeps (v.node a.addr) (w.node a.addr) := by
      have h := Floor.stable v
      exact (h.claimCab _ _ (h.placeNoticed _ _ (Floor.refl v))).bus.nodes (State.nodeIdx a.addr)
    rw [noticed.loadBase, noticed.drawBase, node_congr (congrArg Bus.nodes bus)]
    exact reconfigured_baselines hq sizedU h1 h31

/-- CABINET_SET (R53), with the slot that is written as `newCab` has it. -/
theorem cabinetSet_clauses (p : Port) (k : Nat) (q : CabKind) (a : CabinetArgs) (s : State)
    (ha : Admitted (.cabinetSet p k q.code a) p s) (sized : Sized s) :
    let i := Instr.cabinetSet p k q.code a
    let u := before i p s
    let old := u.cab k
    let good := k < 24 ∧ q.Fits a
    let taken := q ≠ .empty ∧ ∃ j, j < 24 ∧ j ≠ k ∧ (s.cab j).kind ≠ .empty ∧ (s.cab j).addr = some a.addr
    let busy := s.day.state ≠ .opening ∨ (s.cab k).state = .fault ∨
      ∃ c ∈ s.courses, c.state ≠ .empty ∧ ∃ b, c.batch = some b ∧ b.oven = k
    let n := s.node a.addr
    let given := newCab q a
    let clean := reconfigured k q a u
    let placed := fun (r : Cab) (v : State) =>
      let w := claimCab k false (placeNoticed k old.state v)
      ∃ t, Executes i p s [] t ∧ t = finish w ∧ w.cab k = r ∧ Ground (u.setCab k r) w ∧ Floor w t ∧
        (q ≠ .empty → (w.node a.addr).loadBase = none ∧ (w.node a.addr).drawBase = none)
    let off := { given with state := .off, stale := decide (n.presence = .silent) }
    (good → ¬taken → ¬busy →
      (q.Suits n → placed off (clean.setCab k off) ∧
        (¬(old.addr = given.addr ∧ old.kind = given.kind) → (clean.node a.addr).binding = .cabinet k)) ∧
        (¬q.Suits n → placed given (callCheck (clean.setConsumer k { u.consumer k with measured := 0, lastReport := none })))) ∧
      (¬good → RefusedWith i p s .range) ∧ (good → taken → RefusedWith i p s .conflict) ∧
      (good → ¬taken → busy → RefusedWith i p s .badState) := by
  intro i u old good taken busy n given clean placed off
  have body := cabinetSetBody_eq k q a u
  have sizedU : Sized u := sized.before i p
  have range : (decide (k < 24) && cabinetArgsOk q a) = true ↔ good := by
    rw [Bool.and_eq_true, decide_eq_true_eq, cabinetArgsOk_iff]
  have free : (decide (q = .empty) || !u.addrTaken k a.addr) = true ↔ ¬taken := by
    have other : u.addrTaken k a.addr = true ↔
        ∃ j, j < 24 ∧ j ≠ k ∧ (s.cab j).kind ≠ .empty ∧ (s.cab j).addr = some a.addr := by
      rw [addrTaken_iff]
      simp only [u, before_cab]
    rw [Bool.or_eq_true, decide_eq_true_eq, Bool.not_eq_true', ← Bool.not_eq_true, other]
    show _ ↔ ¬(¬(q = .empty) ∧ _)
    rw [not_and, ← or_iff_not_imp_left]
  have idle : (inDay u [.opening] && decide ((u.cab k).state ≠ .fault) && !u.slotBooked k) = true ↔ ¬busy := by
    rw [Bool.and_eq_true, Bool.and_eq_true, decide_eq_true_eq, Bool.not_eq_true', ← Bool.not_eq_true, slotBooked_iff,
      inDay_opening, decide_eq_true_eq]
    simp only [u, before_day, before_cab, before_courses]
    show _ ↔ ¬(¬(_ = _) ∨ _ ∨ _)
    rw [not_or, not_or, not_not, and_assoc]
  have pass (hg : good) (ht : ¬taken) (hb : ¬busy) := (firstFailure_tail (st := .range) (range.2 hg)).trans
    ((firstFailure_tail (st := .conflict) (free.2 ht)).trans (firstFailure_tail (st := .badState) (c := []) (idle.2 hb)))
  have slot (hg : good) : k < u.cabs.length := by rw [sizedU.cabs]; exact hg.1
  have node : u.node a.addr = n := before_node _ _ _ _
  refine ⟨fun hg ht hb => ⟨fun hs => ⟨?_, fun changed => ?_⟩, fun hs => ?_⟩, fun hg => ?_, fun hg ht => ?_, fun hg ht hb => ?_⟩
  · have own : clean.cab k = given := reconfigured_cab (slot hg)
    have hq : q ≠ .empty := ((CabKind.suits_iff q n).1 hs).2.1
    refine cabinetSet_placed ha sized hg.1 hg.2 (pass hg ht hb) ?_ ?_ (by constructor <;> rfl) (fun calm hP => ?_) rfl
    · intro u
      have silent : decide ((clean.node ((clean.cab k).addr.getD 0)).presence = .silent) = decide (n.presence = .silent) := by
        simp only [own, given, newCab_addr hq, Option.getD_some, clean, reconfigured_node, node]
      rw [placeCab_suits _ ((reconfigured_suits (slot hg)).2 (by rw [node]; exact hs)) silent, own]
    · exact State.cab_setCab _ _ _ (by
        show k < (reconfigured k q a u).cabs.length
        rw [(reconfigured_rebound k q a u).cabs, State.setCab_cabs, List.length_set, unload_length]
        exact slot hg)
    · exact calm.setCab k _ (by rw [show (reconfigured k q a u).cab k = given from own]; constructor <;> rfl) hP
  · obtain ⟨answers, hq, type⟩ := (CabKind.suits_iff q n).1 hs
    obtain ⟨h1, h31⟩ := hg.2.addr hq
    refine reconfigured_binding hg.1 sizedU h1 h31 hq (by rw [node]; exact answers) (by rw [node]; exact type)
      (fun j hj hne named => ?_) changed
    simp only [u, before_cab] at named
    exact ht ⟨hq, j, hj, hne, named⟩
  · refine cabinetSet_placed ha sized hg.1 hg.2 (pass hg ht hb) ?_ ?_ (CabConfig.refl _) (fun calm hP => ?_) ?_
    · intro u
      rw [placeCab_unsuited _ (mt (reconfigured_suits (slot hg)).1 (by rw [node]; exact hs))]
      unfold clearMeasured
      rw [reconfigured_consumer]
    · show (clean.setConsumer k _).cab k = given
      rw [cab_congr (setConsumer_cabs _ _ _)]
      exact reconfigured_cab (slot hg)
    · exact calm.callCheck (calm.setConsumer _ _ hP)
    · exact setConsumer_bus _ _ _
  · exact RefusedWith.of_checks rfl ha body (firstFailure_head (Bool.eq_false_iff.2 (mt range.1 hg)))
  · exact RefusedWith.of_checks rfl ha body ((firstFailure_tail (range.2 hg)).trans
      (firstFailure_head (Bool.eq_false_iff.2 fun h => free.1 h ht)))
  · exact RefusedWith.of_checks rfl ha body ((firstFailure_tail (range.2 hg)).trans ((firstFailure_tail (free.2 ht)).trans
      (firstFailure_head (Bool.eq_false_iff.2 fun h => idle.1 h hb))))

/-- Settles O24: for each kind, the slot written out is the model's. -/
theorem cabinetSetConfiguresSlot : Obligations.CabinetSetConfiguresSlot := by
  intro p k q a s ha sized
  cases q with
  | empty => exact cabinetSet_clauses p k .empty a s ha sized
  | oven => exact cabinetSet_clauses p k .oven a s ha sized
  | warmer => exact cabinetSet_clauses p k .warmer a s ha sized

end Sys2Proof.Certificates
end

section
/-! SUPPORT. Poll timers, discovery and poll classes (R74, R146, R155, R156). -/

namespace Sys2Proof.Machine

variable {s : State}

/-! ### The transaction list and the transaction in flight -/

theorem queued_iff (b : Bus) (x : Tx) : b.queued x = true ↔ x ∈ b.urgent ++ b.fetch ++ b.ordinary := by
  simp [Bus.queued, Bus.waits]

theorem isInFlight_iff (b : Bus) (x : Tx) : b.isInFlight x = true ↔ ∃ f, b.inflight = some f ∧ f.tx = x := by
  unfold Bus.isInFlight
  cases b.inflight <;> simp

theorem isIdentify_eq_false_iff (x : Tx) : x.isIdentify = false ↔ ∀ a, x ≠ .identify a := by
  cases x <;> simp [Tx.isIdentify]

theorem identifyFree_iff (b : Bus) :
    b.identifyFree = true ↔
      (∀ x ∈ b.urgent ++ b.fetch ++ b.ordinary, ∀ a, x ≠ .identify a) ∧
        ∀ f, b.inflight = some f → ∀ a, f.tx ≠ .identify a := by
  have list : (!(b.urgent.any Tx.isIdentify || b.fetch.any Tx.isIdentify || b.ordinary.any Tx.isIdentify)) = true ↔
      ∀ x ∈ b.urgent ++ b.fetch ++ b.ordinary, ∀ a, x ≠ .identify a := by
    rw [← List.any_append, ← List.any_append, Bool.not_eq_true', List.any_eq_false]
    exact forall₂_congr fun x _ => by rw [Bool.not_eq_true, isIdentify_eq_false_iff]
  unfold Bus.identifyFree
  rw [Bool.and_eq_true, list]
  refine and_congr_right fun _ => ?_
  cases b.inflight with
  | none => simp
  | some f => simp [isIdentify_eq_false_iff]

/-! ### A poll timer's end (R155, R156) -/

theorem pollTimerExpiry_none {a : Nat} (h : (s.node a).pollEnd = none) : pollTimerExpiry a s = s := by
  unfold pollTimerExpiry
  rw [h]

theorem pollTimerExpiry_some {a e : Nat} (h : (s.node a).pollEnd = some e) :
    pollTimerExpiry a s =
      let v := (s.withDay { s.day with ms := max s.day.ms e }).setNode a { s.node a with pollEnd := none }
      if s.bus.isInFlight (.poll a) then v else queuePoll a v := by
  unfold pollTimerExpiry
  rw [h]
  rfl

/-- A POLL that is neither queued nor in flight is queued by the node's fetch-ahead flag. -/
theorem queuePoll_eq {a : Nat} (h : ¬s.bus.queued (.poll a) = true) :
    queuePoll a s =
      if (s.node a).fetchAhead then s.withBus { s.bus with fetch := s.bus.fetch ++ [.poll a] }
      else s.withBus { s.bus with ordinary := s.bus.ordinary ++ [.poll a] } := if_neg h

/-! ### Discovery (R146) -/

/-- The address that lies `j` past the discovery pointer, cyclically. -/
def Bus.discAddress (b : Bus) (j : Nat) : Nat := (b.discPtr - 1 + j) % 31 + 1

theorem discoveryStep_none (h : ∀ j, j < 31 → (s.node (s.bus.discAddress j)).presence = .present) : discoveryStep s = s := by
  have none : s.nextUnknown = none := by
    unfold State.nextUnknown
    rw [List.find?_eq_none]
    intro a ha
    obtain ⟨j, hj, rfl⟩ := List.mem_map.1 ha
    simpa [Bus.discAddress] using h j (List.mem_range.1 hj)
  unfold discoveryStep
  rw [none]

theorem discoveryStep_some {j : Nat} (hj : j < 31) (h : (s.node (s.bus.discAddress j)).presence ≠ .present)
    (before : ∀ i, i < j → (s.node (s.bus.discAddress i)).presence = .present) :
    discoveryStep s = s.withBus { s.bus with
      ordinary := s.bus.ordinary ++ [.identify (s.bus.discAddress j)], discPtr := s.bus.discAddress j % 31 + 1 } := by
  have found : s.nextUnknown = some (s.bus.discAddress j) := by
    unfold State.nextUnknown
    rw [List.find?_map, List.find?_range_eq_some.2 ⟨by simpa [Bus.discAddress] using h, List.mem_range.2 hj,
      fun i hi => by simpa [Bus.discAddress] using before i hi⟩]
    rfl
  unfold discoveryStep
  rw [found]
  rfl

/-! ### Poll classes (R74, R155) -/

/-- The class of a node is judged by its binding and by the blocks' records. -/
theorem classOf_setNode {a b : Nat} {x : Node} (hx : x.binding = (s.node b).binding) :
    (s.setNode b x).classOf a = s.classOf a := by
  have binding : ((s.setNode b x).node a).binding = (s.node a).binding := by
    rw [State.node_setNode_ite]
    split
    · rename_i e
      rw [hx]
      unfold State.node
      rw [e.1]
    · rfl
  unfold State.classOf
  rw [binding]
  rfl

theorem classOf_retimed {a b : Nat} {c : PollClass} {e : Option Nat} :
    (s.setNode b { s.node b with pollClass := c, pollEnd := e }).classOf a = s.classOf a := classOf_setNode rfl

/-- An answering node has the class that its block gives it. -/
def Classed (a : Nat) (s : State) : Prop :=
  1 ≤ a → a ≤ 31 → (s.node a).answering = true → (s.node a).pollClass = s.classOf a

theorem Classed.withCalls {a : Nat} {x : Calls} (h : Classed a s) : Classed a (s.withCalls x) := h

theorem refreshPoll_length (a : Nat) (s : State) : (refreshPoll a s).bus.nodes.length = s.bus.nodes.length := by
  unfold refreshPoll
  dsimp only
  split
  · exact List.length_set
  · rfl

theorem refreshPoll_own {a : Nat} (hs : s.bus.nodes.length = 31) : Classed a (refreshPoll a s) := by
  intro h1 h31
  unfold refreshPoll
  dsimp only
  split
  · intro _
    rw [node_setNode _ h1 h31 hs, classOf_retimed]
  · rename_i h
    intro ha
    simpa [ha] using h

theorem refreshPoll_other {k j : Nat} (hj : j ≠ k) (h : Classed j s) : Classed j (refreshPoll k s) := by
  intro h1 h31
  unfold refreshPoll
  dsimp only
  split
  · have apart : ¬(State.nodeIdx j = State.nodeIdx k ∧ State.nodeIdx k < s.bus.nodes.length) := by
      unfold State.nodeIdx
      split <;> split <;> omega
    rw [State.node_setNode_ite, if_neg apart, classOf_retimed]
    exact h h1 h31
  · exact h h1 h31

theorem refreshPolls_classed {a : Nat} (hs : s.bus.nodes.length = 31) (h1 : 1 ≤ a) (h31 : a ≤ 31) :
    Classed a (refreshPolls s) :=
  forEach_establishes (Inv := fun t => t.bus.nodes.length = 31) (Q := Classed) (D := fun _ => True)
    (fun k _ ht => (refreshPoll_length k _).trans ht) (fun _ _ _ ht => refreshPoll_own ht)
    (fun _ _ _ hj hq => refreshPoll_other hj hq) _ hs a trivial
    (.inl (List.mem_map.2 ⟨a - 1, List.mem_range.2 (by omega), by omega⟩))

/-- Once a step has ended, an answering node has its present class (R155). -/
theorem finish_classed {a : Nat} (hs : Sized s) (h1 : 1 ≤ a) (h31 : a ≤ 31) : Classed a (finish s) := by
  have h := Floor.stable s
  have e : finish s = (refreshPolls (forEach (List.range 24) sleepSync
      (conveyorSync false 1 (conveyorSync false 0 (settle settleRounds s))))).withCalls Calls.none := rfl
  have floor : Floor s (conveyorSync false 1 (conveyorSync false 0 (settle settleRounds s))) :=
    h.conveyorSync false 1 (h.conveyorSync false 0 (h.settle settleRounds (Floor.refl s)))
  rw [e]
  generalize conveyorSync false 1 (conveyorSync false 0 (settle settleRounds s)) = v at floor
  have sized := (Hush.forEach (fun k _ => h.sleepSync k) (List.range 24) floor).sizes hs
  exact (refreshPolls_classed sized.nodes h1 h31).withCalls

theorem cabPollClass_eq (k : Nat) (s : State) :
    s.cabPollClass k =
      if (s.cab k).kind = .oven ∧ (s.cab k).state ≠ .fault ∧
            (∃ b ∈ (s.cab k).batches, b.state = .cooking ∨ b.state = .done) ∨
          (s.cab k).kind = .warmer ∧ ∃ e ∈ s.earmarks, e.cab = k ∧ (s.cab k).cls = some (s.course e.course).cls ∧
            ((s.course e.course).state = .ready ∨ (s.course e.course).state = .plating) then .fast
      else if (s.cab k).state = .off ∨ (s.cab k).state = .offline then .slow else .normal := by
  unfold State.cabPollClass
  refine if_congr ?_ rfl rfl
  rw [Bool.or_eq_true, Bool.and_eq_true, Bool.and_eq_true, Bool.and_eq_true, serving_isSome_iff]
  simp [Cab.isOven, Cab.isWarmer, and_assoc]

theorem linePollClass_eq (x : Line) : x.pollClass = if x.inside ≠ [] ∨ x.running = true then .fast else .normal := by
  unfold Line.pollClass
  refine if_congr ?_ rfl rfl
  simp

theorem basePollClass_eq (g : Paging) :
    g.basePollClass =
      if ∃ q ∈ g.pages, q.inDelivery = true ∨ q.state = .handed ∨ q.state = .sent then .fast else .normal := by
  unfold Paging.basePollClass
  refine if_congr ?_ rfl rfl
  simp [or_assoc]

end Sys2Proof.Machine

namespace Sys2Proof.Certificates

open Sys2Proof.Machine

/-- A poll timer's end (R155, R156). -/
theorem pollTimer_clauses (a : Nat) (s : State) (live : s.day.resetLow = false) :
    let b := s.bus
    let list := b.urgent ++ b.fetch ++ b.ordinary
    let n := s.node a
    1 ≤ a → a ≤ 31 → s.bus.nodes.length = 31 →
    (n.pollEnd = none → exec (.pollTimerExpiry a) s = .next s) ∧
      ∀ e, n.pollEnd = some e →
        let v := (s.withDay { s.day with ms := max s.day.ms e }).setNode a { n with pollEnd := none }
        let held := .poll a ∈ list ∨ ∃ f, b.inflight = some f ∧ f.tx = .poll a
        (held → exec (.pollTimerExpiry a) s = .next v) ∧
          (¬held → n.fetchAhead = true →
            exec (.pollTimerExpiry a) s = .next (v.withBus { v.bus with fetch := v.bus.fetch ++ [.poll a] })) ∧
          (¬held → n.fetchAhead = false →
            exec (.pollTimerExpiry a) s = .next (v.withBus { v.bus with ordinary := v.bus.ordinary ++ [.poll a] })) := by
  intro b list n h1 h31 length
  have run : exec (.pollTimerExpiry a) s = .next (pollTimerExpiry a s) := live_next _ live
  refine ⟨fun h => run.trans (congrArg _ (pollTimerExpiry_none h)), fun e h => ?_⟩
  intro v held
  have ended := pollTimerExpiry_some h
  have queued : v.bus.queued (.poll a) = true ↔ .poll a ∈ list := queued_iff b _
  have own : v.node a = { n with pollEnd := none } :=
    node_setNode (s := s.withDay { s.day with ms := max s.day.ms e }) _ h1 h31 length
  have flag : (v.node a).fetchAhead = n.fetchAhead := by rw [own]
  have unheld (hh : ¬held) : pollTimerExpiry a s =
      if (v.node a).fetchAhead then v.withBus { v.bus with fetch := v.bus.fetch ++ [.poll a] }
      else v.withBus { v.bus with ordinary := v.bus.ordinary ++ [.poll a] } :=
    ended.trans ((if_neg fun hi => hh (.inr ((isInFlight_iff _ _).1 hi))).trans
      (queuePoll_eq fun hq => hh (.inl (queued.1 hq))))
  refine ⟨fun hh => run.trans (congrArg _ (ended.trans ?_)), fun hh hf => run.trans (congrArg _ ((unheld hh).trans
    (if_pos (flag.trans hf)))), fun hh hf => run.trans (congrArg _ ((unheld hh).trans (if_neg (by rw [flag, hf]; decide))))⟩
  by_cases hi : s.bus.isInFlight (.poll a) = true
  · exact if_pos hi
  · refine (if_neg hi).trans (if_pos (queued.2 (hh.resolve_right fun h => hi ((isInFlight_iff _ _).2 h))))

/-- A discovery step, at the timer's end and in OPENING (R146). -/
theorem discovery_clauses (s : State) (live : s.day.resetLow = false) :
    let b := s.bus
    let list := b.urgent ++ b.fetch ++ b.ordinary
    let placeFree := (∀ x ∈ list, ∀ a, x ≠ .identify a) ∧ ∀ f, b.inflight = some f → ∀ a, f.tx ≠ .identify a
    let address := fun j => (b.discPtr - 1 + j) % 31 + 1
    let steps := fun (i : Instr) (v : State) =>
      (¬placeFree → exec i s = .next v) ∧
        ((∀ j, j < 31 → (s.node (address j)).presence = .present) → exec i s = .next v) ∧
        ∀ j, j < 31 → placeFree → (s.node (address j)).presence ≠ .present →
          (∀ j', j' < j → (s.node (address j')).presence = .present) →
          exec i s = .next (v.withBus { v.bus with
            ordinary := v.bus.ordinary ++ [.identify (address j)], discPtr := address j % 31 + 1 })
    (b.discTimer = some 0 → steps .discoveryTimerExpiry (s.withBus { b with discTimer := some 5 })) ∧
      (b.discTimer ≠ some 0 → exec .discoveryTimerExpiry s = .next s) ∧
      (s.day.state = .opening → steps .discoveryStep s) ∧
      (s.day.state ≠ .opening → exec .discoveryStep s = .next s) := by
  intro b list placeFree address steps
  have stepped {i : Instr} {v : State} (free : v.bus.identifyFree = true ↔ placeFree)
      (place : ∀ j, v.node (v.bus.discAddress j) = s.node (address j)) (ptr : ∀ j, v.bus.discAddress j = address j)
      (run : exec i s = .next (if v.bus.identifyFree then discoveryStep v else v)) : steps i v := by
    refine ⟨fun h => run.trans (congrArg _ (if_neg (mt free.1 h))), fun h => run.trans (congrArg _ ?_),
      fun j hj hf h hb => run.trans (congrArg _ ((if_pos (free.2 hf)).trans ?_))⟩
    · rw [discoveryStep_none fun j hj => by rw [place]; exact h j hj]
      exact ite_self v
    · rw [discoveryStep_some hj (by rw [place]; exact h) fun i hi => by rw [place]; exact hb i hi, ptr]
  refine ⟨fun h => ?_, fun h => (live_next _ live).trans (congrArg _ (if_neg h)), fun h => ?_, fun h => ?_⟩
  · exact stepped (identifyFree_iff _) (fun _ => rfl) (fun _ => rfl) ((live_next _ live).trans (congrArg _ (if_pos h)))
  · refine stepped (identifyFree_iff _) (fun _ => rfl) (fun _ => rfl) ((live_next _ live).trans (congrArg _ ?_))
    unfold openingDiscovery
    rw [decide_eq_true h, Bool.true_and]
  · refine (live_next _ live).trans (congrArg _ ?_)
    unfold openingDiscovery
    rw [decide_eq_false h, Bool.false_and]
    exact if_neg Bool.false_ne_true

/-- The class that a node's block gives it, and the timers that follow it (R74, R155). -/
theorem pollClass_clauses (a : Nat) (s : State) :
    let n := s.node a
    let interval := fun (c : PollClass) => match c with | .fast => 250 | .normal => 1000 | .slow => 4000
    let answering := n.presence = .present ∨ n.presence = .silent
    let fresh := s.classOf a
    (n.binding = .unbound → fresh = .slow) ∧
      (∀ k, n.binding = .cabinet k →
        let c := s.cab k
        let fast := c.kind = .oven ∧ c.state ≠ .fault ∧ (∃ b ∈ c.batches, b.state = .cooking ∨ b.state = .done) ∨
          c.kind = .warmer ∧ ∃ e ∈ s.earmarks, e.cab = k ∧ c.cls = some (s.course e.course).cls ∧
            ((s.course e.course).state = .ready ∨ (s.course e.course).state = .plating)
        (fast → fresh = .fast) ∧ (¬fast → c.state = .off ∨ c.state = .offline → fresh = .slow) ∧
          (¬fast → c.state ≠ .off → c.state ≠ .offline → fresh = .normal)) ∧
      (∀ l, n.binding = .line l →
        let x := s.line l
        (x.inside ≠ [] ∨ x.running = true → fresh = .fast) ∧ (x.inside = [] → x.running = false → fresh = .normal)) ∧
      (n.binding = .base →
        let busy := ∃ q ∈ s.paging.pages, q.inDelivery = true ∨ q.state = .handed ∨ q.state = .sent
        (busy → fresh = .fast) ∧ (¬busy → fresh = .normal)) ∧
      (answering → n.pollClass ≠ fresh → refreshPoll a s = s.setNode a { n with
        pollClass := fresh, pollEnd := n.pollEnd.map fun e => min e (s.day.ms + interval fresh) }) ∧
      (¬answering ∨ n.pollClass = fresh → refreshPoll a s = s) ∧
      (answering → restartPoll a s = s.setNode a { n with pollEnd := some (s.day.ms + interval n.pollClass) }) ∧
      (¬answering → restartPoll a s = s) := by
  intro n interval answering fresh
  have intervals (c : PollClass) : interval c = c.interval := by cases c <;> rfl
  have answers : n.answering = true ↔ answering := answering_iff n
  have judged : fresh = match n.binding with
      | .unbound => .slow
      | .cabinet k => s.cabPollClass k
      | .line l => (s.line l).pollClass
      | .base => s.paging.basePollClass := rfl
  refine ⟨fun h => by rw [judged, h], fun k h => ?_, fun l h => ?_, fun h => ?_, fun h hn => ?_, fun h => ?_, fun h => ?_,
    fun h => if_neg (mt answers.1 h)⟩
  · intro c fast
    have class' : fresh = if fast then .fast else if c.state = .off ∨ c.state = .offline then .slow else .normal := by
      rw [judged, h]
      exact cabPollClass_eq k s
    exact ⟨fun hf => class'.trans (if_pos hf), fun hf ho => class'.trans ((if_neg hf).trans (if_pos ho)),
      fun hf h1 h2 => class'.trans ((if_neg hf).trans (if_neg fun ho => ho.elim h1 h2))⟩
  · intro x
    have class' : fresh = if x.inside ≠ [] ∨ x.running = true then .fast else .normal := by
      rw [judged, h]
      exact linePollClass_eq x
    exact ⟨fun hf => class'.trans (if_pos hf), fun h1 h2 => class'.trans (if_neg (by simp [h1, h2]))⟩
  · intro busy
    have class' : fresh = if busy then .fast else .normal := by
      rw [judged, h]
      exact basePollClass_eq s.paging
    exact ⟨fun hf => class'.trans (if_pos hf), fun hf => class'.trans (if_neg hf)⟩
  · rw [intervals]
    exact if_pos (by rw [Bool.and_eq_true, decide_eq_true_eq]; exact ⟨answers.2 h, hn⟩)
  · refine if_neg fun e => ?_
    rw [Bool.and_eq_true, decide_eq_true_eq] at e
    exact h.elim (fun hn => hn (answers.1 e.1)) e.2
  · rw [intervals]
    exact if_pos (answers.2 h)

/-- Settles O48. -/
theorem pollsAndDiscoveryAreQueued : Obligations.PollsAndDiscoveryAreQueued :=
  ⟨fun s live sized => ⟨fun a h1 h31 => pollTimer_clauses a s live h1 h31 sized.nodes, discovery_clauses s live⟩,
    fun _ _ sized h1 h31 answers => finish_classed sized h1 h31 h1 h31 ((answering_iff _).2 answers), pollClass_clauses⟩

end Sys2Proof.Certificates
end

section
/-! SUPPORT. Failed attempts and misses (R145, R149, R150): what does not answer the transaction in flight. -/

namespace Sys2Proof.Machine

variable {s : State} {f : InFlight}

/-! ### The response that a transaction awaits -/

theorem awaiting_eq_none (h : s.bus.guard ≠ .free ∨ s.bus.inflight = none) : s.awaiting = none := by
  unfold State.awaiting
  split
  · rename_i free
    exact h.resolve_left fun e => e free
  · rfl

theorem awaiting_eq_some (free : s.bus.guard = .free) (h : s.bus.inflight = some f) : s.awaiting = some f :=
  (if_pos free).trans h

theorem receive_unawaited (h : s.awaiting = none) (a : Nat) (body : RespBody) (u : Bool) : receive a body u s = s := by
  unfold receive
  rw [h]

theorem receiveBytes_unawaited (h : s.awaiting = none) (l : List Byte) : receiveBytes l s = s := by
  unfold receiveBytes
  rw [h]

theorem responseTimeout_unawaited (h : s.awaiting = none) : responseTimeout s = s := by
  unfold responseTimeout
  rw [h]

theorem responseTimeout_awaited (h : s.awaiting = some f) : responseTimeout s = finish (failAttempt f s) := by
  unfold responseTimeout
  rw [h]

theorem receive_answered {a : Nat} {body : RespBody} {u : Bool} (h : s.awaiting = some f)
    (ok : s.answers f.tx a body = true) : receive a body u s = finish (applyResponse f a body u (endTx s)) := by
  unfold receive
  rw [h]
  exact congrArg finish (if_pos ok)

theorem receive_unanswered {a : Nat} {body : RespBody} {u : Bool} (h : s.awaiting = some f)
    (no : ¬s.answers f.tx a body = true) : receive a body u s = responseTimeout s := by
  rw [responseTimeout_awaited h]
  unfold receive
  rw [h]
  exact congrArg finish (if_neg no)

theorem receiveBytes_invalid {l : List Byte} (h : s.awaiting = some f)
    (no : parseResponse (s.node f.tx.addr).type l = none) : receiveBytes l s = responseTimeout s := by
  rw [responseTimeout_awaited h]
  unfold receiveBytes
  rw [h]
  dsimp only
  rw [no]

/-- A row that leaves the state as it is leaves it so whatever the level of RESET_N. -/
theorem live_id {g : State → State} (h : g s = s) : live g s = .next s :=
  congrArg Host.Outcome.next ((congrArg _ h).trans (ite_self s))

theorem live_congr {g h : State → State} (e : g s = h s) : live g s = live h s := by
  unfold live
  rw [e]

/-- Wrong sync byte, length or CRC (R187). -/
theorem parseResponse_malformed {type : Option NodeType} {l : List Byte}
    (h : byteAt l 0 ≠ 0xB4 ∨ l.length ≠ byteAt l 3 + 6 ∨
      crc16 ((l.drop 1).take (byteAt l 3 + 3)) ≠ BitVec.ofNat 16 (wordAt l (byteAt l 3 + 4))) :
    parseResponse type l = none := by
  unfold parseResponse
  refine if_pos ?_
  rw [Bool.or_eq_true, Bool.or_eq_true, Bool.or_eq_true, decide_eq_true_eq, decide_eq_true_eq, decide_eq_true_eq,
    decide_eq_true_eq]
  exact h.elim (fun e => .inl (.inl (.inl e))) fun h => h.elim (fun e => .inl (.inr e)) .inr

/-! ### Which response a request calls for (R149, R187) -/

theorem answers_ident {t : Tx} {a : Nat} {ty : NodeType} {x : Nat} (h : s.answers t a (.ident ty x) = true) :
    t = .identify a := by
  unfold State.answers at h
  rw [Bool.and_eq_true, decide_eq_true_eq] at h
  cases t <;> simp_all [Tx.addr]

theorem answers_cabinet_iff {t : Tx} {a : Nat} {r : CabinetRep} :
    s.answers t a (.cabinet r) = true ↔ t = .poll a ∧
      ((s.node a).type = some .oven ∧ r.counters = none ∨ (s.node a).type = some .warmer ∧ r.counters ≠ none) := by
  unfold State.answers
  rw [Bool.and_eq_true, decide_eq_true_eq]
  cases t with
  | poll b =>
    rw [Tx.poll.injEq]
    refine and_congr_right fun _ => ?_
    cases h : (s.node a).type with
    | none => simp
    | some ty => cases ty <;> simp [Option.isSome_iff_ne_none]
  | _ => simp

theorem answers_washer_iff {t : Tx} {a : Nat} {r : WasherRep} :
    s.answers t a (.washer r) = true ↔ t = .poll a ∧ (s.node a).type = some .washer := by
  unfold State.answers
  rw [Bool.and_eq_true, decide_eq_true_eq]
  cases t <;> simp [Tx.addr]

theorem answers_base_iff {t : Tx} {a : Nat} {r : BaseRep} :
    s.answers t a (.base r) = true ↔ t = .poll a ∧ (s.node a).type = some .pageBase := by
  unfold State.answers
  rw [Bool.and_eq_true, decide_eq_true_eq]
  cases t <;> simp [Tx.addr]

theorem answers_setAck {t : Tx} {a : Nat} (h : s.answers t a .setAck = true) : t = .set a := by
  unfold State.answers at h
  rw [Bool.and_eq_true, decide_eq_true_eq] at h
  cases t <;> simp_all [Tx.addr]

theorem answers_deliverAck {t : Tx} {a : Nat} {b : Bool} (h : s.answers t a (.deliverAck b) = true) :
    ∃ id tg code arg, t = .deliver a id tg code arg := by
  unfold State.answers at h
  rw [Bool.and_eq_true, decide_eq_true_eq] at h
  cases t <;> simp_all [Tx.addr]

/-! ### Node records between events

`Heard P` is what the blocks' own work and any change of node records keep. -/

structure Heard (P : State → Prop) : Prop extends Work P where
  anyNode : ∀ {s : State} a x, P s → P (s.setNode a x)

namespace Heard

variable {P : State → Prop} (h : Heard P)
include h

theorem countMiss (a : Nat) (hs : P s) : P (countMiss a s) := by
  unfold Machine.countMiss Machine.goSilent
  dsimp only
  split
  · exact h.tellSilent _ (h.raise _ _ _ _ (h.anyNode _ _ (h.anyNode _ _ hs)))
  · exact h.anyNode _ _ hs

theorem missTx (f : InFlight) (hs : P s) : P (missTx f s) := by
  unfold Machine.missTx
  split
  · exact h.restartPoll _ (h.refreshPoll _ (h.anyNode _ _ (h.countMiss _ hs)))
  · exact h.countMiss _ hs
  · dsimp only
    split
    · exact h.countMiss _ hs
    · exact h.missDeliver _ (h.countMiss _ hs)
  · split
    · exact h.countMiss _ hs
    · exact hs

end Heard

theorem Measured.heard (s : State) : Heard fun t => ∀ k, CabConfig (s.cab k) (t.cab k) :=
  { Measured.work s with anyNode := fun _ _ h => h }

/-- No transaction is in flight and the 1 ms guard runs. -/
def State.Guarded (t : State) : Prop := t.bus.inflight = none ∧ t.bus.guard = .bus

theorem endTx_guarded (s : State) : (endTx s).Guarded := ⟨rfl, rfl⟩

theorem State.Guarded.of_keeps {t : State} (h : s.Guarded) (k : BusKeeps s.bus t.bus) : t.Guarded :=
  ⟨(k.idle h.1).1, (k.idle h.1).2.trans h.2⟩

theorem State.Guarded.heard : Heard State.Guarded where
  calls _ hs := hs
  freeCount _ hs := hs
  offer _ _ hs := hs
  round _ _ hs := hs
  course _ _ _ hs := hs
  earmarks _ hs := hs
  cab _ _ _ hs := hs
  line _ _ _ _ hs := hs
  consumer _ _ hs := setConsumer_keeps (P := State.Guarded) (fun _ _ h => h) (fun _ _ _ h => h) _ _ hs
  power _ _ _ hs := hs
  paging _ _ hs := hs
  bus _ hx hs := hs.of_keeps hx
  transfer _ _ _ _ _ hs := hs
  opening _ hs := hs
  plates _ _ _ _ hs := hs
  house _ _ hs := hs
  anyCourse _ _ hs := hs
  anyFire _ hs := hs
  anyCabs _ _ _ hs := hs
  anyLines _ _ _ _ hs := hs
  anyPower _ _ _ hs := hs
  anyPaging _ _ hs := hs
  confirm _ _ hs := hs
  noHold hs := hs
  clocks _ _ _ hs := hs
  anyNode _ _ hs := hs

/-! ### The miss count (R145, R150) -/

theorem setNode_setNode (a : Nat) (x y : Node) (s : State) : (s.setNode a x).setNode a y = s.setNode a y := by
  unfold State.setNode State.withBus
  simp only [List.set_set]

/-- What a missed transaction makes of the node's record. -/
def Node.missed (n : Node) : Node :=
  if n.presence = .present ∧ 3 ≤ n.misses + 1 then
    { n with misses := min (n.misses + 1) 255, presence := .silent, silence := some 10 }
  else { n with misses := min (n.misses + 1) 255 }

theorem tellSilent_bus (b : Binding) (s : State) : (tellSilent b s).bus = s.bus := by
  unfold tellSilent
  split <;> rfl

theorem countMiss_loud {a : Nat} (h : ¬((s.node a).presence = .present ∧ 3 ≤ (s.node a).misses + 1)) :
    countMiss a s = s.setNode a { s.node a with misses := min ((s.node a).misses + 1) 255 } := by
  refine if_neg fun e => h ?_
  rwa [Bool.and_eq_true, decide_eq_true_eq, decide_eq_true_eq] at e

theorem countMiss_silent {a : Nat} (hs : s.bus.nodes.length = 31) (h1 : 1 ≤ a) (h31 : a ≤ 31)
    (h : (s.node a).presence = .present ∧ 3 ≤ (s.node a).misses + 1) :
    countMiss a s = tellSilent (s.node a).binding
      (raise .nodeSilent a (min ((s.node a).misses + 1) 255) (s.node a).binding.kindCode
        (s.setNode a { s.node a with misses := min ((s.node a).misses + 1) 255, presence := .silent, silence := some 10 })) := by
  have counted : countMiss a s = goSilent a (s.setNode a { s.node a with misses := min ((s.node a).misses + 1) 255 }) := by
    refine if_pos ?_
    rwa [Bool.and_eq_true, decide_eq_true_eq, decide_eq_true_eq]
  rw [counted]
  unfold goSilent
  rw [node_setNode _ h1 h31 hs]
  dsimp only
  rw [setNode_setNode]
  rfl

theorem countMiss_node {a : Nat} (hs : s.bus.nodes.length = 31) (h1 : 1 ≤ a) (h31 : a ≤ 31) :
    (countMiss a s).node a = (s.node a).missed := by
  unfold Node.missed
  split
  · rename_i h
    rw [countMiss_silent hs h1 h31 h, node_congr (congrArg Bus.nodes (tellSilent_bus _ _))]
    exact node_setNode _ h1 h31 hs
  · rename_i h
    rw [countMiss_loud h]
    exact node_setNode _ h1 h31 hs

theorem countMiss_length (a : Nat) (s : State) : (countMiss a s).bus.nodes.length = s.bus.nodes.length := by
  unfold countMiss goSilent
  dsimp only
  split
  · rw [tellSilent_bus]
    exact List.length_set.trans List.length_set
  · exact List.length_set

/-- What a transaction that is MISSED makes of the record of the node it was for. -/
def Tx.fail (t : Tx) (n : Node) : Node :=
  match t with
  | .poll _ => { n.missed with fetchAhead := false }
  | .set _ | .deliver _ _ _ _ _ => n.missed
  | .identify _ => if n.presence = .silent then n.missed else n

theorem missTx_node (hs : s.bus.nodes.length = 31) (h1 : 1 ≤ f.tx.addr) (h31 : f.tx.addr ≤ 31) :
    NodeKeeps (f.tx.fail (s.node f.tx.addr)) ((missTx f s).node f.tx.addr) := by
  have kept (v : State) {g : State → State} (hg : ∀ {P}, Work P → ∀ {t}, P t → P (g t)) (a : Nat) :
      NodeKeeps (v.node a) ((g v).node a) :=
    (hg (BusKept.work v.bus) (BusKeeps.refl v.bus)).nodes (State.nodeIdx a)
  obtain ⟨tx, attempt, urgent, isVoid⟩ := f
  generalize ha : tx.addr = a at h1 h31
  have missed := countMiss_node hs h1 h31
  cases tx with
  | identify b =>
    obtain rfl : b = a := ha
    unfold missTx Tx.fail
    dsimp only
    split
    · rw [missed]
      exact NodeKeeps.refl _
    · exact NodeKeeps.refl _
  | poll b =>
    obtain rfl : b = a := ha
    have own : NodeKeeps { (s.node b).missed with fetchAhead := false }
        (((countMiss b s).setNode b { (countMiss b s).node b with fetchAhead := false }).node b) := by
      rw [node_setNode _ h1 h31 ((countMiss_length b s).trans hs), missed]
      exact NodeKeeps.refl _
    exact own.trans (kept _ (g := fun t => restartPoll b (refreshPoll b t))
      (fun h _ ht => h.restartPoll b (h.refreshPoll b ht)) b)
  | set b =>
    obtain rfl : b = a := ha
    unfold missTx Tx.fail
    dsimp only
    rw [missed]
    exact NodeKeeps.refl _
  | deliver b id tg code arg =>
    obtain rfl : b = a := ha
    have own : NodeKeeps (s.node b).missed ((countMiss b s).node b) := by
      rw [missed]
      exact NodeKeeps.refl _
    exact own.trans (kept _ (g := fun t => if isVoid = true then t else missDeliver id t)
      (fun h _ ht => by split; exacts [ht, h.missDeliver id ht]) b)

end Sys2Proof.Machine

namespace Sys2Proof.Certificates

open Sys2Proof.Machine

/-- The record of the node after its transaction is MISSED, by the transaction (R145, R150). -/
theorem missed_record {x : Tx} {n m : Node} (h : NodeKeeps (x.fail n) m) :
    let counted := (∀ a, x ≠ .identify a) ∨ n.presence = .silent
    (counted → m.misses = min (n.misses + 1) 255) ∧ (¬counted → m.misses = n.misses) ∧
      (counted → n.presence = .present → 3 ≤ n.misses + 1 → m.presence = .silent ∧ m.silence = some 10) ∧
      (¬(counted ∧ n.presence = .present ∧ 3 ≤ n.misses + 1) → m.presence = n.presence) ∧
      (x = .poll x.addr → m.fetchAhead = false) := by
  intro counted
  have misses : n.missed.misses = min (n.misses + 1) 255 := by unfold Node.missed; split <;> rfl
  have silent (h : n.presence = .present ∧ 3 ≤ n.misses + 1) : n.missed.presence = .silent ∧ n.missed.silence = some 10 := by
    unfold Node.missed
    rw [if_pos h]
    exact ⟨rfl, rfl⟩
  have loud (h : ¬(n.presence = .present ∧ 3 ≤ n.misses + 1)) : n.missed.presence = n.presence := by
    unfold Node.missed
    rw [if_neg h]
  have missed (hc : counted) : (x.fail n).misses = n.missed.misses ∧ (x.fail n).presence = n.missed.presence ∧
      (x.fail n).silence = n.missed.silence := by
    cases x with
    | identify a => rw [Tx.fail, if_pos (hc.resolve_left fun h => h a rfl)]; exact ⟨rfl, rfl, rfl⟩
    | _ => exact ⟨rfl, rfl, rfl⟩
  have uncounted (hc : ¬counted) : x.fail n = n := by
    cases x with
    | identify a => exact if_neg fun e => hc (.inr e)
    | _ => exact absurd (.inl nofun) hc
  refine ⟨fun hc => h.misses.trans ((missed hc).1.trans misses), fun hc => h.misses.trans (by rw [uncounted hc]),
    fun hc hp h3 => ⟨h.presence.trans ((missed hc).2.1.trans (silent ⟨hp, h3⟩).1),
      h.silence.trans ((missed hc).2.2.trans (silent ⟨hp, h3⟩).2)⟩, fun hn => ?_, fun hx => ?_⟩
  · by_cases hc : counted
    · exact h.presence.trans ((missed hc).2.1.trans (loud fun e => hn ⟨hc, e⟩))
    · exact h.presence.trans (by rw [uncounted hc])
  · rw [hx] at h
    exact h.fetchAhead

/-- The third failed attempt (R150). -/
theorem missed_clauses (f : InFlight) (s : State) (live : s.day.resetLow = false) (sized : Sized s)
    (awaits : s.awaiting = some f) (h1 : 1 ≤ f.tx.addr) (h31 : f.tx.addr ≤ 31) (third : 3 ≤ f.attempt) :
    let n := s.node f.tx.addr
    let free := s.withBus { s.bus with inflight := none, guard := .bus }
    let c := countMiss f.tx.addr free
    ∃ t, exec .responseTimeout s = .next t ∧
      t = finish (match f.tx with
        | .poll a => restartPoll a (refreshPoll a (c.setNode a { c.node a with fetchAhead := false }))
        | .set _ => c
        | .deliver _ id _ _ _ => if f.isVoid then c else missDeliver id c
        | .identify _ => if n.presence = .silent then c else free) ∧
      Ground s t ∧ (∀ k, CabConfig (s.cab k) (t.cab k)) ∧ t.Guarded ∧
        NodeKeeps (f.tx.fail n) (t.node f.tx.addr) := by
  intro n free c
  have ended : responseTimeout s = finish (missTx f free) :=
    (responseTimeout_awaited awaits).trans (congrArg finish (if_neg (Nat.not_lt.2 third)))
  have floor := finish_floor (missTx f free)
  refine ⟨_, (live_next _ live).trans (congrArg _ ended), congrArg finish ?_,
    (Ground.calm s).finish ((Ground.calm s).missTx f ((Ground.calm s).endTx (Ground.refl s))),
    (Measured.work s).finish ((Measured.heard s).missTx f fun k => CabConfig.refl _),
    State.Guarded.heard.finish (State.Guarded.heard.missTx f (endTx_guarded s)),
    (missTx_node (s := free) sized.nodes h1 h31).trans (floor.bus.nodes _)⟩
  rcases f with ⟨tx, _, _, _⟩
  cases tx <;> rfl

/-- What a miss makes of the node, and of the cabinet bound to it (R60, R145). -/
theorem countMiss_clauses (a : Nat) (s : State) (sized : Sized s) (h1 : 1 ≤ a) (h31 : a ≤ 31) :
    let n := s.node a
    let m := min (n.misses + 1) 255
    let silent := n.presence = .present ∧ 3 ≤ n.misses + 1
    let v := raise .nodeSilent a m n.binding.kindCode
      (s.setNode a { n with misses := m, presence := .silent, silence := some 10 })
    (¬silent → countMiss a s = s.setNode a { n with misses := m }) ∧
      (silent →
        (∀ k, n.binding = .cabinet k → countMiss a s =
          let c := v.cab k
          v.setCab k { c with stale := true, oobT := if c.kind = .warmer ∧ c.oobT = none then some 60 else c.oobT }) ∧
          ((∀ k, n.binding ≠ .cabinet k) → countMiss a s = v)) := by
  intro n m silent v
  refine ⟨countMiss_loud, fun h => ?_⟩
  have told : countMiss a s = tellSilent n.binding v := countMiss_silent sized.nodes h1 h31 h
  refine ⟨fun k hk => ?_, fun hk => ?_⟩
  · have timer (c : Cab) : (if (c.isWarmer && c.oobT.isNone) = true then some Config.oobSec else c.oobT) =
        if c.kind = .warmer ∧ c.oobT = none then some 60 else c.oobT :=
      if_congr (by simp [Cab.isWarmer]) rfl rfl
    rw [told, hk]
    unfold tellSilent
    dsimp only
    rw [timer]
  · rw [told]
    unfold tellSilent
    split
    · rename_i k e
      exact absurd e (hk k)
    · rfl

/-- Settles O46. -/
theorem failedAttemptsRetryThenMiss : Obligations.FailedAttemptsRetryThenMiss := by
  refine ⟨fun s idle => ?_, fun f s live sized free flight h1 h31 => ?_, countMiss_clauses⟩
  · have none := awaiting_eq_none idle
    exact ⟨fun _ _ _ _ => live_id (receive_unawaited none _ _ _), fun _ _ _ => live_id (receive_unawaited none _ _ _),
      fun _ _ _ => live_id (receive_unawaited none _ _ _), fun _ _ _ => live_id (receive_unawaited none _ _ _),
      fun _ _ => live_id (receive_unawaited none _ _ _), fun _ _ _ => live_id (receive_unawaited none _ _ _),
      fun _ => live_id (receiveBytes_unawaited none _), live_id (responseTimeout_unawaited none)⟩
  · intro fails n
    have awaits := awaiting_eq_some free flight
    have wrong {i : Instr} {a : Nat} {body : RespBody} {u : Bool} (hi : exec i s = Machine.live (receive a body u) s)
        (no : ¬s.answers f.tx a body = true) : fails i := hi.trans (live_congr (receive_unanswered awaits no))
    have own {a : Nat} (h : f.tx = .poll a) : n = s.node a := by
      show s.node f.tx.addr = _
      rw [h]
      rfl
    refine ⟨fun a ty x u h => wrong rfl (mt answers_ident h), fun a r u h => wrong rfl fun e => ?_,
      fun a r u h => wrong rfl fun e => ?_, fun a r u h => wrong rfl fun e => ?_,
      fun a u h => wrong rfl (mt answers_setAck h), fun a b u h => wrong rfl fun e => ?_,
      fun l h => live_congr (receiveBytes_invalid awaits (parseResponse_malformed h)), fun h => ?_, fun h => ?_⟩
    · obtain ⟨poll, type⟩ := answers_cabinet_iff.1 e
      obtain ⟨oven, warmer⟩ := h.resolve_left fun hn => hn poll
      exact type.elim (fun t => oven ((congrArg Node.type (own poll)).trans t.1))
        fun t => warmer ((congrArg Node.type (own poll)).trans t.1)
    · obtain ⟨poll, type⟩ := answers_washer_iff.1 e
      exact h.elim (fun hn => hn poll) fun hn => hn ((congrArg Node.type (own poll)).trans type)
    · obtain ⟨poll, type⟩ := answers_base_iff.1 e
      exact h.elim (fun hn => hn poll) fun hn => hn ((congrArg Node.type (own poll)).trans type)
    · obtain ⟨id, tg, code, arg, deliver⟩ := answers_deliverAck e
      exact h id tg code arg deliver
    · intro w
      exact ⟨finish w, (live_next _ live).trans (congrArg _ ((responseTimeout_awaited awaits).trans
        (congrArg finish (if_pos h)))), finish_floor w, rfl⟩
    · intro counted free c
      obtain ⟨t, ran, ended, ground, config, guarded, keeps⟩ := missed_clauses f s live sized awaits h1 h31 h
      exact ⟨t, ran, ended, ground, config, guarded.1, guarded.2, missed_record keeps⟩

end Sys2Proof.Certificates
end

section
/-! SUPPORT. The report of a cabinet, step by step (R56, R63, R64, R66–R68, R106, R113, R114, R180). -/

namespace Sys2Proof.Machine

variable {s : State}

/-! ### The in-band test (R67) -/

theorem bandTest_inBand {k : Nat} (hk : (s.cab k).kind = .warmer) (hb : (s.cab k).inBand = true) :
    bandTest k s = evaluateAll (s.setCab k { s.cab k with
      oobT := none
      lots := (s.cab k).lots.map fun l => if l.warmFrom.isNone then { l with warmFrom := some s.now } else l }) :=
  (if_pos (decide_eq_true hk)).trans (if_pos hb)

theorem bandTest_outOfBand {k : Nat} (hk : (s.cab k).kind = .warmer) (hb : (s.cab k).inBand = false) :
    bandTest k s = if (s.cab k).oobT.isNone then s.setCab k { s.cab k with oobT := some Config.oobSec } else s :=
  (if_pos (decide_eq_true hk)).trans (if_neg (Bool.eq_false_iff.1 hb))

theorem bandTest_other {k : Nat} (hk : (s.cab k).kind ≠ .warmer) : bandTest k s = s :=
  if_neg fun h => hk (of_decide_eq_true h)

/-! ### The moves that a temperature calls for (R56) -/

theorem judgeReport_raised {k : Nat} (hs : (s.cab k).state = .waitPower) (hm : (s.cab k).wantMode = .hold) :
    judgeReport k s =
      if (s.cab k).inBand then changeState k .holding false (lowerTo k (s.consumer k).grant s) else s :=
  if_pos (by rw [Bool.and_eq_true, decide_eq_true_eq, decide_eq_true_eq]; exact ⟨hs, hm⟩)

theorem judgeReport_settled {k : Nat} (h : ¬((s.cab k).state = .waitPower ∧ (s.cab k).wantMode = .hold)) :
    judgeReport k s = judgeNow k s :=
  if_neg (by rwa [Bool.and_eq_true, decide_eq_true_eq, decide_eq_true_eq])

/-! ### Entry to FAULT (R46, R64) -/

theorem setOvenFault_rest (k : Nat) (b : Batch) (s : State) :
    (setOvenFault k b s).cabs = s.cabs ∧ (setOvenFault k b s).power = s.power ∧
      (setOvenFault k b s).courses.length = s.courses.length := by
  unfold setOvenFault
  dsimp only
  split
  · exact ⟨rfl, rfl, rfl⟩
  · exact ⟨rfl, rfl, List.length_set⟩

theorem setOvenFault_own {k : Nat} {b : Batch} (h : b.course < s.courses.length) :
    ((setOvenFault k b s).course b.course).ovenFault = true := by
  unfold setOvenFault
  dsimp only
  split
  · assumption
  · exact congrArg Course.ovenFault (State.course_setCourse _ _ _ h)

theorem setOvenFault_kept {k c : Nat} {b : Batch} (h : (s.course c).ovenFault = true) :
    ((setOvenFault k b s).course c).ovenFault = true := by
  unfold setOvenFault
  dsimp only
  split
  · exact h
  · show ((s.setCourse b.course _).course c).ovenFault = true
    rw [State.course_setCourse_ite]
    split
    · rfl
    · exact h

theorem setOvenFaults_rest (k : Nat) (l : List Batch) (s : State) :
    (l.foldl (fun t b => setOvenFault k b t) s).cabs = s.cabs ∧
      (l.foldl (fun t b => setOvenFault k b t) s).power = s.power :=
  Hush.foldl (P := fun t => t.cabs = s.cabs ∧ t.power = s.power)
    (fun b t h => ⟨(setOvenFault_rest k b t).1.trans h.1, (setOvenFault_rest k b t).2.1.trans h.2⟩) l ⟨rfl, rfl⟩

theorem setOvenFaults_kept {k c : Nat} (l : List Batch) (h : (s.course c).ovenFault = true) :
    ((l.foldl (fun t b => setOvenFault k b t) s).course c).ovenFault = true :=
  Hush.foldl (P := fun t => (t.course c).ovenFault = true) (fun _ _ h => setOvenFault_kept h) l h

/-- Every course with a batch in the oven is marked (R46). -/
theorem setOvenFaults_marked {k : Nat} {b : Batch} {l : List Batch} (h : b ∈ l) (hb : b.course < s.courses.length) :
    ((l.foldl (fun t b => setOvenFault k b t) s).course b.course).ovenFault = true := by
  induction l generalizing s with
  | nil => cases h
  | cons x l ih =>
    rw [List.foldl_cons]
    rcases List.mem_cons.1 h with rfl | h
    · exact setOvenFaults_kept l (setOvenFault_own hb)
    · exact ih h (by rw [(setOvenFault_rest k x s).2.2]; exact hb)

/-- Entry to FAULT, up to the marks of the courses. -/
def faulted (k : Nat) (s : State) : State :=
  cancelRoutes k (changeState k .fault true (release k (s.setCab k { s.cab k with wantedOn := false })))

theorem enterFault_eq (k : Nat) (s : State) :
    enterFault k s =
      pageKitchen codeCabinetFault k .urgent none
        (((faulted k s).cab k).batches.foldl (fun t b => setOvenFault k b t) (faulted k s)) := rfl

theorem faulted_cab {k : Nat} (hk : k < s.cabs.length) (h : (s.cab k).state ≠ .fault) :
    (faulted k s).cab k = (s.cab k).asFault := by
  have off : (release k (s.setCab k { s.cab k with wantedOn := false })).cab k = { s.cab k with wantedOn := false } :=
    (cab_congr (release_cabs _ _) k).trans (State.cab_setCab _ _ _ hk)
  have length : k < (release k (s.setCab k { s.cab k with wantedOn := false })).cabs.length := by
    rw [release_cabs, State.setCab_cabs, List.length_set]
    exact hk
  unfold faulted
  rw [cancelRoutes_cab _ _ (by rw [changeState_length]; exact length),
    changeState_cab true length (by rw [off]; exact h), off]
  rfl

theorem faulted_consumer {k : Nat} (hk : k < s.power.consumers.length) :
    (faulted k s).consumer k = (s.consumer k).released := by
  show (faulted k s).power.consumers.getD k _ = _
  unfold faulted
  rw [cancelRoutes_power, changeState_power]
  exact setConsumer_consumer k _ _ hk

theorem Bedrock.faulted (k : Nat) (s : State) : Bedrock s (faulted k s) :=
  have h := Bedrock.work s
  h.cancelRoutes _ (h.changeState _ _ _ (h.release _ (h.setCab _ _ (by constructor <;> rfl) (Bedrock.refl s))))

/-- The page of a FAULT goes to the kitchen team, as it is set. -/
theorem enterFault_page (k : Nat) (s : State) :
    enterFault k s =
      claimPage (.team s.paging.settings.kitchen) 0x04 k .urgent none
        (((faulted k s).cab k).batches.foldl (fun t b => setOvenFault k b t) (faulted k s)) := by
  have settings := (Hush.foldl (f := fun t b => setOvenFault k b t) (fun b _ ht => (Bedrock.work s).setOvenFault k b ht)
    ((faulted k s).cab k).batches (Bedrock.faulted k s)).paging.settings
  rw [enterFault_eq]
  unfold pageKitchen
  rw [settings]
  rfl

theorem enterFault_cab {k : Nat} (hk : k < s.cabs.length) (h : (s.cab k).state ≠ .fault) :
    (enterFault k s).cab k = (s.cab k).asFault := by
  rw [enterFault_eq]
  exact (cab_congr (((Beside.hush _).pageKitchen _ _ _ _ (Beside.refl _)).cabs.trans (setOvenFaults_rest _ _ _).1) k).trans
    (faulted_cab hk h)

theorem enterFault_consumer {k : Nat} (hk : k < s.power.consumers.length) :
    (enterFault k s).consumer k = (s.consumer k).released := by
  have power : (enterFault k s).power = (faulted k s).power :=
    ((Beside.hush _).pageKitchen _ _ _ _ (Beside.refl _)).power.trans (setOvenFaults_rest _ _ _).2
  show (enterFault k s).power.consumers.getD k _ = _
  rw [power]
  exact faulted_consumer hk

/-- The courses with a batch in a faulted oven are marked (R46). -/
theorem enterFault_ovenFault {k : Nat} {b : Batch} (hs : Sized s) (hk : k < 24) (h : (s.cab k).state ≠ .fault)
    (hb : b ∈ (s.cab k).batches) (h32 : b.course < 32) : ((enterFault k s).course b.course).ovenFault = true := by
  have paused : b.paused ∈ ((faulted k s).cab k).batches := by
    rw [faulted_cab (by rw [hs.cabs]; exact hk) h]
    exact List.mem_map_of_mem hb
  have course : b.paused.course = b.course := by unfold Batch.paused; split <;> rfl
  have sized := (Bedrock.faulted k s).sizes hs
  have marked := setOvenFaults_marked (s := faulted k s) (k := k) paused (by rw [sized.courses, course]; exact h32)
  rw [course] at marked
  rw [enterFault_eq]
  exact (((Floor.stable _).pageKitchen _ _ _ _ (Floor.refl _)).course b.course).ovenFault.trans marked

/-! ### Conditions (R63, R64, R66, R180) -/

theorem startConfirm_eq (k : Nat) (s : State) :
    startConfirm k s =
      if s.day.state ≠ .lockout ∧ s.day.confirm.getD k none = none then
        s.withDay { s.day with confirm := s.day.confirm.set k (some s.day.ms) }
      else s := by
  unfold startConfirm
  by_cases h : s.day.state = .lockout
  · rw [if_pos h, if_neg fun e => e.1 h]
  · rw [if_neg h]
    cases e : s.day.confirm.getD k none with
    | none => exact (if_pos ⟨h, rfl⟩).symm
    | some t => exact (if_neg fun e => nomatch e.2).symm

/-- What a change of the condition set from `old` to `set` starts and stops: the confirm timer and the door timer. -/
def conditionTimers (k : Nat) (old set : CondSet) (v : State) : State :=
  let w :=
    if (set.overtemp = true ∧ old.overtemp = false) ∧ v.day.state ≠ .lockout ∧ v.day.confirm.getD k none = none then
      v.withDay { v.day with confirm := v.day.confirm.set k (some v.day.ms) }
    else v
  if set.doorOpen = true ∧ old.doorOpen = false then w.setCab k { w.cab k with doorT := some 120 }
  else if set.doorOpen = false ∧ old.doorOpen = true then w.setCab k { w.cab k with doorT := none }
  else w

/-- A fault condition is set that was not (R64). -/
def newFault (set old : CondSet) : Prop :=
  (set.overtemp = true ∧ old.overtemp = false) ∨ set.probeFault = true ∧ old.probeFault = false ∨
    set.elementFault = true ∧ old.elementFault = false

theorem newFault_iff (set old : CondSet) :
    ((set.overtemp && !old.overtemp) || (set.probeFault && !old.probeFault) || (set.elementFault && !old.elementFault)) =
      true ↔ newFault set old := by
  simp [newFault, or_assoc]

theorem applyConditions_eq (k : Nat) (set : CondSet) (s : State) {v : State}
    (hv : (if ((set.overtemp && !(s.cab k).live.overtemp) || (set.probeFault && !(s.cab k).live.probeFault) ||
      (set.elementFault && !(s.cab k).live.elementFault)) && decide (((latch k set s).cab k).state ≠ .fault) then
        enterFault k (latch k set s) else latch k set s) = v) :
    applyConditions k set s = conditionTimers k (s.cab k).live set v := by
  have confirmed : (if set.overtemp && !(s.cab k).live.overtemp then startConfirm k v else v) =
      if (set.overtemp = true ∧ (s.cab k).live.overtemp = false) ∧ v.day.state ≠ .lockout ∧
          v.day.confirm.getD k none = none then
        v.withDay { v.day with confirm := v.day.confirm.set k (some v.day.ms) }
      else v := by
    rw [startConfirm_eq, ← ite_and]
    exact if_congr (by rw [Bool.and_eq_true, Bool.not_eq_true']) rfl rfl
  unfold applyConditions conditionTimers
  dsimp only
  rw [hv, confirmed]
  exact if_congr (by rw [Bool.and_eq_true, Bool.not_eq_true']) rfl
    (if_congr (by rw [Bool.and_eq_true, Bool.not_eq_true']) rfl rfl)

theorem applyConditions_steady {k : Nat} {set : CondSet}
    (h : ¬(newFault set (s.cab k).live ∧ ((latch k set s).cab k).state ≠ .fault)) :
    applyConditions k set s = conditionTimers k (s.cab k).live set (latch k set s) :=
  applyConditions_eq k set s (if_neg (by rwa [Bool.and_eq_true, newFault_iff, decide_eq_true_eq]))

theorem applyConditions_fault {k : Nat} {set : CondSet} (h : newFault set (s.cab k).live)
    (hf : ((latch k set s).cab k).state ≠ .fault) :
    applyConditions k set s = conditionTimers k (s.cab k).live set (enterFault k (latch k set s)) :=
  applyConditions_eq k set s (if_pos (by rw [Bool.and_eq_true, newFault_iff, decide_eq_true_eq]; exact ⟨h, hf⟩))

/-- The latch writes the condition fields of one cabinet, and raises a notice at most (R63). -/
theorem latch_rest (k : Nat) (set : CondSet) (s : State) :
    (latch k set s).power = s.power ∧ (latch k set s).paging = s.paging ∧ (latch k set s).bus = s.bus ∧
      (latch k set s).cabs.length = s.cabs.length := by
  unfold latch
  dsimp only
  split
  · exact ⟨rfl, rfl, rfl, rfl⟩
  · split <;> exact ⟨rfl, rfl, rfl, List.length_set⟩

theorem latch_cab {k : Nat} (set : CondSet) (hk : k < s.cabs.length) :
    ∃ b x, (latch k set s).cab k = { s.cab k with latched := b, latchedSet := x, live := set } := by
  unfold latch
  dsimp only
  split
  · rename_i h
    exact ⟨(s.cab k).latched, (s.cab k).latchedSet, by rw [h]⟩
  · split
    · exact ⟨(s.cab k).latched, (s.cab k).latchedSet, State.cab_setCab _ _ _ hk⟩
    · exact ⟨true, set, State.cab_setCab _ _ _ hk⟩

/-! ### Energy (R113, R114) -/

theorem addMeter_rest (m e : Nat) (s : State) :
    (addMeter m e s).power.consumers = s.power.consumers ∧ (addMeter m e s).day = s.day := by
  unfold addMeter
  dsimp only
  split <;> exact ⟨rfl, rfl⟩

theorem chargeFn_oven {c : Nat} (h : c < 24) (hk : (s.cab c).kind = .oven) :
    s.chargeFn c = ((((s.cab c).batches.filter fun b =>
      b.state = .waiting ∨ b.state = .cooking ∨ b.state = .done).map fun b => (s.course b.course).fn).headD 0) := by
  have working : (fun b : Batch => decide (b.state = .waiting ∨ b.state = .cooking ∨ b.state = .done)) = Batch.working := by
    funext b
    simp [Batch.working, Bool.or_assoc]
  unfold State.chargeFn
  rw [if_pos h, hk, working, ← List.head?_filter]
  generalize (s.cab c).batches.filter Batch.working = l
  cases l <;> rfl

theorem chargeFn_warmer {c : Nat} (h : c < 24) (hk : (s.cab c).kind = .warmer) :
    s.chargeFn c = ((s.holdersAt c).map fun i => (s.course i).fn).headD 0 := by
  unfold State.chargeFn
  rw [if_pos h, hk]
  generalize s.holdersAt c = l
  cases l <;> rfl

theorem chargeFn_booster {c : Nat} (h : 24 ≤ c) : s.chargeFn c = (((s.line (c - 24)).inside.map (·.fn)).headD 0) := by
  unfold State.chargeFn
  rw [if_neg (Nat.not_lt.2 h)]
  generalize (s.line (c - 24)).inside = l
  cases l <;> rfl

end Sys2Proof.Machine

namespace Sys2Proof.Certificates

open Sys2Proof.Machine

/-- R67's seven steps in their order. -/
theorem report_steps (a k : Nat) (r : CabinetRep) (s : State) :
    let c := s.cab k
    let stored := s.setCab k { c with temp := r.temp, level := r.level, draw := r.draw, reported := true }
    let counted := applyCounters a k r.counters (bandTest k stored)
    let running := s.day.confirm.getD k none ≠ none
    let conds := applyConditions k r.conds counted
    let proved :=
      if running ∧ r.level = .off then conds.withDay { conds.day with confirm := conds.day.confirm.set k none } else conds
    let moved := if (proved.cab k).state = .fault then proved else judgeReport k proved
    applyCabinetReport a k r s = powerReport k r.draw (powerTry
      (if (moved.cab k).kind = .oven then moved.setCab k (moved.cab k).refreshBatches else moved)) := by
  intro c stored counted running conds proved moved
  have confirmed : confirmLevel k (s.day.confirm.getD k none).isSome r.level conds = proved :=
    if_congr (by rw [Bool.and_eq_true, decide_eq_true_eq, Option.isSome_iff_ne_none]) rfl rfl
  have judged : (if ((confirmLevel k (s.day.confirm.getD k none).isSome r.level conds).cab k).state = .fault then
      confirmLevel k (s.day.confirm.getD k none).isSome r.level conds
      else judgeReport k (confirmLevel k (s.day.confirm.getD k none).isSome r.level conds)) = moved := by
    rw [confirmed]
  have refreshed : (if (moved.cab k).isOven then moved.setCab k (moved.cab k).refreshBatches else moved) =
      if (moved.cab k).kind = .oven then moved.setCab k (moved.cab k).refreshBatches else moved :=
    if_congr (by rw [Cab.isOven, decide_eq_true_eq]) rfl rfl
  rw [← refreshed, ← judged]
  rfl

/-- The latch, the entry to FAULT and the timers of a condition set (R63, R64, R66, R180). -/
theorem conditions_clauses (k : Nat) (set : CondSet) (s : State) (sized : Sized s) (hk : k < 24) :
    let c := s.cab k
    let latched :=
      if set = c.live then s
      else if c.latched = true then s.setCab k { c with live := set }
      else
        raise .cabinetCondition k set.mask c.state.code
          (s.setCab k { c with latchedSet := set, latched := true, live := set })
    let new := newFault set c.live
    let timed := conditionTimers k c.live set
    (¬(new ∧ c.state ≠ .fault) → applyConditions k set s = timed latched) ∧
      (new → c.state ≠ .fault →
        let off := latched.setCab k { latched.cab k with wantedOn := false }
        let fault := cancelRoutes k (changeState k .fault true (release k off))
        let marked := (fault.cab k).batches.foldl (fun t b => setOvenFault k b t) fault
        let w := claimPage (.team s.paging.settings.kitchen) 0x04 k .urgent none marked
        applyConditions k set s = timed w ∧ w.cab k = (latched.cab k).asFault ∧
          w.consumer k = (s.consumer k).released ∧ Bedrock latched w ∧
          ∀ b ∈ c.batches, b.course < 32 → (w.course b.course).ovenFault = true) := by
  intro c latched new timed
  have latch' : latch k set s = latched := rfl
  have hcabs : k < s.cabs.length := by rw [sized.cabs]; exact hk
  obtain ⟨power, paging, _, length⟩ := latch_rest k set s
  obtain ⟨b, x, own⟩ := latch_cab set hcabs
  rw [latch'] at power paging length own
  have state : (latched.cab k).state = c.state := by rw [own]
  have sizedL : Sized latched := ((Bedrock.work s).latch k set (Bedrock.refl s)).sizes sized
  refine ⟨fun h => applyConditions_steady (by rw [latch', state]; exact h), fun hn hs => ?_⟩
  intro off fault marked w
  have entered : enterFault k latched = w := by
    have team : latched.paging.settings = s.paging.settings := congrArg Paging.settings paging
    have page := enterFault_page k latched
    rw [team] at page
    exact page
  have unfaulted : (latched.cab k).state ≠ .fault := by rw [state]; exact hs
  rw [← entered]
  refine ⟨applyConditions_fault hn unfaulted, enterFault_cab (by rw [length]; exact hcabs) unfaulted, ?_,
    (Bedrock.work latched).enterFault k (Bedrock.refl latched), fun b hb h32 =>
      enterFault_ovenFault sizedL hk unfaulted (by rw [own]; exact hb) h32⟩
  rw [enterFault_consumer (by rw [power, sized.consumers]; omega)]
  unfold State.consumer
  rw [power]

/-- The moves that a report's temperature calls for (R56). -/
theorem judgeReport_clauses (k : Nat) (s : State) :
    let c := s.cab k
    let inBand := c.setpoint - c.band ≤ c.temp
    let raised := c.state = .waitPower ∧ c.wantMode = .hold
    (c.state = .heating → inBand → judgeReport k s = changeState k .holding false (lowerTo k c.hold s)) ∧
      (c.state = .holding → c.temp < c.setpoint - 2 * c.band → judgeReport k s = requestHeat k s) ∧
      (raised → inBand → judgeReport k s = changeState k .holding false (lowerTo k (s.consumer k).grant s)) ∧
      (¬(c.state = .heating ∧ inBand) → ¬(c.state = .holding ∧ c.temp < c.setpoint - 2 * c.band) → ¬(raised ∧ inBand) →
        judgeReport k s = s) := by
  intro c inBand raised
  have band : c.inBand = true ↔ inBand := inBand_iff c
  have far : c.farBelow = true ↔ c.temp < c.setpoint - 2 * c.band := farBelow_iff c
  have settled {st : CabState} (h : c.state = st) (hst : st ≠ .waitPower) : judgeReport k s = judgeNow k s :=
    judgeReport_settled fun e => hst (h.symm.trans e.1)
  refine ⟨fun h hb => (settled h nofun).trans ((judgeNow_heating h).trans (if_pos (band.2 hb))),
    fun h hf => (settled h nofun).trans ((judgeNow_holding h).trans (if_pos (far.2 hf))),
    fun h hb => (judgeReport_raised h.1 h.2).trans (if_pos (band.2 hb)), fun h1 h2 h3 => ?_⟩
  by_cases r : raised
  · exact (judgeReport_raised r.1 r.2).trans (if_neg fun e => h3 ⟨r, band.1 e⟩)
  · refine (judgeReport_settled r).trans ?_
    by_cases e1 : c.state = .heating
    · exact (judgeNow_heating e1).trans (if_neg fun e => h1 ⟨e1, band.1 e⟩)
    · by_cases e2 : c.state = .holding
      · exact (judgeNow_holding e2).trans (if_neg fun e => h2 ⟨e2, far.1 e⟩)
      · exact judgeNow_other e1 e2

/-- The in-band test of a warmer (R67). -/
theorem bandTest_clauses (k : Nat) (s : State) :
    let c := s.cab k
    let inBand := c.setpoint - c.band ≤ c.temp
    (c.kind = .warmer → inBand → bandTest k s = evaluateAll (s.setCab k { c with
      oobT := none,
      lots := c.lots.map fun l => if l.warmFrom = none then { l with warmFrom := some s.day.clock } else l })) ∧
      (c.kind = .warmer → ¬inBand → c.oobT = none → bandTest k s = s.setCab k { c with oobT := some 60 }) ∧
      (c.kind ≠ .warmer ∨ ¬inBand ∧ c.oobT ≠ none → bandTest k s = s) := by
  intro c inBand
  have band : c.inBand = true ↔ inBand := inBand_iff c
  have out (h : ¬inBand) : c.inBand = false := Bool.eq_false_iff.2 (mt band.1 h)
  refine ⟨fun hk hb => ?_, fun hk hb ht => (bandTest_outOfBand hk (out hb)).trans (if_pos (Option.isNone_iff_eq_none.2 ht)),
    fun h => ?_⟩
  · rw [bandTest_inBand hk (band.2 hb)]
    simp only [Option.isNone_iff_eq_none]
    rfl
  · by_cases hk : c.kind = .warmer
    · obtain ⟨hb, ht⟩ := h.resolve_left fun hn => hn hk
      exact (bandTest_outOfBand hk (out hb)).trans (if_neg fun e => ht (Option.isNone_iff_eq_none.1 e))
    · exact bandTest_other hk

/-- The draw of a report is billed, stored and followed by the two checks (R106, R113, R114). -/
theorem powerReport_clauses (c draw : Nat) (s : State) :
    let x := s.consumer c
    let e := draw * (match x.lastReport with | none => 0 | some t => min (s.day.clock - t) 5)
    let billed := addMeter (26 + s.chargeFn c) e (addMeter c e s)
    let v := billed.setConsumer c { x with measured := draw, lastReport := some s.day.clock }
    powerReport c draw s = restoreCheck (shedCheck
      (if v.measuredTotal ≤ v.power.shedHigh then v.withPower { v.power with unresolved := false } else v)) := by
  intro x e billed v
  have elapsed : draw * s.elapsed c = e := by
    unfold State.elapsed
    dsimp only [e, x]
    cases (s.consumer c).lastReport <;> rfl
  obtain ⟨consumers, day⟩ : billed.power.consumers = s.power.consumers ∧ billed.day = s.day :=
    ⟨(addMeter_rest _ _ _).1.trans (addMeter_rest _ _ _).1, (addMeter_rest _ _ _).2.trans (addMeter_rest _ _ _).2⟩
  have stored : billed.setConsumer c { billed.consumer c with measured := draw, lastReport := some billed.now } = v := by
    have own : billed.consumer c = x := by
      show billed.power.consumers.getD c _ = _
      rw [consumers]
      rfl
    have now : billed.now = s.day.clock := congrArg Day.clock day
    rw [own, now]
  unfold powerReport
  dsimp only
  rw [elapsed, stored]

/-- Settles O28. -/
theorem cabinetReportsAreJudged : Obligations.CabinetReportsAreJudged := by
  refine ⟨report_steps, conditions_clauses, judgeReport_clauses, bandTest_clauses, fun a k ld dr s => ?_, fun c draw s => ?_⟩
  · intro n delta
    have deltas (b : Option Nat) (v : Nat) : counterDelta b v = delta b v := by cases b <;> rfl
    refine ⟨rfl, ?_, rfl, rfl⟩
    rw [← deltas, ← deltas]
    rfl
  · exact ⟨powerReport_clauses c draw s, chargeFn_oven, chargeFn_warmer, chargeFn_booster⟩

end Sys2Proof.Certificates
end

section
/-! SUPPORT. What the report of a cabinet leaves in the cabinet's record: that it has reported, and the condition set it
reported (R63, R67). -/

namespace Sys2Proof.Machine

variable {s : State} {k : Nat} {L : CondSet}

/-! ### The draw of a report, for what any change of a cabinet's state and of the power records keeps -/

theorem shedCheck_of {P : State → Prop} (h : Stable P) (state : ∀ {s} k st u, P s → P (changeState k st u s))
    (power : ∀ {s : State} x, P s → P (s.withPower x)) (hs : P s) : P (shedCheck s) := by
  unfold shedCheck
  split
  · split
    · rename_i c _
      unfold shedOne
      extract_lets x lv s1 s2
      have lowered : P s1 := h.setConsumer _ _ hs
      refine h.withSettle _ (h.raise _ _ _ _ ?_)
      show P (if c < 24 then _ else _)
      split
      · exact state _ _ _ lowered
      · exact lowered
    · split
      · exact hs
      · exact h.raise _ _ _ _ (power _ hs)
  · exact hs

theorem powerReport_of {P : State → Prop} (h : Stable P) (state : ∀ {s} k st u, P s → P (changeState k st u s))
    (power : ∀ {s : State} x, P s → P (s.withPower x)) (c d : Nat) (hs : P s) : P (powerReport c d s) := by
  have added (m e : Nat) {t : State} (ht : P t) : P (addMeter m e t) := by
    unfold addMeter
    dsimp only
    split
    · exact h.raise _ _ _ _ (power _ ht)
    · exact power _ ht
  unfold powerReport
  extract_lets e s1 src s2 s3
  have stored : P s2 := h.setConsumer _ _ (added _ _ (added _ _ hs))
  refine h.restoreCheck (shedCheck_of h state power ?_)
  show P (if s2.measuredTotal ≤ s2.power.shedHigh then _ else _)
  split
  · exact power _ stored
  · exact stored

/-! ### The condition set that a cabinet shows -/

/-- Cabinet `k` has reported, and shows the condition set `L`. -/
def State.Shows (k : Nat) (L : CondSet) (t : State) : Prop := (t.cab k).reported = true ∧ (t.cab k).live = L

namespace State.Shows

theorem setCab {j : Nat} {x : Cab} (hx : x.reported = (s.cab j).reported ∧ x.live = (s.cab j).live) (hs : s.Shows k L) :
    (s.setCab j x).Shows k L := by
  unfold State.Shows
  rw [State.cab_setCab_ite]
  split
  · rename_i e
    obtain ⟨rfl, _⟩ := e
    exact ⟨hx.1.trans hs.1, hx.2.trans hs.2⟩
  · exact hs

theorem stable (k : Nat) (L : CondSet) : Stable (State.Shows k L) where
  calls _ hs := hs
  freeCount _ hs := hs
  offer _ _ hs := hs
  round _ _ hs := hs
  course _ _ _ hs := hs
  earmarks _ hs := hs
  cab _ _ hx hs := hs.setCab ⟨hx.reported, hx.live⟩
  line _ _ _ _ hs := hs
  consumer _ _ hs := setConsumer_keeps (P := State.Shows k L) (fun _ _ h => h) (fun _ _ _ h => h) _ _ hs
  power _ _ _ hs := hs
  paging _ _ hs := hs
  bus _ _ hs := hs
  transfer _ _ _ _ _ hs := hs
  opening _ hs := hs

theorem enter_fields (c : Cab) (st : CabState) : (c.enter st).reported = c.reported ∧ (c.enter st).live = c.live := by
  cases st <;> exact ⟨rfl, rfl⟩

theorem changeState (j : Nat) (st : CabState) (u : Bool) (hs : s.Shows k L) : (changeState j st u s).Shows k L :=
  (stable k L).changeState_of j st u (fun _ => hs.setCab (enter_fields _ _)) hs

/-! ### Loads and draws -/

theorem bandTest (j : Nat) (hs : s.Shows k L) : (bandTest j s).Shows k L := by
  unfold Machine.bandTest
  dsimp only
  split
  · split
    · exact (stable k L).evaluateAll (hs.setCab ⟨rfl, rfl⟩)
    · split
      · exact hs.setCab ⟨rfl, rfl⟩
      · exact hs
  · exact hs

theorem cancelRoute (j : Nat) (r : Route) (hs : s.Shows k L) : (cancelRoute j r s).Shows k L :=
  (stable k L).unrouteRack _ _ ((stable k L).dropRoute _ _ _ hs)

theorem settleRoute (j : Nat) (a b : Route) (hs : s.Shows k L) : (settleRoute j a b s).Shows k L := by
  have loaded : (if b.loaded = a.loaded then s else loadRack b.line b.tag (b.loaded - a.loaded) s).Shows k L := by
    split
    · exact hs
    · exact (stable k L).loadRack _ _ _ hs
  unfold Machine.settleRoute
  extract_lets s1
  split
  · exact (stable k L).leaveExit _ _ _ ((stable k L).dropRoute _ _ _ loaded)
  · exact loaded

theorem addLot_fields (c : Cab) (n now : Nat) : (c.addLot n now).reported = c.reported ∧ (c.addLot n now).live = c.live := by
  unfold Cab.addLot
  dsimp only
  split
  · exact ⟨rfl, rfl⟩
  · split <;> exact ⟨rfl, rfl⟩

theorem mismatched {q : Prop} [Decidable q] (j a b : Nat) (hs : s.Shows k L) :
    (if q then mismatch j a b s else s).Shows k L := by
  split <;> exact hs

theorem loadPlates (j n : Nat) (hs : s.Shows k L) : (loadPlates j n s).Shows k L := by
  have h := stable k L
  unfold Machine.loadPlates
  extract_lets c routed rest filled used excess gone s1 kept room taken s2 claim
  have cancelled : s1.Shows k L :=
    Hush.foldl (f := fun t r => Machine.cancelRoute j r t) (fun r _ ht => cancelRoute j r ht) _ hs
  have unrouted : s2.Shows k L := cancelled.mismatched _ _ _
  split
  · exact unrouted
  · rename_i cls _
    extract_lets applied s3 s4 after src s5 s6 s7
    have moved : s4.Shows k L := mismatched (s := s3) _ _ _ unrouted
    split
    · exact moved
    · have joined : s5.Shows k L := moved.setCab (addLot_fields (s4.cab j) applied s4.now)
      have woken : s6.Shows k L := by
        show (if (s5.cab j).state = .sleep then _ else _ : State).Shows k L
        split
        · exact h.requestHeat _ joined
        · exact joined
      exact h.callRoutes (Hush.foldl (f := fun t (x : Route × Route) => Machine.settleRoute j x.1 x.2 t)
        (fun x _ ht => settleRoute j x.1 x.2 ht) _ (h.evaluateAll (h.walkOwing _ woken)))

theorem applyLoad (j n : Nat) (hs : s.Shows k L) : (applyLoad j n s).Shows k L := by
  unfold Machine.applyLoad
  split
  · exact hs
  · split
    · exact hs
    · exact hs.loadPlates _ _

theorem startPlating (c : Nat) (hs : s.Shows k L) : (startPlating c s).Shows k L := by
  unfold Machine.startPlating Machine.removeBatch
  split
  · split
    · exact hs
    · exact hs.setCab ⟨rfl, rfl⟩
  · exact hs

theorem robYoungest (j : Nat) (hs : s.Shows k L) : (robYoungest j s).Shows k L := by
  unfold Machine.robYoungest
  split <;> exact hs

theorem enterCourse (c : Nat) (st : CourseState) (hs : s.Shows k L) : (enterCourse c st s).Shows k L := hs

theorem settleDraw (c j cls free : Nat) (hs : s.Shows k L) : (settleDraw c j cls free s).Shows k L := by
  have h := stable k L
  unfold Machine.settleDraw
  split
  · exact h.dropEarmark _ _ hs
  · split
    · exact hs
    · split
      · dsimp only
        split
        · exact h.walkOwing _ (h.dropEarmark _ _ hs)
        · exact h.refill _ (h.walkOwing _ (robYoungest _ (h.dropEarmark _ _ hs)))
      · exact h.refill _ (robYoungest (s := setOwed c _ s) _ hs)

theorem singleDraw (j cls : Nat) (o : Option Nat) (hs : s.Shows k L) : (singleDraw j cls o s).Shows k L := by
  have h := stable k L
  unfold Machine.singleDraw
  dsimp only
  split
  · rename_i c
    have taken := (startPlating c hs).setCab (j := j)
      (x := { (Machine.startPlating c s).cab j with lots := takeLots ((Machine.startPlating c s).cab j).lots 1 }) ⟨rfl, rfl⟩
    have settled {t : State} (ht : t.Shows k L) (x : Course) :
        (Machine.settleDraw c j cls (s.freePlates j) (t.setCourse c x)).Shows k L := settleDraw (s := t.setCourse c x) _ _ _ _ ht
    refine h.evaluateAll ?_
    split
    · exact enterCourse _ _ (settled taken _)
    · exact settled taken _
  · have taken := hs.setCab (j := j) (x := { s.cab j with lots := takeLots (s.cab j).lots 1 }) ⟨rfl, rfl⟩
    refine h.evaluateAll ?_
    split
    · exact taken
    · exact h.refill _ (robYoungest (s := addHouse cls 1 _) _ taken)

theorem drawPlates (j cls : Nat) (n : Nat) (o : Option Nat) (hs : s.Shows k L) : (drawPlates j cls n o s).Shows k L := by
  induction n generalizing o s with
  | zero => exact hs
  | succ n ih => exact ih _ (hs.singleDraw j cls o)

theorem applyDraw (j n : Nat) (hs : s.Shows k L) : (applyDraw j n s).Shows k L := by
  unfold Machine.applyDraw
  split
  · exact hs
  · extract_lets lots s1
    have noted : s1.Shows k L := hs.mismatched _ _ _
    split
    · exact noted
    · extract_lets m
      split
      · exact noted
      · exact (stable k L).callRoutes (drawPlates (s := transfer _ _ _ m s1) _ _ _ _ noted)

theorem applyCounters (a j : Nat) (c : Option (Nat × Nat)) (hs : s.Shows k L) : (applyCounters a j c s).Shows k L := by
  unfold Machine.applyCounters
  split
  · exact hs
  · exact applyDraw _ _ (applyLoad (s := State.setNode _ _ _) _ _ hs)

/-! ### Conditions -/

theorem cancelRoutes (j : Nat) (hs : s.Shows k L) : (cancelRoutes j s).Shows k L :=
  Hush.foldl (f := fun t (r : Route) => unrouteRack r.line r.tag t) (fun _ _ ht => (stable k L).unrouteRack _ _ ht) _
    (hs.setCab (j := j) (x := { s.cab j with routes := [] }) ⟨rfl, rfl⟩)

theorem enterFault (j : Nat) (hs : s.Shows k L) : (enterFault j s).Shows k L := by
  have h := stable k L
  have off : (State.setCab s j { s.cab j with wantedOn := false }).Shows k L := hs.setCab ⟨rfl, rfl⟩
  have entered : (faulted j s).Shows k L := cancelRoutes _ (changeState _ _ _ (h.release _ off))
  rw [enterFault_eq]
  exact h.pageKitchen _ _ _ _ (Hush.foldl (f := fun t b => Machine.setOvenFault j b t)
    (fun b t ht => by unfold State.Shows; rw [cab_congr (setOvenFault_rest j b t).1]; exact ht) _ entered)

/-- A report's condition set is the live set from then on (R63). -/
theorem applyConditions {set : CondSet} (hk : k < s.cabs.length) (hs : (s.cab k).reported = true) :
    (applyConditions k set s).Shows k set := by
  have timed {v : State} (h : v.Shows k set) : (conditionTimers k (s.cab k).live set v).Shows k set := by
    have confirmed : (if (set.overtemp = true ∧ (s.cab k).live.overtemp = false) ∧ v.day.state ≠ .lockout ∧
        v.day.confirm.getD k none = none then v.withDay { v.day with confirm := v.day.confirm.set k (some v.day.ms) }
        else v).Shows k set := by
      split <;> exact h
    unfold conditionTimers
    dsimp only
    split
    · exact confirmed.setCab ⟨rfl, rfl⟩
    · split
      · exact confirmed.setCab ⟨rfl, rfl⟩
      · exact confirmed
  have latched : (latch k set s).Shows k set := by
    obtain ⟨b, x, own⟩ := latch_cab set hk
    unfold State.Shows
    rw [own]
    exact ⟨hs, rfl⟩
  by_cases h : newFault set (s.cab k).live ∧ ((latch k set s).cab k).state ≠ .fault
  · rw [applyConditions_fault h.1 h.2]
    exact timed (latched.enterFault k)
  · rw [applyConditions_steady h]
    exact timed latched

theorem confirmLevel (j : Nat) (b : Bool) (m : ElementMode) (hs : s.Shows k L) : (confirmLevel j b m s).Shows k L := by
  unfold Machine.confirmLevel
  split <;> exact hs

theorem judgeReport (j : Nat) (hs : s.Shows k L) : (judgeReport j s).Shows k L := by
  have h := stable k L
  have held (n : Nat) : (Machine.changeState j .holding false (lowerTo j n s)).Shows k L :=
    changeState _ _ _ (h.lowerTo _ _ hs)
  unfold Machine.judgeReport Machine.judgeNow
  dsimp only
  split
  · split
    · exact held _
    · exact hs
  · split
    · split
      · exact held _
      · exact hs
    · split
      · exact h.requestHeat _ hs
      · exact hs
    · exact hs

theorem refreshed (j : Nat) (hs : s.Shows k L) : (s.setCab j (s.cab j).refreshBatches).Shows k L := hs.setCab ⟨rfl, rfl⟩

theorem powerReport (c d : Nat) (hs : s.Shows k L) : (powerReport c d s).Shows k L :=
  powerReport_of (stable k L) (fun _ _ _ h => h.changeState _ _ _) (fun _ h => h) c d hs

end State.Shows

/-! ### The steps of a report before and after the counters (R67) -/

/-- The measured fields of a report are stored. -/
def reportStored (k : Nat) (r : CabinetRep) (s : State) : State :=
  s.setCab k { s.cab k with temp := r.temp, level := r.level, draw := r.draw, reported := true }

/-- The conditions, the temperature and the draw of a report; `running` says that the confirm timer ran before it. -/
def reportJudged (k : Nat) (r : CabinetRep) (running : Bool) (s : State) : State :=
  let s := confirmLevel k running r.level (applyConditions k r.conds s)
  let s := if (s.cab k).state = .fault then s else judgeReport k s
  let s := if (s.cab k).isOven then s.setCab k (s.cab k).refreshBatches else s
  powerReport k r.draw (powerTry s)

theorem applyCabinetReport_eq (a k : Nat) (r : CabinetRep) (s : State) :
    applyCabinetReport a k r s = reportJudged k r (s.day.confirm.getD k none).isSome
      (applyCounters a k r.counters (bandTest k (reportStored k r s))) := rfl

theorem Work.reportJudged {P : State → Prop} (h : Work P) (k : Nat) (r : CabinetRep) (b : Bool) (hs : P s) :
    P (reportJudged k r b s) := by
  unfold Machine.reportJudged
  extract_lets s1 s2 s3
  have proved : P s1 := h.confirmLevel _ _ _ (h.applyConditions _ _ hs)
  have moved : P s2 := by
    show P (if (s1.cab k).state = .fault then _ else _)
    split
    · exact proved
    · exact h.judgeReport _ proved
  have refreshed : P s3 := by
    show P (if (s2.cab k).isOven then _ else _)
    split
    · exact h.setCab _ _ (refreshBatches_config _) moved
    · exact moved
  exact h.powerReport _ _ (h.powerTry refreshed)

theorem reportJudged_shows (r : CabinetRep) (b : Bool) (hk : k < s.cabs.length) (hs : (s.cab k).reported = true) :
    (reportJudged k r b s).Shows k r.conds := by
  unfold reportJudged
  extract_lets s1 s2 s3
  have proved : s1.Shows k r.conds := (State.Shows.applyConditions hk hs).confirmLevel _ _ _
  have moved : s2.Shows k r.conds := by
    show (if (s1.cab k).state = .fault then _ else _ : State).Shows k r.conds
    split
    · exact proved
    · exact proved.judgeReport k
  have refreshed : s3.Shows k r.conds := by
    show (if (s2.cab k).isOven then _ else _ : State).Shows k r.conds
    split
    · exact moved.refreshed k
    · exact moved
  exact ((State.Shows.stable k r.conds).powerTry refreshed).powerReport _ _

theorem reportStored_cab (r : CabinetRep) (hk : k < s.cabs.length) :
    (reportStored k r s).cab k = { s.cab k with temp := r.temp, level := r.level, draw := r.draw, reported := true } :=
  State.cab_setCab _ _ _ hk

/-- After its report a cabinet has reported, and shows the conditions reported (R63, R67). -/
theorem applyCabinetReport_shows (a : Nat) (r : CabinetRep) (hk : k < 24) (hs : Sized s) :
    (applyCabinetReport a k r s).Shows k r.conds := by
  have stored : (reportStored k r s).Shows k ((reportStored k r s).cab k).live := by
    refine ⟨?_, rfl⟩
    rw [reportStored_cab r (by rw [hs.cabs]; exact hk)]
  have h := Ground.calm (reportStored k r s)
  have sized := (h.applyCounters a k r.counters (h.bandTest k (Ground.refl _))).sizes (hs.setCab _ _)
  rw [applyCabinetReport_eq]
  exact reportJudged_shows _ _ (by rw [sized.cabs]; exact hk) ((stored.bandTest k).applyCounters a k r.counters).1

/-! ### What any change of node records keeps, through an answer -/

namespace Heard

variable {P : State → Prop} (h : Heard P)
include h

theorem answered (a : Nat) (hs : P s) : P (answered a s) := by
  unfold Machine.answered
  dsimp only
  split
  · exact h.tellBack _ (h.anyNode _ _ hs)
  · exact h.anyNode _ _ hs

theorem applyCounters (a k : Nat) (c : Option (Nat × Nat)) (hs : P s) : P (applyCounters a k c s) := by
  unfold Machine.applyCounters
  split
  · exact hs
  · exact h.applyDraw _ _ (h.applyLoad _ _ (h.anyNode _ _ hs))

/-- A report's later steps, once its measured fields are stored. -/
theorem applyCabinetReport (a k : Nat) (r : CabinetRep) (hs : P (reportStored k r s)) : P (applyCabinetReport a k r s) := by
  rw [applyCabinetReport_eq]
  exact h.reportJudged _ _ _ (h.applyCounters _ _ _ (h.bandTest _ hs))

end Heard

end Sys2Proof.Machine
end

section
/-! SUPPORT. What an answered POLL leaves of a line, of the node's record and of what only the bus does (R82, R145,
R151–R155). -/

namespace Sys2Proof.Machine

variable {s : State}

/-! ### A line's rinse and conveyor -/

/-- Line `l` shows the rinse `x`, and its conveyor runs or not. -/
def State.Turns (l : Nat) (x : Int) (run : Bool) (t : State) : Prop := (t.line l).rinse = x ∧ (t.line l).running = run

namespace State.Turns

variable {l : Nat} {x : Int} {run : Bool}

theorem setLine {j : Nat} {y : Line} (hy : y.rinse = (s.line j).rinse ∧ y.running = (s.line j).running)
    (hs : s.Turns l x run) : (s.setLine j y).Turns l x run := by
  unfold State.Turns
  rw [State.line_setLine_ite]
  split
  · rename_i e
    obtain ⟨rfl, _⟩ := e
    exact ⟨hy.1.trans hs.1, hy.2.trans hs.2⟩
  · exact hs

theorem of_lines {t : State} (h : t.lines = s.lines) (hs : s.Turns l x run) : t.Turns l x run := by
  unfold State.Turns State.line
  rw [h]
  exact hs

theorem stable (l : Nat) (x : Int) (run : Bool) : Stable (State.Turns l x run) where
  calls _ hs := hs
  freeCount _ hs := hs
  offer _ _ hs := hs
  round _ _ hs := hs
  course _ _ _ hs := hs
  earmarks _ hs := hs
  cab _ _ _ hs := hs
  line _ _ hy _ hs := hs.setLine ⟨hy.rinse, hy.running⟩
  consumer _ _ hs := setConsumer_keeps (P := State.Turns l x run) (fun _ _ h => h)
    (fun _ _ hy hs => hs.setLine ⟨hy.rinse, hy.running⟩) _ _ hs
  power _ _ _ hs := hs
  paging _ _ hs := hs
  bus _ _ hs := hs
  transfer _ _ _ _ _ hs := hs
  opening _ hs := hs

theorem changeState (k : Nat) (st : CabState) (u : Bool) (hs : s.Turns l x run) : (changeState k st u s).Turns l x run := by
  refine hs.of_lines ((changeState_beside k st u s).lines.trans ?_)
  split <;> rfl

theorem powerReport (c d : Nat) (hs : s.Turns l x run) : (powerReport c d s).Turns l x run :=
  powerReport_of (stable l x run) (fun _ _ _ h => h.changeState _ _ _) (fun _ h => h) c d hs

theorem holdRack (j : Nat) (r : Rack) (why : HoldReason) (hs : s.Turns l x run) : (holdRack j r why s).Turns l x run := by
  have h := stable l x run
  have held (y : List Rack) : (withExits j y s).Turns l x run := hs.setLine ⟨rfl, rfl⟩
  unfold Machine.holdRack
  dsimp only
  refine h.callClose ?_
  split
  · exact h.pageDish _ _ _ _ (held _)
  · exact h.pageDish _ _ _ _ (held _)

theorem enterEvent (j tag : Nat) (hs : s.Turns l x run) : (enterEvent j tag s).Turns l x run := by
  unfold Machine.enterEvent
  dsimp only
  split
  · exact hs
  · exact hs.setLine ⟨rfl, rfl⟩

theorem exitEvent (j tag : Nat) (y : Int) (hs : s.Turns l x run) : (exitEvent j tag y s).Turns l x run := by
  have h := stable l x run
  unfold Machine.exitEvent
  dsimp only
  split
  · exact hs
  · have inside (rs : List Rack) : (withInside j rs s).Turns l x run := hs.setLine ⟨rfl, rfl⟩
    have skipped (rs held : List Rack) :
        (held.foldl (fun t y => Machine.holdRack j y .skipped t) (withInside j rs s)).Turns l x run :=
      Hush.foldl (f := fun t y => Machine.holdRack j y .skipped t) (fun y _ ht => holdRack j y _ ht) held (inside rs)
    have out {t : State} (rs : List Rack) (ht : t.Turns l x run) : (withExits j rs t).Turns l x run := ht.setLine ⟨rfl, rfl⟩
    split
    · exact h.backpressure _ (holdRack _ _ _ (skipped _ _))
    · exact h.routingPass _ (h.backpressure _ (h.callClose (out _ (skipped _ _))))

theorem applyEvent (j : Nat) (e : RackEvent) (hs : s.Turns l x run) : (applyEvent j e s).Turns l x run := by
  have marked : (s.setLine j { s.line j with lastEvent := some (RackEvent.seq e) }).Turns l x run := hs.setLine ⟨rfl, rfl⟩
  cases e with
  | enter q tag => exact marked.enterEvent j tag
  | exit q tag y => exact marked.exitEvent j tag y

theorem windowEvent (j : Nat) (e : RackEvent) (hs : s.Turns l x run) : (windowEvent j e s).Turns l x run := by
  unfold Machine.windowEvent
  split
  · exact hs.applyEvent _ _
  · dsimp only
    split
    · refine applyEvent _ _ ?_
      split <;> exact hs
    · exact hs

theorem applyEvents (j : Nat) (es : List RackEvent) (hs : s.Turns l x run) : (applyEvents j es s).Turns l x run := by
  unfold Machine.applyEvents
  split
  · exact Hush.foldl (f := fun t e => Machine.applyEvent j e t) (fun e _ ht => applyEvent j e ht) es hs
  · exact Hush.foldl (f := fun t e => Machine.windowEvent j e t) (fun e _ ht => windowEvent j e ht) es hs

theorem applyRinse (y : Int) (hl : l < s.lines.length) : (applyRinse l y s).Turns l y (s.line l).running := by
  have stored : (s.setLine l { s.line l with rinse := y }).Turns l y (s.line l).running := by
    unfold State.Turns
    rw [State.line_setLine _ _ _ hl]
    exact ⟨rfl, rfl⟩
  unfold Machine.applyRinse
  dsimp only
  split
  · exact stored.setLine ⟨rfl, rfl⟩
  · split
    · exact stored.setLine (s := s.setLine l { s.line l with rinse := y }) ⟨rfl, rfl⟩
    · exact stored

end State.Turns

/-- A line after its node's report (R82, R94). -/
theorem applyWasherReport_turns {l : Nat} (r : WasherRep) (hs : Sized s) (hl : l < 2) :
    (applyWasherReport l r s).Turns l r.rinse r.running := by
  have h := State.Turns.stable l r.rinse (s.line l).running
  have g := State.Turns.stable l r.rinse r.running
  have c := Ground.calm s
  unfold applyWasherReport
  extract_lets s1 s2
  have events : s1.Turns l r.rinse (s.line l).running :=
    h.conveyorSync _ _ ((State.Turns.applyRinse r.rinse (by rw [hs.lines]; exact hl)).applyEvents l r.events)
  have sized : Sized s1 := (c.conveyorSync _ _ (c.applyEvents _ _ (c.applyRinse _ _ (Ground.refl s)))).sizes hs
  have turned : s2.Turns l r.rinse r.running := by
    unfold State.Turns
    rw [show s2.line l = { s1.line l with running := r.running } from
      setRunning_line r.running (by rw [sized.lines]; exact hl)]
    exact ⟨events.1, rfl⟩
  exact g.conveyorSync _ _ ((g.powerTry turned).powerReport _ _)

/-! ### The last steps of an answer: reconciliation, fetch-ahead and the poll timer (R151, R153, R155) -/

theorem reconcile_of {P : State → Prop} (h : Hush P) (a : Nat) (body : RespBody) (hs : P s) : P (reconcile a body s) := by
  unfold reconcile
  extract_lets n differs
  split
  · exact h.queueSet _ _ hs
  · exact hs

theorem setFetchAhead_eq (a : Nat) (s : State) : ∃ b, setFetchAhead a s = s.withBus b := by
  unfold setFetchAhead
  dsimp only
  split <;> exact ⟨_, rfl⟩

theorem refreshPoll_eq (a : Nat) (s : State) : ∃ b, refreshPoll a s = s.withBus b := by
  unfold refreshPoll
  dsimp only
  split
  · exact ⟨_, rfl⟩
  · exact ⟨s.bus, rfl⟩

theorem restartPoll_eq (a : Nat) (s : State) : ∃ b, restartPoll a s = s.withBus b := by
  unfold restartPoll
  dsimp only
  split
  · exact ⟨_, rfl⟩
  · exact ⟨s.bus, rfl⟩

/-- The last steps of an answered POLL write the bus alone. -/
theorem polled_eq (a : Nat) (u : Bool) (s : State) : ∃ b, polled a u s = s.withBus b := by
  unfold polled
  have flagged : ∃ b, (if u then setFetchAhead a s else s.setNode a { s.node a with fetchAhead := false }) = s.withBus b := by
    split
    · exact setFetchAhead_eq a s
    · exact ⟨_, rfl⟩
  obtain ⟨b, e⟩ := flagged
  rw [e]
  obtain ⟨c, e⟩ := refreshPoll_eq a (s.withBus b)
  rw [e]
  obtain ⟨d, e⟩ := restartPoll_eq a ((s.withBus b).withBus c)
  rw [e]
  exact ⟨d, rfl⟩

/-- What an answered POLL leaves of a property that the bus is no part of. -/
theorem finish_polled_of {P : State → Prop} (h : Stable P) (bus : ∀ {s : State} b, P s → P (s.withBus b)) (a : Nat)
    (u : Bool) (body : RespBody) (hs : P s) : P (finish (polled a u (reconcile a body s))) := by
  obtain ⟨b, e⟩ := polled_eq a u (reconcile a body s)
  rw [e]
  exact h.finish (bus b (reconcile_of h.toHush a body hs))

/-! ### The node that answered (R145, R151) -/

/-- A node's record at a valid response. -/
def Node.heard (clock : Nat) (n : Node) : Node :=
  { n with lastResp := some clock, misses := 0, silence := none, presence := .present }

/-- The counters of a report are the node's baselines (R68). -/
def Node.based (c : Option (Nat × Nat)) (n : Node) : Node :=
  match c with
  | none => n
  | some (ld, dr) => { n with loadBase := some ld, drawBase := some dr }

theorem tellBack_nodes (b : Binding) (s : State) : (tellBack b s).bus.nodes = s.bus.nodes := by
  unfold tellBack
  split
  · rfl
  · exact selectPass_nodes s
  · rfl

theorem answered_node {a : Nat} (h1 : 1 ≤ a) (h31 : a ≤ 31) (hs : s.bus.nodes.length = 31) :
    (answered a s).node a = (s.node a).heard s.day.clock := by
  have own := node_setNode (s := s) ((s.node a).heard s.day.clock) h1 h31 hs
  unfold answered
  dsimp only
  split
  · exact (node_congr (tellBack_nodes _ _) a).trans own
  · exact own

theorem Work.node_keeps {f : State → State} (hf : ∀ {P : State → Prop}, Work P → ∀ {t}, P t → P (f t)) (a : Nat) (s : State) :
    NodeKeeps (s.node a) ((f s).node a) :=
  (hf (BusKept.work s.bus) (BusKeeps.refl s.bus)).nodes (State.nodeIdx a)

theorem NodeKeeps.based {c : Option (Nat × Nat)} {n m : Node} (h : NodeKeeps n m) : NodeKeeps (n.based c) (m.based c) := by
  cases c with
  | none => exact h
  | some x => exact { h with loadBase := rfl, drawBase := rfl }

theorem applyCounters_node {a : Nat} (k : Nat) (c : Option (Nat × Nat)) (h1 : 1 ≤ a) (h31 : a ≤ 31)
    (hs : s.bus.nodes.length = 31) : NodeKeeps ((s.node a).based c) ((applyCounters a k c s).node a) := by
  cases c with
  | none => exact NodeKeeps.refl _
  | some x =>
    have own := node_setNode (s := s) ((s.node a).based (some x)) h1 h31 hs
    have counted := Work.node_keeps (f := fun t => applyDraw k (counterDelta (s.node a).drawBase x.2)
      (applyLoad k (counterDelta (s.node a).loadBase x.1) t)) (fun h _ ht => h.applyDraw _ _ (h.applyLoad _ _ ht)) a
      (s.setNode a ((s.node a).based (some x)))
    rw [own] at counted
    exact counted

/-- A report of a cabinet changes the record of its node in the baselines alone (R68). -/
theorem applyCabinetReport_node {a : Nat} (k : Nat) (r : CabinetRep) (h1 : 1 ≤ a) (h31 : a ≤ 31) (hs : Sized s) :
    NodeKeeps ((s.node a).based r.counters) ((applyCabinetReport a k r s).node a) := by
  have tested : NodeKeeps (s.node a) ((bandTest k (reportStored k r s)).node a) :=
    Work.node_keeps (fun h _ ht => h.bandTest k ht) a (reportStored k r s)
  have sized : Sized (bandTest k (reportStored k r s)) :=
    ((Ground.calm _).bandTest k (Ground.refl (reportStored k r s))).sizes (hs.setCab _ _)
  rw [applyCabinetReport_eq]
  exact (tested.based.trans (applyCounters_node k r.counters h1 h31 sized.nodes)).trans
    (Work.node_keeps (fun h _ ht => h.reportJudged _ _ _ ht) a _)

theorem polled_node {a : Nat} (u : Bool) (h1 : 1 ≤ a) (h31 : a ≤ 31) (hs : s.bus.nodes.length = 31) :
    NodeKeeps { s.node a with fetchAhead := u } ((polled a u s).node a) := by
  have flagged : (if u then setFetchAhead a s else s.setNode a { s.node a with fetchAhead := false }).node a =
      { s.node a with fetchAhead := u } := by
    cases u with
    | false => exact node_setNode _ h1 h31 hs
    | true =>
      show (setFetchAhead a s).node a = _
      unfold setFetchAhead
      dsimp only
      split <;> exact node_setNode (s := s) _ h1 h31 hs
  have kept := Work.node_keeps (f := fun t => restartPoll a (refreshPoll a t))
    (fun h _ ht => h.restartPoll a (h.refreshPoll a ht)) a
    (if u then setFetchAhead a s else s.setNode a { s.node a with fetchAhead := false })
  rw [flagged] at kept
  exact kept

theorem polled_guarded (a : Nat) (u : Bool) (hs : s.Guarded) : (polled a u s).Guarded := by
  have h := State.Guarded.heard
  refine h.restartPoll _ (h.refreshPoll _ ?_)
  split
  · unfold setFetchAhead
    dsimp only
    split <;> exact hs
  · exact hs

end Sys2Proof.Machine
end

section
/-! SUPPORT. The report of the page base (R121, R128, R132, R133): transmissions, acknowledgements and check-ins. -/

namespace Sys2Proof.Machine

variable {s : State}

/-! ### A team's rate (R128) -/

theorem teamOf_eq_some {g : Target} {t : Nat} (h : g = .team t ∨ ∃ x, g = .pager x ∧ t = x / 16) : g.teamOf = some t := by
  rcases h with rfl | ⟨x, rfl, rfl⟩ <;> rfl

theorem countRate_urgent {g : Page} (h : g.prio = .urgent) : countRate g s = s := by
  unfold countRate
  split
  · rfl
  · exact if_pos h

theorem countRate_all {g : Page} (h : g.target = .all) : countRate g s = s := by
  unfold countRate
  rw [h]
  rfl

theorem setRate_of_pos {t : Nat} (ht : t ≠ 0) (r : Rate) (s : State) :
    setRate t r s = s.withPaging { s.paging with rates := s.paging.rates.set (t - 1) r } := if_neg ht

theorem countRate_team {g : Page} {t : Nat} (h : g.target.teamOf = some t) (hp : g.prio ≠ .urgent) :
    ((s.rate t).ends = none → countRate g s = setRate t ⟨1, some (s.now + 10)⟩ s) ∧
      ∀ e, (s.rate t).ends = some e → (s.rate t).count < 255 → countRate g s = setRate t ⟨(s.rate t).count + 1, some e⟩ s := by
  unfold countRate
  rw [h]
  dsimp only
  rw [if_neg hp]
  refine ⟨fun hn => by rw [hn]; rfl, fun e he hc => ?_⟩
  rw [he]
  exact if_pos hc

theorem countRate_pages (g : Page) (s : State) : (countRate g s).paging.pages = s.paging.pages := by
  have set (t : Nat) (r : Rate) (v : State) : (setRate t r v).paging.pages = v.paging.pages := by
    unfold setRate
    split <;> rfl
  unfold countRate
  split
  · rfl
  · split
    · rfl
    · dsimp only
      split
      · exact set _ _ _
      · split
        · exact set _ _ _
        · exact set _ _ _

/-! ### Transmitted and acknowledged pages (R132, R133) -/

theorem applyTransmitted_unknown {id : Nat} (h : s.page id = none) : applyTransmitted id s = s := by
  unfold applyTransmitted
  rw [h]

theorem applyAck_unknown {id : Nat} (h : s.page id = none) : applyAck id s = s := by
  unfold applyAck
  rw [h]

theorem applyTransmitted_known {id : Nat} {g : Page} (h : s.page id = some g) :
    applyTransmitted id s =
      if g.state = .handed then
        if g.cancelMark then endPage id .cancelled s
        else countRate g (paged id (fun q => { q with state := .sent, resendEnd := some (s.day.clock + 30) }) s)
      else s := by
  unfold applyTransmitted
  rw [h]
  rfl

theorem applyAck_known {id : Nat} {g : Page} (h : s.page id = some g) :
    applyAck id s =
      if g.state = .handed then
        if g.cancelMark then endPage id .cancelled s else endPage id .acked (countRate g s)
      else endPage id .acked s := by
  unfold applyAck
  rw [h]

/-! ### The directory (R121) -/

theorem dirFind_first {a i : Nat} {e : Pager} (h : s.paging.dir[i]? = some (some e)) (he : e.addr = a)
    (before : ∀ j x, j < i → s.paging.dir[j]? = some (some x) → x.addr ≠ a) : s.dirFind a = some i := by
  obtain ⟨hi, own⟩ := List.getElem?_eq_some_iff.1 h
  unfold State.dirFind
  rw [List.findIdx?_eq_some_iff_getElem]
  refine ⟨hi, by rw [own]; exact decide_eq_true he, fun j hj => ?_⟩
  have hjl : j < s.paging.dir.length := Nat.lt_trans hj hi
  cases hx : s.paging.dir[j] with
  | none => exact Bool.false_ne_true
  | some x =>
    have named := before j x hj (List.getElem?_eq_some_iff.2 ⟨hjl, hx⟩)
    simpa using named

theorem unusedEntry_first {d : List (Option Pager)} {i : Nat} (h : d[i]? = some none) (before : none ∉ d.take i) :
    d.findIdx? Option.isNone = some i := by
  obtain ⟨hi, own⟩ := List.getElem?_eq_some_iff.1 h
  rw [List.findIdx?_eq_some_iff_getElem]
  refine ⟨hi, by rw [own]; rfl, fun j hj e => before ?_⟩
  rw [Option.isNone_iff_eq_none] at e
  rw [← e]
  exact List.mem_take_iff_getElem.2 ⟨j, by omega, rfl⟩

theorem unusedEntry_none {d : List (Option Pager)} (h : none ∉ d) : d.findIdx? Option.isNone = none := by
  rw [List.findIdx?_eq_none_iff]
  intro x hx
  cases x with
  | none => exact absurd hx h
  | some e => rfl

theorem oldestAbsent_none (h : ∀ e, some e ∈ s.paging.dir → e.present = true) : s.oldestAbsent = none := by
  unfold State.oldestAbsent
  rw [List.filterMap_eq_nil_iff.2]
  · rfl
  · rintro ⟨x, j⟩ hx
    cases x with
    | none => rfl
    | some e => exact if_pos (h e (List.fst_mem_of_mem_zipIdx hx))

theorem presentPagers_all (full : none ∉ s.paging.dir) (h : ∀ e, some e ∈ s.paging.dir → e.present = true) :
    s.presentPagers = s.paging.dir.length := by
  unfold State.presentPagers
  rw [List.filter_eq_self.2]
  intro x hx
  cases x with
  | none => exact absurd hx full
  | some e => exact h e hx

theorem refreshPager_known {a i : Nat} (h : s.dirFind a = some i) : refreshPager a s = setDir i ⟨a, true, s.now⟩ s := by
  unfold refreshPager
  rw [h]

theorem refreshPager_unknown {a : Nat} (h : s.dirFind a = none) : refreshPager a s = s := by
  unfold refreshPager
  rw [h]

theorem applyCheckIn_known {a i : Nat} (valid : isPager a = true) (h : s.dirFind a = some i) :
    applyCheckIn a s = refreshPager a s := by
  unfold applyCheckIn
  rw [if_pos valid, h]

theorem applyCheckIn_unused {a i : Nat} (valid : isPager a = true) (h : s.dirFind a = none)
    (hi : s.paging.dir.findIdx? Option.isNone = some i) : applyCheckIn a s = setDir i ⟨a, true, s.now⟩ s := by
  unfold applyCheckIn
  rw [if_pos valid, h, hi]

theorem applyCheckIn_reused {a i : Nat} (valid : isPager a = true) (h : s.dirFind a = none)
    (full : s.paging.dir.findIdx? Option.isNone = none) (hi : s.oldestAbsent = some i) :
    applyCheckIn a s = setDir i ⟨a, true, s.now⟩ s := by
  unfold applyCheckIn
  rw [if_pos valid, h, full, hi]

/-- A new pager finds every entry PRESENT. -/
theorem applyCheckIn_full {a : Nat} (valid : isPager a = true) (h : s.dirFind a = none)
    (full : s.paging.dir.findIdx? Option.isNone = none) (present : s.oldestAbsent = none) :
    applyCheckIn a s =
      if s.paging.dirFull then s
      else
        (raise .directoryFull a s.presentPagers 0 s).withPaging
          { (raise .directoryFull a s.presentPagers 0 s).paging with dirFull := true } := by
  unfold applyCheckIn
  rw [if_pos valid, h, full, present]

theorem applyCheckIn_invalid {a : Nat} (invalid : ¬isPager a = true) : applyCheckIn a s = s := if_neg invalid

end Sys2Proof.Machine

namespace Sys2Proof.Certificates

open Sys2Proof.Machine

/-- A page reported transmitted or acknowledged (R132, R133). -/
theorem transmitted_clauses (id : Nat) (s : State) :
    (s.page id = none → applyTransmitted id s = s ∧ applyAck id s = s) ∧
      ∀ g, s.page id = some g →
        (g.state ≠ .handed → applyTransmitted id s = s ∧ applyAck id s = ended g 0 s) ∧
          (g.state = .handed → g.cancelMark = true →
            applyTransmitted id s = ended g 4 s ∧ applyAck id s = ended g 4 s) ∧
          (g.state = .handed → g.cancelMark = false →
            applyTransmitted id s =
                countRate g (paged id (fun q => { q with state := .sent, resendEnd := some (s.day.clock + 30) }) s) ∧
              applyAck id s = ended g 0 (countRate g s)) := by
  refine ⟨fun h => ⟨applyTransmitted_unknown h, applyAck_unknown h⟩, fun g h => ?_⟩
  have sent := applyTransmitted_known h
  have acked := applyAck_known h
  have counted : (countRate g s).page id = some g := by
    unfold State.page
    rw [countRate_pages]
    exact h
  refine ⟨fun hs => ⟨sent.trans (if_neg hs), acked.trans ((if_neg hs).trans (endPage_eq_ended h .acked))⟩,
    fun hs hm => ⟨sent.trans ((if_pos hs).trans ((if_pos hm).trans (endPage_eq_ended h .cancelled))),
      acked.trans ((if_pos hs).trans ((if_pos hm).trans (endPage_eq_ended h .cancelled)))⟩,
    fun hs hm => ⟨sent.trans ((if_pos hs).trans (if_neg (Bool.eq_false_iff.1 hm))),
      acked.trans ((if_pos hs).trans ((if_neg (Bool.eq_false_iff.1 hm)).trans (endPage_eq_ended counted .acked)))⟩⟩

/-- A check-in, and the refresh that an acknowledgement makes (R121). -/
theorem directory_clauses (a : Nat) (s : State) :
    let d := s.paging.dir
    let put := fun (i : Nat) => s.withPaging { s.paging with dir := d.set i (some ⟨a, true, s.day.clock⟩) }
    let known := ∃ e, some e ∈ d ∧ e.addr = a
    let valid := 0x10 ≤ a ∧ a ≤ 0xEF
    (∀ i e, d[i]? = some (some e) → e.addr = a → (∀ j x, j < i → d[j]? = some (some x) → x.addr ≠ a) →
      refreshPager a s = put i ∧ (valid → applyCheckIn a s = put i)) ∧
      (¬known →
        refreshPager a s = s ∧ ∀ i, valid → d[i]? = some none → none ∉ d.take i → applyCheckIn a s = put i) ∧
      (valid → ¬known → none ∉ d →
        (∀ i e, d[i]? = some (some e) → e.present = false →
          (∀ j x, d[j]? = some (some x) → x.present = false →
            e.lastSeen < x.lastSeen ∨ e.lastSeen = x.lastSeen ∧ i ≤ j) →
          applyCheckIn a s = put i) ∧
          ((∀ e, some e ∈ d → e.present = true) →
            (s.paging.dirFull = true → applyCheckIn a s = s) ∧
              (s.paging.dirFull = false →
                let v := raise .directoryFull a d.length 0 s
                applyCheckIn a s = v.withPaging { v.paging with dirFull := true }))) ∧
      (¬valid → applyCheckIn a s = s) := by
  intro d put known valid
  have pager : isPager a = true ↔ valid := isPager_iff a
  refine ⟨fun i e hi he hb => ?_, fun hk => ⟨refreshPager_unknown (dirFind_none hk), fun i hv hi hb =>
    applyCheckIn_unused (pager.2 hv) (dirFind_none hk) (unusedEntry_first hi hb)⟩, fun hv hk hn => ?_,
    fun hv => applyCheckIn_invalid (mt pager.1 hv)⟩
  · have found := dirFind_first hi he hb
    have refreshed : refreshPager a s = put i := refreshPager_known found
    exact ⟨refreshed, fun hv => (applyCheckIn_known (pager.2 hv) found).trans refreshed⟩
  · refine ⟨fun i e hi he least => applyCheckIn_reused (pager.2 hv) (dirFind_none hk) (unusedEntry_none hn)
      (oldestAbsent_eq hi he least), fun hp => ?_⟩
    · rw [applyCheckIn_full (pager.2 hv) (dirFind_none hk) (unusedEntry_none hn) (oldestAbsent_none hp),
        presentPagers_all hn hp]
      exact ⟨fun h => if_pos h, fun h => if_neg (Bool.eq_false_iff.1 h)⟩

/-- A transmission counts against the rate of its team (R128). -/
theorem countRate_clauses (g : Page) (s : State) :
    (g.prio = .urgent ∨ g.target = .all → countRate g s = s) ∧
      ∀ tm, g.target = .team tm ∨ (∃ x, g.target = .pager x ∧ tm = x / 16) → g.prio ≠ .urgent → 1 ≤ tm → tm ≤ 14 →
        let r := s.paging.rates.getD (tm - 1) ⟨0, none⟩
        let counted := fun (x : Rate) => s.withPaging { s.paging with rates := s.paging.rates.set (tm - 1) x }
        (r.ends = none → countRate g s = counted ⟨1, some (s.day.clock + 10)⟩) ∧
          ∀ e, r.ends = some e → r.count < 255 → countRate g s = counted ⟨r.count + 1, some e⟩ := by
  refine ⟨fun h => h.elim countRate_urgent countRate_all, fun tm ht hp h1 _ => ?_⟩
  intro r counted
  have pos : tm ≠ 0 := by omega
  have rate : s.rate tm = r := if_neg pos
  obtain ⟨opens, counts⟩ := countRate_team (s := s) (teamOf_eq_some ht) hp
  rw [rate] at opens counts
  exact ⟨fun h => (opens h).trans (setRate_of_pos pos _ s), fun e he hc => (counts e he hc).trans (setRate_of_pos pos _ s)⟩

end Sys2Proof.Certificates
end

section
/-! SUPPORT. A report that answers the POLL in flight (R151). -/

namespace Sys2Proof.Machine

variable {s v : State} {a : Nat} {u : Bool} {f : InFlight} {body : RespBody}

/-! ### What a response is applied to -/

theorem applyResponse_poll (hx : f.tx = .poll a) (answering : (s.node a).answering = true) :
    applyResponse f a body u s = polled a u (reconcile a body (applyBody f a body (answered a s))) := by
  cases u <;> simp [applyResponse, polled, hx, answering, Tx.isIdentify, Tx.isPoll]

theorem applyBody_cabinet {r : CabinetRep} {k : Nat} (h : (s.node a).binding = .cabinet k) :
    applyBody f a (.cabinet r) s = applyCabinetReport a k r s := by
  unfold applyBody
  rw [h]

theorem applyBody_washer {r : WasherRep} {l : Nat} (h : (s.node a).binding = .line l) :
    applyBody f a (.washer r) s = applyWasherReport l r s := by
  unfold applyBody
  rw [h]

theorem applyBody_base {r : BaseRep} (h : (s.node a).binding = .base) :
    applyBody f a (.base r) s = applyBaseReport r s := by
  unfold applyBody
  rw [h]

/-- The report of an unbound node is discarded (R151). -/
theorem applyBody_unbound (h : (s.node a).binding = .unbound)
    (report : (∃ r, body = .cabinet r) ∨ (∃ r, body = .washer r) ∨ ∃ r, body = .base r) : applyBody f a body s = s := by
  unfold applyBody
  rw [h]
  rcases report with ⟨r, rfl⟩ | ⟨r, rfl⟩ | ⟨r, rfl⟩ <;> rfl

/-! ### The node after the report -/

theorem heard_node (h1 : 1 ≤ a) (h31 : a ≤ 31) (hs : Sized s) : (heard a s).node a = (s.node a).heard s.day.clock :=
  answered_node (s := endTx s) h1 h31 hs.nodes

theorem heard_sized (hs : Sized s) : Sized (heard a s) :=
  ((Ground.calm s).answered a ((Ground.calm s).endTx (Ground.refl s))).sizes hs

theorem heard_guarded (a : Nat) (s : State) : (heard a s).Guarded := State.Guarded.heard.answered a (endTx_guarded s)

/-- The last steps of an answered POLL change the record of its node in fetch-ahead alone, of what a node keeps. -/
theorem finish_polled_node (h1 : 1 ≤ a) (h31 : a ≤ 31) (hs : Sized s) :
    NodeKeeps { s.node a with fetchAhead := u } ((finish (polled a u (reconcile a body s))).node a) := by
  have reconciled : NodeKeeps (s.node a) ((reconcile a body s).node a) :=
    Work.node_keeps (fun h _ ht => h.reconcile a body ht) a s
  have sized : Sized (reconcile a body s) := ((Ground.calm s).reconcile a body (Ground.refl s)).sizes hs
  have flagged : NodeKeeps { s.node a with fetchAhead := u } { (reconcile a body s).node a with fetchAhead := u } :=
    { reconciled with fetchAhead := rfl }
  exact (flagged.trans (polled_node u h1 h31 sized.nodes)).trans ((finish_floor _).bus.nodes _)

/-- A report that answers the POLL in flight: `v` is what the block bound to the node makes of it. -/
theorem receive_report {c : Option (Nat × Nat)} (hs : Sized s) (h1 : 1 ≤ a) (h31 : a ≤ 31) (awaits : s.awaiting = some f)
    (hx : f.tx = .poll a) (answering : (s.node a).answering = true) (ok : s.answers f.tx a body = true)
    (applied : applyBody f a body (heard a s) = v) (guarded : v.Guarded)
    (node : NodeKeeps (((s.node a).heard s.day.clock).based c) (v.node a)) :
    receive a body u s = finish (polled a u (reconcile a body v)) ∧ Ground s (receive a body u s) ∧
      (receive a body u s).Guarded ∧
      NodeKeeps { ((s.node a).heard s.day.clock).based c with fetchAhead := u } ((receive a body u s).node a) := by
  have ran : receive a body u s = finish (polled a u (reconcile a body v)) := by
    rw [receive_answered awaits ok, applyResponse_poll (s := endTx s) hx answering, ← applied]
    rfl
  have ground := Ground.calm s
  have sized : Sized v := by
    rw [← applied]
    exact (ground.applyBody f a body (ground.answered a (ground.endTx (Ground.refl s)))).sizes hs
  have g := State.Guarded.heard
  have own : NodeKeeps { ((s.node a).heard s.day.clock).based c with fetchAhead := u } { v.node a with fetchAhead := u } :=
    { node with fetchAhead := rfl }
  refine ⟨ran, ground.receive a body u (Ground.refl s), ?_, ?_⟩
  · rw [ran]
    exact g.finish (polled_guarded a u (reconcile_of g.toHush a body guarded))
  · rw [ran]
    exact own.trans (finish_polled_node h1 h31 sized)

end Sys2Proof.Machine

namespace Sys2Proof.Certificates

open Sys2Proof.Machine

/-- What `receive_report` says, in the words of O44. -/
theorem report_done {s v t : State} {a : Nat} {u : Bool} {body : RespBody} {c : Option (Nat × Nat)}
    (h : t = finish (polled a u (reconcile a body v)) ∧ Ground s t ∧ t.Guarded ∧
      NodeKeeps { ((s.node a).heard s.day.clock).based c with fetchAhead := u } (t.node a)) :
    t = finish (polled a u (reconcile a body v)) ∧ Ground s t ∧ t.bus.inflight = none ∧ t.bus.guard = .bus ∧
      (t.node a).presence = .present ∧ (t.node a).misses = 0 ∧ (t.node a).silence = none ∧
      (t.node a).lastResp = some s.day.clock ∧ (t.node a).fetchAhead = u := by
  obtain ⟨ran, ground, guarded, node⟩ := h
  refine ⟨ran, ground, guarded.1, guarded.2, node.presence.trans ?_, node.misses.trans ?_, node.silence.trans ?_,
    node.lastResp.trans ?_, node.fetchAhead⟩ <;> cases c <;> rfl

section

variable {s : State} {a : Nat} {f : InFlight} (live : s.day.resetLow = false) (sized : Sized s) (h1 : 1 ≤ a) (h31 : a ≤ 31)
  (awaits : s.awaiting = some f) (hx : f.tx = .poll a) (answering : (s.node a).answering = true)
include live sized h1 h31 awaits hx answering

/-- The report of an oven or a warmer (R67). -/
theorem cabinetReport_clauses (urgent : Bool) (rep : CabinetRep)
    (type : (s.node a).type = some .oven ∧ rep.counters = none ∨ (s.node a).type = some .warmer ∧ rep.counters ≠ none) :
    let n := s.node a
    let h := heard a s
    let done := fun (body : RespBody) (v t : State) =>
      t = finish (polled a urgent (reconcile a body v)) ∧
        Ground s t ∧ t.bus.inflight = none ∧ t.bus.guard = .bus ∧ (t.node a).presence = .present ∧
        (t.node a).misses = 0 ∧ (t.node a).silence = none ∧ (t.node a).lastResp = some s.day.clock ∧
        (t.node a).fetchAhead = urgent
    ∃ t, exec (.cabinetReport a rep urgent) s = .next t ∧
      (∀ k, n.binding = .cabinet k → done (.cabinet rep) (applyCabinetReport a k rep h) t ∧
        (k < 24 →
          let c := t.cab k
          c.temp = rep.temp ∧ c.level = rep.level ∧ c.draw = rep.draw ∧ c.reported = true ∧ c.live = rep.conds ∧
            ∀ ld dr, rep.counters = some (ld, dr) → (t.node a).loadBase = some ld ∧ (t.node a).drawBase = some dr)) ∧
      (n.binding = .unbound → done (.cabinet rep) h t ∧ ∀ k, CabConfig (s.cab k) (t.cab k)) := by
  intro n h done
  have ok : s.answers f.tx a (.cabinet rep) = true := answers_cabinet_iff.2 ⟨hx, type⟩
  have own : h.node a = n.heard s.day.clock := heard_node h1 h31 sized
  have sizedH : Sized h := heard_sized sized
  refine ⟨receive a (.cabinet rep) urgent s, live_next _ live, fun k hb => ?_, fun hb => ?_⟩
  · have applied : applyBody f a (.cabinet rep) h = applyCabinetReport a k rep h := applyBody_cabinet (by rw [own]; exact hb)
    have node := applyCabinetReport_node k rep h1 h31 sizedH
    rw [own] at node
    have ended := receive_report (u := urgent) sized h1 h31 awaits hx answering ok applied
      (State.Guarded.heard.applyCabinetReport a k rep (heard_guarded a s)) node
    refine ⟨report_done ended, fun hk => ?_⟩
    obtain ⟨ran, _, _, keeps⟩ := ended
    have hcabs : k < h.cabs.length := by rw [sizedH.cabs]; exact hk
    have measured := Measured.heard (reportStored k rep h)
    have config := finish_polled_of measured.toStable (fun _ hs => hs) a urgent (.cabinet rep)
      (measured.applyCabinetReport a k rep fun _ => CabConfig.refl _) k
    have shown := finish_polled_of (State.Shows.stable k rep.conds) (fun _ hs => hs) a urgent (.cabinet rep)
      (applyCabinetReport_shows a rep hk sizedH)
    rw [reportStored_cab rep hcabs] at config
    rw [← ran] at config shown
    refine ⟨config.temp, config.level, config.draw, shown.1, shown.2, fun ld dr hc => ?_⟩
    rw [hc] at keeps
    exact ⟨keeps.loadBase, keeps.drawBase⟩
  · have ended := receive_report (u := urgent) (c := none) sized h1 h31 awaits hx answering ok
      (applyBody_unbound (by rw [own]; exact hb) (.inl ⟨rep, rfl⟩)) (heard_guarded a s) (by rw [own]; exact NodeKeeps.refl _)
    refine ⟨report_done ended, ?_⟩
    have measured := Measured.heard s
    rw [ended.1]
    exact finish_polled_of measured.toStable (fun _ hs => hs) a urgent (.cabinet rep)
      (measured.answered a fun _ => CabConfig.refl _)

/-- The report of a washer (R82). -/
theorem washerReport_clauses (urgent : Bool) (rep : WasherRep) (type : (s.node a).type = some .washer) :
    let n := s.node a
    let h := heard a s
    let done := fun (body : RespBody) (v t : State) =>
      t = finish (polled a urgent (reconcile a body v)) ∧
        Ground s t ∧ t.bus.inflight = none ∧ t.bus.guard = .bus ∧ (t.node a).presence = .present ∧
        (t.node a).misses = 0 ∧ (t.node a).silence = none ∧ (t.node a).lastResp = some s.day.clock ∧
        (t.node a).fetchAhead = urgent
    ∃ t, exec (.washerReport a rep urgent) s = .next t ∧
      (∀ l, n.binding = .line l → done (.washer rep) (applyWasherReport l rep h) t ∧
        (l < 2 → (t.line l).rinse = rep.rinse ∧ (t.line l).running = rep.running)) ∧
      (n.binding = .unbound → done (.washer rep) h t) := by
  intro n h done
  have ok : s.answers f.tx a (.washer rep) = true := answers_washer_iff.2 ⟨hx, type⟩
  have own : h.node a = n.heard s.day.clock := heard_node h1 h31 sized
  refine ⟨receive a (.washer rep) urgent s, live_next _ live, fun l hb => ?_, fun hb => ?_⟩
  · have node : NodeKeeps (h.node a) ((applyWasherReport l rep h).node a) :=
      Work.node_keeps (fun g _ ht => g.applyWasherReport l rep ht) a h
    rw [own] at node
    have ended := receive_report (u := urgent) (c := none) sized h1 h31 awaits hx answering ok
      (applyBody_washer (by rw [own]; exact hb)) (State.Guarded.heard.applyWasherReport l rep (heard_guarded a s)) node
    refine ⟨report_done ended, fun hl => ?_⟩
    rw [ended.1]
    exact finish_polled_of (State.Turns.stable l rep.rinse rep.running) (fun _ hs => hs) a urgent (.washer rep)
      (applyWasherReport_turns rep (heard_sized sized) hl)
  · exact report_done (receive_report (u := urgent) (c := none) sized h1 h31 awaits hx answering ok
      (applyBody_unbound (by rw [own]; exact hb) (.inr (.inl ⟨rep, rfl⟩))) (heard_guarded a s)
      (by rw [own]; exact NodeKeeps.refl _))

/-- The report of the page base (R132). -/
theorem baseReport_clauses (urgent : Bool) (rep : BaseRep) (type : (s.node a).type = some .pageBase) :
    let n := s.node a
    let h := heard a s
    let done := fun (body : RespBody) (v t : State) =>
      t = finish (polled a urgent (reconcile a body v)) ∧
        Ground s t ∧ t.bus.inflight = none ∧ t.bus.guard = .bus ∧ (t.node a).presence = .present ∧
        (t.node a).misses = 0 ∧ (t.node a).silence = none ∧ (t.node a).lastResp = some s.day.clock ∧
        (t.node a).fetchAhead = urgent
    ∃ t, exec (.baseReport a rep urgent) s = .next t ∧
      (n.binding = .base → done (.base rep) (applyBaseReport rep h) t ∧ t.paging.baseFull = false) ∧
      (n.binding = .unbound → done (.base rep) h t) := by
  intro n h done
  have ok : s.answers f.tx a (.base rep) = true := answers_base_iff.2 ⟨hx, type⟩
  have own : h.node a = n.heard s.day.clock := heard_node h1 h31 sized
  refine ⟨receive a (.base rep) urgent s, live_next _ live, fun hb => ?_, fun hb => ?_⟩
  · have node : NodeKeeps (h.node a) ((applyBaseReport rep h).node a) :=
      Work.node_keeps (fun g _ ht => g.applyBaseReport rep ht) a h
    rw [own] at node
    have ended := receive_report (u := urgent) (c := none) sized h1 h31 awaits hx answering ok
      (applyBody_base (by rw [own]; exact hb)) (State.Guarded.heard.applyBaseReport rep (heard_guarded a s)) node
    refine ⟨report_done ended, ?_⟩
    have reconciled := (reconcile_of (Floor.stable _).toHush a (.base rep) (Floor.refl (applyBaseReport rep h))).paging.baseFull
    obtain ⟨b, e⟩ := polled_eq a urgent (reconcile a (.base rep) (applyBaseReport rep h))
    rw [ended.1, (finish_floor _).paging.baseFull, e]
    exact reconciled.trans ((Floor.stable _).selectPass (Floor.refl (withBaseFull false _))).paging.baseFull
  · exact report_done (receive_report (u := urgent) (c := none) sized h1 h31 awaits hx answering ok
      (applyBody_unbound (by rw [own]; exact hb) (.inr (.inr ⟨rep, rfl⟩))) (heard_guarded a s)
      (by rw [own]; exact NodeKeeps.refl _))

end

/-- What reconciliation queues (R153). -/
theorem reconcile_clauses (a : Nat) (s : State) :
    let again := queueSet a (s.node a).wantedUrgent s
    (∀ m tp (rep : CabinetRep), (s.node a).wanted = .cabinet m tp →
      reconcile a (.cabinet rep) s = if rep.level = m ∧ rep.setpoint = tp then s else again) ∧
      (∀ run (rep : WasherRep), (s.node a).wanted = .line run →
        reconcile a (.washer rep) s = if rep.running = run then s else again) ∧
      ∀ body, (s.node a).wanted = .nothing → reconcile a body s = s := by
  intro again
  refine ⟨fun m tp rep h => ?_, fun run rep h => ?_, fun body h => ?_⟩
  · unfold reconcile
    dsimp only
    rw [h]
    by_cases e : rep.level = m ∧ rep.setpoint = tp
    · simp [e]
    · rw [if_neg e]
      exact if_pos (by simpa [imp_iff_not_or] using e)
  · unfold reconcile
    dsimp only
    rw [h]
    by_cases e : rep.running = run
    · simp [e]
    · rw [if_neg e]
      exact if_pos (decide_eq_true e)
  · unfold reconcile
    dsimp only
    rw [h]
    exact if_neg Bool.false_ne_true

/-- Settles O44. -/
theorem reportsReachTheirBlocks : Obligations.ReportsReachTheirBlocks := by
  refine ⟨fun a urgent f s live sized h1 h31 free flight hx => ?_, reconcile_clauses, fun _ _ => rfl, transmitted_clauses,
    directory_clauses, countRate_clauses⟩
  intro n present
  have awaits := awaiting_eq_some free flight
  have answering : n.answering = true := (answering_iff n).2 present
  exact ⟨cabinetReport_clauses live sized h1 h31 awaits hx answering urgent,
    washerReport_clauses live sized h1 h31 awaits hx answering urgent,
    baseReport_clauses live sized h1 h31 awaits hx answering urgent⟩

end Sys2Proof.Certificates
end

section
/-! SUPPORT. RACK_ANNOUNCE in the words of its rule (R81). -/

namespace Sys2Proof.Machine

theorem move_soiled_washing (w : Ware) (n : Nat) (h : n ≤ w.soiled) :
    w.move .soiled .washing n = { w with soiled := w.soiled - n, washing := w.washing + n } := by
  simp [Ware.move, Ware.put, Ware.holds, Nat.min_eq_left h]

/-- The function operand of RACK_ANNOUNCE, where it is given or absent. -/
def fnOperand : Option Nat → OptArg Nat
  | none => .absent
  | some f => .present f

theorem announcedFn_eq (l : Nat) (g : Option Nat) (s : State) :
    s.announcedFn l (fnOperand g) = g.getD (s.line l).defFn := by
  cases g <;> rfl

theorem fnOperand_ok (g : Option Nat) :
    optOk (fun f => decide (f < 8)) (fnOperand g) = true ↔ ∀ f, g = some f → f < 8 := by
  cases g <;> simp [fnOperand, optOk]

/-- The range check of RACK_ANNOUNCE. -/
theorem announce_range_iff (l tag cls n : Nat) (g : Option Nat) (x : Line) :
    (decide (l < 2) && decide (cls < 8) && within 1 60 n && optOk (fun f => decide (f < 8)) (fnOperand g) &&
        !x.hasTag tag) = true ↔
      l < 2 ∧ cls < 8 ∧ 1 ≤ n ∧ n ≤ 60 ∧ (∀ f, g = some f → f < 8) ∧
        ∀ r ∈ x.staged ++ x.inside ++ x.exits, r.tag ≠ tag := by
  have free : (!x.hasTag tag) = true ↔ ∀ r ∈ x.staged ++ x.inside ++ x.exits, r.tag ≠ tag := by
    rw [Bool.not_eq_true', ← Bool.not_eq_true, hasTag_iff]
    simp only [not_exists, not_and, ne_eq]
  simp only [Bool.and_eq_true, fnOperand_ok, free, within_iff, decide_eq_true_eq, and_assoc]

/-- The rack that RACK_ANNOUNCE stages. -/
def announcedRack (tag cls n fn : Nat) : Rack := ⟨tag, cls, n, fn, none, none, 0, none, none, 0, false⟩

/-- RACK_ANNOUNCE's effect: the plates, the rack, and the queue that its reply counts. -/
theorem announce_effect {l cls n : Nat} {s : State} (hl : l < s.lines.length) (h : n ≤ (s.ware cls).soiled) (r : Rack) :
    let x := s.line l
    let w := s.ware cls
    let t := withStaged l ((s.line l).staged ++ [r]) (transfer cls .soiled .washing n s)
    t = (s.setWare cls { w with soiled := w.soiled - n, washing := w.washing + n }).setLine l
        { x with staged := x.staged ++ [r] } ∧
      (t.line l).racks.length = x.racks.length + 1 := by
  intro x w t
  have effect : t = (s.setWare cls { w with soiled := w.soiled - n, washing := w.washing + n }).setLine l
      { x with staged := x.staged ++ [r] } := by
    show withStaged l _ (s.setWare cls (w.move .soiled .washing n)) = _
    rw [move_soiled_washing w n h]
    rfl
  refine ⟨effect, ?_⟩
  have own := State.line_setLine (s.setWare cls { w with soiled := w.soiled - n, washing := w.washing + n }) l
    { x with staged := x.staged ++ [r] } hl
  rw [effect, own]
  simp only [Line.racks, List.length_append, List.length_singleton]
  omega

end Sys2Proof.Machine

namespace Sys2Proof.Certificates

open Sys2Proof.Machine

/-- Settles O31. -/
theorem rackAnnounceStagesRack : Obligations.RackAnnounceStagesRack := by
  intro p l tag cls n g s i ha sized u x w fn queue good known open'
  have hb : bodyOf i u = checked
      [(decide (l < 2) && decide (cls < 8) && within 1 60 n && optOk (fun f => decide (f < 8)) (fnOperand g) &&
          !(u.line l).hasTag tag, .range),
        ((u.fn (u.announcedFn l (fnOperand g))).used, .notFound), (inDay u [.opening, .service], .badState),
        (decide ((u.line l).racks.length < Config.rackCap), .full), (decide (n ≤ (u.ware cls).soiled), .short)]
      (fun v =>
        let t := withStaged l ((v.line l).staged ++ [announcedRack tag cls n (v.announcedFn l (fnOperand g))])
          (transfer cls .soiled .washing n v)
        okWith (be8 (t.line l).racks.length) t) u := rfl
  rw [announcedFn_eq] at hb
  have range : good → _ = true := (announce_range_iff l tag cls n g x).2
  have day : inDay u [.opening, .service] = true ↔ open' := by simp [inDay, u, open']
  refine ⟨fun hg hk ho hq hn => ?_, fun hg => ?_, fun hg hk => ?_, fun hg hk ho => ?_, fun hg hk ho hq => ?_,
    fun hg hk ho hq hn => ?_⟩
  · have hlen : l < u.lines.length := by
      rw [before_lines, sized.lines]
      exact hg.1
    obtain ⟨effect, counted⟩ := announce_effect hlen hn (announcedRack tag cls n fn)
    refine Executes.of_checks rfl ha hb ?_ ?_
    · exact (firstFailure_tail (range hg)).trans ((firstFailure_tail hk).trans ((firstFailure_tail (day.2 ho)).trans
        ((firstFailure_tail (decide_eq_true hq)).trans (firstFailure_tail (decide_eq_true hn)))))
    · rw [announcedFn_eq]
      exact okWith_congr (congrArg be8 counted) effect
  · exact RefusedWith.of_checks rfl ha hb (firstFailure_head (Bool.eq_false_iff.2 fun e =>
      hg ((announce_range_iff l tag cls n g x).1 e)))
  · exact RefusedWith.of_checks rfl ha hb ((firstFailure_tail (range hg)).trans
      (firstFailure_head (Bool.eq_false_iff.2 hk)))
  · exact RefusedWith.of_checks rfl ha hb ((firstFailure_tail (range hg)).trans ((firstFailure_tail hk).trans
      (firstFailure_head (Bool.eq_false_iff.2 fun e => ho (day.1 e)))))
  · exact RefusedWith.of_checks rfl ha hb ((firstFailure_tail (range hg)).trans ((firstFailure_tail hk).trans
      ((firstFailure_tail (day.2 ho)).trans (firstFailure_head (decide_eq_false (Nat.not_lt.2 hq))))))
  · exact RefusedWith.of_checks rfl ha hb ((firstFailure_tail (range hg)).trans ((firstFailure_tail hk).trans
      ((firstFailure_tail (day.2 ho)).trans ((firstFailure_tail (decide_eq_true hq)).trans
        (firstFailure_head (decide_eq_false (Nat.not_le.2 hn)))))))

end Sys2Proof.Certificates
end

section
/-! SUPPORT. What a booster's claim or withdrawal writes (R95, R96, R103), and LOCKOUT_CLEAR (R182). -/

namespace Sys2Proof.Machine

variable {s t : State}

/-! ### Claims on the power budget unit -/

/-- A booster that claims or withdraws writes its consumer, with its line's POWER stop, and calls for checks. -/
theorem boosterSync_writes (l : Nat) (s : State) :
    boosterSync l s = s ∨ ∃ x c, boosterSync l s = (s.setConsumer (24 + l) x).withCalls c := by
  have claims (n : Nat) : ∃ x c, request (24 + l) n s = (s.setConsumer (24 + l) x).withCalls c := by
    unfold request
    dsimp only
    split
    · exact ⟨_, _, rfl⟩
    · exact ⟨_, _, rfl⟩
  unfold boosterSync
  dsimp only
  split
  · split
    · exact .inr (claims _)
    · exact .inl rfl
  · split
    · exact .inr ⟨_, _, rfl⟩
    · exact .inl rfl

/-- The records that neither a line's own operations nor its booster's claims write. -/
structure OffLines (s t : State) : Prop where
  ports : t.ports = s.ports
  day : t.day = s.day
  wares : t.wares = s.wares
  courses : t.courses = s.courses
  cabs : t.cabs = s.cabs
  paging : t.paging = s.paging

theorem OffLines.trans {a b c : State} (h : OffLines a b) (g : OffLines b c) : OffLines a c :=
  ⟨g.ports.trans h.ports, g.day.trans h.day, g.wares.trans h.wares, g.courses.trans h.courses, g.cabs.trans h.cabs,
    g.paging.trans h.paging⟩

theorem OffLines.withBus (h : OffLines s t) (b : Bus) : OffLines s (t.withBus b) :=
  ⟨h.ports, h.day, h.wares, h.courses, h.cabs, h.paging⟩

/-- What a booster's claim or withdrawal leaves as it stands. -/
structure OffBooster (l : Nat) (s t : State) : Prop extends OffLines s t where
  consumer : ∀ c, c ≠ 24 + l → t.consumer c = s.consumer c
  line : ∀ j, j ≠ l → t.line j = s.line j
  own : LineKeeps (s.line l) (t.line l)
  sizes : Sized s → Sized t

theorem boosterSync_off (l : Nat) (s : State) : OffBooster l s (boosterSync l s) := by
  have floor : Floor s (boosterSync l s) := (Floor.stable s).boosterSync l (Floor.refl s)
  obtain e | ⟨x, c, e⟩ := boosterSync_writes l s
  · rw [e]
    exact ⟨⟨rfl, rfl, rfl, rfl, rfl, rfl⟩, fun _ _ => rfl, fun _ _ => rfl, LineKeeps.refl _, id⟩
  · obtain ⟨w, ls, written, -⟩ := setConsumer_eq (24 + l) x s
    have other (j : Nat) (hj : j ≠ 24 + l) : (boosterSync l s).consumer j = s.consumer j := by
      rw [e]
      exact setConsumer_consumer_other x s hj
    have line (j : Nat) (hj : j ≠ l) : (boosterSync l s).line j = s.line j := by
      rw [e]
      exact setConsumer_line_other x s (by omega)
    have whole : boosterSync l s = ((s.withPower w).withLines ls).withCalls c := by rw [e, written]
    have off : OffLines s (((s.withPower w).withLines ls).withCalls c) := ⟨rfl, rfl, rfl, rfl, rfl, rfl⟩
    exact ⟨by rw [whole]; exact off, other, line, floor.line l, floor.sizes⟩

/-- A consumer that requests `n` units has `n` requested, in whichever way its claim is taken (R103). -/
theorem request_request {c : Nat} (n : Nat) (hc : c < s.power.consumers.length) :
    ((request c n s).consumer c).request = n := by
  unfold request
  dsimp only
  split
  · exact congrArg Consumer.request (setConsumer_consumer c _ s hc)
  · rename_i h
    have lowered : ((lowerTo c n s).consumer c).request = min n (s.consumer c).grant :=
      congrArg Consumer.request (setConsumer_consumer c _ s hc)
    rw [lowered]
    omega

theorem release_consumer {c : Nat} (hc : c < s.power.consumers.length) :
    (release c s).consumer c = (s.consumer c).released :=
  setConsumer_consumer c _ s hc

/-! ### The three conditions of R95 -/

/-- The conditions under which a booster claims its units (R95). -/
def BoosterCalls (l : Nat) (s : State) : Prop :=
  (s.line l).opRun = true ∧ (s.day.state = .service ∨ s.day.state = .closing) ∧ 0 < (s.line l).booster

theorem dayRuns_iff (s : State) : s.dayRuns = true ↔ s.day.state = .service ∨ s.day.state = .closing := by
  unfold State.dayRuns
  rw [Bool.or_eq_true, decide_eq_true_eq, decide_eq_true_eq]

theorem boosterSync_calling {l : Nat} (h : BoosterCalls l s) : boosterSync l s =
    if (s.consumer (24 + l)).request = 0 then request (24 + l) (s.line l).booster s else s := by
  obtain ⟨run, day, units⟩ := h
  have given : ((s.line l).opRun && s.dayRuns && decide (0 < (s.line l).booster)) = true := by
    rw [run, (dayRuns_iff s).2 day, decide_eq_true units]
    rfl
  exact if_pos given

theorem boosterSync_resting {l : Nat} (h : ¬BoosterCalls l s) : boosterSync l s =
    if 0 < (s.consumer (24 + l)).request ∨ 0 < (s.consumer (24 + l)).grant then release (24 + l) s else s := by
  have refused : ¬((s.line l).opRun && s.dayRuns && decide (0 < (s.line l).booster)) = true := fun e => h (by
    rw [Bool.and_eq_true, Bool.and_eq_true, dayRuns_iff, decide_eq_true_eq] at e
    exact ⟨e.1.1, e.1.2, e.2⟩)
  exact if_neg refused

/-- A booster that had no request claims all its units. -/
theorem boosterSync_request {l : Nat} (hl : 24 + l < s.power.consumers.length) (h : BoosterCalls l s)
    (idle : (s.consumer (24 + l)).request = 0) :
    ((boosterSync l s).consumer (24 + l)).request = (s.line l).booster := by
  rw [boosterSync_calling h, if_pos idle]
  exact request_request _ hl

/-! ### LOCKOUT_CLEAR -/

theorem overtempCabs_isEmpty (s : State) : s.overtempCabs.isEmpty = true ↔ ¬∃ c ∈ s.cabs, c.live.overtemp = true := by
  have entry (c : Cab) : c ∈ s.cabs ↔ ∃ k, k < s.cabs.length ∧ s.cab k = c := by
    rw [List.mem_iff_getElem]
    refine exists_congr fun k => ⟨fun ⟨hk, e⟩ => ⟨hk, ?_⟩, fun ⟨hk, e⟩ => ⟨hk, ?_⟩⟩
    · simpa [State.cab, List.getD_eq_getElem?_getD, hk] using e
    · simpa [State.cab, List.getD_eq_getElem?_getD, hk] using e
  rw [overtempCabs_eq, List.isEmpty_iff, List.filter_eq_nil_iff]
  simp [entry]

theorem cabBound_iff (k : Nat) (s : State) :
    s.cabBound k = true ↔ ∃ a, (s.cab k).addr = some a ∧ (s.node a).binding = .cabinet k := by
  unfold State.cabBound State.boundTo
  cases (s.cab k).addr <;> simp

theorem unconfirmed_isEmpty (s : State) : s.unconfirmed.isEmpty = true ↔
    ¬∃ k, k < 24 ∧ ∃ a, (s.cab k).addr = some a ∧ (s.node a).binding = .cabinet k ∧
      ¬((s.cab k).reported = true ∧ (s.cab k).level = .off) := by
  rw [unconfirmed_eq, List.isEmpty_iff, List.filter_eq_nil_iff]
  simp only [List.mem_range, decide_eq_true_eq, cabBound_iff]
  exact ⟨fun h ⟨k, hk, a, addr, bound, level⟩ => h k hk ⟨⟨a, addr, bound⟩, level⟩,
    fun h k hk ⟨⟨a, addr, bound⟩, level⟩ => h ⟨k, hk, a, addr, bound, level⟩⟩

/-- The discovery timer that a day state calls for (R146). -/
theorem matchDiscovery_eq (s : State) : matchDiscovery s = s.withBus { s.bus with
    discTimer := if s.day.state = .opening then none else some (s.bus.discTimer.getD 5) } := by
  unfold matchDiscovery
  cases s.bus.discTimer <;> rfl

/-- A line without the LOCKOUT stop reason, before its booster follows. -/
def unlocked (l : Nat) (s : State) : State :=
  s.setLine l { s.line l with stops := { (s.line l).stops with lockout := false } }

theorem clearLockoutLine_eq (l : Nat) (s : State) : clearLockoutLine l s = boosterSync l (unlocked l s) := rfl

theorem clearLockoutLine_off (l : Nat) (s : State) : OffLines s (clearLockoutLine l s) :=
  OffLines.trans (b := unlocked l s) ⟨rfl, rfl, rfl, rfl, rfl, rfl⟩ (boosterSync_off l (unlocked l s)).toOffLines

/-- A line that has left LOCKOUT, its booster claiming where R95 has it so. -/
structure Freed (l : Nat) (s t : State) : Prop where
  lockout : (t.line l).stops.lockout = false
  claims : (t.line l).opRun = true → s.day.state = .service ∨ s.day.state = .closing → 0 < (t.line l).booster →
    (s.consumer (24 + l)).request = 0 → (t.consumer (24 + l)).request = (t.line l).booster

theorem Freed.withBus {l : Nat} (h : Freed l s t) (b : Bus) : Freed l s (t.withBus b) := ⟨h.lockout, h.claims⟩

theorem clearLockoutLine_freed {l : Nat} (hs : Sized s) (hl : l < 2) : Freed l s (clearLockoutLine l s) := by
  have own : (unlocked l s).line l = { s.line l with stops := { (s.line l).stops with lockout := false } } :=
    State.line_setLine _ _ _ (hs.lines ▸ hl)
  have kept : LineKeeps ((unlocked l s).line l) ((clearLockoutLine l s).line l) := (boosterSync_off l (unlocked l s)).own
  refine ⟨kept.lockout.trans (by rw [own]), fun run day units idle => ?_⟩
  rw [kept.opRun] at run
  rw [kept.booster] at units ⊢
  exact boosterSync_request (show 24 + l < s.power.consumers.length by rw [hs.consumers]; omega) ⟨run, day, units⟩ idle

/-- What the first three steps of LOCKOUT_CLEAR leave on both lines, from the state with the day returned. -/
theorem clearLockoutLines_freed (hs : Sized s) {l : Nat} (hl : l < 2) :
    Freed l s (clearLockoutLine 1 (clearLockoutLine 0 s)) := by
  have first := boosterSync_off 0 (unlocked 0 s)
  have second := boosterSync_off 1 (unlocked 1 (clearLockoutLine 0 s))
  obtain rfl | rfl : l = 0 ∨ l = 1 := by omega
  · have freed := clearLockoutLine_freed hs hl
    have line : (clearLockoutLine 1 (clearLockoutLine 0 s)).line 0 = (clearLockoutLine 0 s).line 0 :=
      (second.line 0 (by decide)).trans (State.line_setLine_other _ _ _ _ (by decide))
    have consumer : (clearLockoutLine 1 (clearLockoutLine 0 s)).consumer 24 = (clearLockoutLine 0 s).consumer 24 :=
      second.consumer 24 (by decide)
    refine ⟨by rw [line]; exact freed.lockout, ?_⟩
    rw [line, show 24 + 0 = 24 from rfl, consumer]
    exact freed.claims
  · have sized : Sized (clearLockoutLine 0 s) := first.sizes (hs.setLine 0 _)
    have freed := clearLockoutLine_freed sized hl
    have day : (clearLockoutLine 0 s).day = s.day := first.day
    have consumer : (clearLockoutLine 0 s).consumer 25 = s.consumer 25 := first.consumer 25 (by decide)
    refine ⟨freed.lockout, ?_⟩
    rw [← day, show 24 + 1 = 25 from rfl, ← consumer]
    exact freed.claims

end Sys2Proof.Machine

namespace Sys2Proof.Certificates

open Sys2Proof.Machine

/-- Settles O54: the state written out is the one that the model's two lines and the discovery timer make. -/
theorem lockoutClearReturnsDay : Obligations.LockoutClearReturnsDay := by
  intro p r s ha sized i u hot unproved day cleared v w
  have hb : bodyOf i u = checked [(inDay u [.lockout] && u.overtempCabs.isEmpty && u.unconfirmed.isEmpty, .badState)]
      (fun s => okWith (be8 (s.day.ret.getD .opening).code) (finish (clearLockout s))) u := rfl
  have check : (inDay u [.lockout] && u.overtempCabs.isEmpty && u.unconfirmed.isEmpty) = true ↔
      s.day.state = .lockout ∧ ¬hot ∧ ¬unproved := by
    rw [Bool.and_eq_true, Bool.and_eq_true, overtempCabs_isEmpty, unconfirmed_isEmpty]
    simp [inDay, u, hot, unproved, and_assoc]
  refine ⟨fun locked ret cool proved => ?_, fun h =>
    RefusedWith.of_checks rfl ha hb (firstFailure_head (Bool.eq_false_iff.2 fun e => ?_))⟩
  · have off : OffLines day v := (clearLockoutLine_off 0 day).trans (clearLockoutLine_off 1 _)
    have sizes : Sized day := (sized.before i p).same rfl rfl rfl rfl rfl rfl rfl rfl (by simp [day, u])
    have whole : OffLines day w := off.withBus _
    have returnDay : clearLockoutDay u = day := by
      unfold clearLockoutDay
      rw [before_day, ret]
      rfl
    have timed : matchDiscovery v = w := by
      rw [matchDiscovery_eq, off.day]
      rfl
    have effect : clearLockout u = callClose (raise .lockoutCleared 0 r.code 0 w) := by
      unfold clearLockout
      dsimp only
      rw [returnDay, show clearLockoutLine 1 (clearLockoutLine 0 day) = v from rfl, timed, whole.day]
      rfl
    refine ⟨finish (callClose (raise .lockoutCleared 0 r.code 0 w)),
      Executes.of_checks rfl ha hb (firstFailure_tail (check.2 ⟨locked, cool, proved⟩)) ?_, rfl,
      (Floor.stable _).finish ((Floor.stable _).toHush.callClose (Floor.refl _)), whole.day, whole.cabs,
      whole.wares, whole.courses, whole.paging, whole.ports, fun l hl => ?_⟩
    · rw [effect, before_day, ret]
      rfl
    · have freed : Freed l day w := (clearLockoutLines_freed sizes hl).withBus _
      exact ⟨freed.lockout, fun run runs units idle => freed.claims run runs units idle⟩
  · obtain ⟨locked, cool, proved⟩ := check.1 e
    exact h.elim (fun g => g locked) fun g => g.elim cool proved

end Sys2Proof.Certificates
end

section
/-! SUPPORT. DAY_OPEN in the words of its rule (R177). -/

namespace Sys2Proof.Machine

variable {s : State}

/-! ### The courses (R177, step 2) -/

/-- The plates of a class that the courses of a list have out. -/
def plainOut (l : List Course) (c : Nat) : Nat :=
  total ((l.filter fun x => x.state ≠ .empty ∧ x.cls = c).map fun x => x.plated - x.returned)

theorem plainOut_concat (l : List Course) (x : Course) (c : Nat) :
    plainOut (l ++ [x]) c = plainOut l c + if x.state ≠ .empty ∧ x.cls = c then x.plated - x.returned else 0 := by
  unfold plainOut
  rw [List.filter_append, List.map_append, total_append]
  refine congrArg (_ + ·) ?_
  by_cases h : x.state ≠ .empty ∧ x.cls = c
  · rw [if_pos h, List.filter_singleton, decide_eq_true h]
    exact Nat.zero_add _
  · rw [if_neg h, List.filter_singleton, decide_eq_false h]
    rfl

/-- A course's slot once the day is open. -/
def Course.opened (x : Course) : Course := if x.state = .empty then x else Course.initial

/-- The first `n` courses have been emptied, and what they had out has passed to house plated. -/
def emptiedTo (n : Nat) (s : State) : State :=
  { s with
    wares := (List.range 8).map fun c => { s.ware c with house := (s.ware c).house + plainOut (s.courses.take n) c },
    courses := (s.courses.take n).map Course.opened ++ s.courses.drop n }

/-- One course of step 2. -/
def emptySlot (c : Nat) (s : State) : State := if (s.course c).state = .empty then s else emptyCourse c s

/-- House plated of one class raised in a table of the eight classes (R12). -/
theorem addHouse_range (f : Nat → Ware) (c n : Nat) (l : List Course) (s : State) :
    addHouse c n { s with wares := (List.range 8).map f, courses := l } =
      { s with
        wares := (List.range 8).map fun i => { f i with house := (f i).house + if c = i then n else 0 }, courses := l } := by
  have wares : ((List.range 8).map f).set c { ((List.range 8).map f).getD c Ware.initial with
      house := (((List.range 8).map f).getD c Ware.initial).house + n } =
      (List.range 8).map fun i => { f i with house := (f i).house + if c = i then n else 0 } := by
    refine List.ext_getElem (by simp) fun i h1 h2 => ?_
    have hi : i < 8 := by simpa using h2
    rw [List.getElem_set]
    split
    · rename_i e
      subst e
      simp [List.getD_eq_getElem?_getD, hi]
    · rename_i e
      simp [e]
  exact congrArg (fun w => { s with wares := w, courses := l }) wares

theorem emptiedTo_zero (hs : Sized s) : emptiedTo 0 s = s := by
  have wares : ((List.range 8).map fun c => { s.ware c with house := (s.ware c).house + plainOut [] c }) = s.wares := by
    refine List.ext_getElem (by simp [hs.wares]) fun c h1 h2 => ?_
    simp [State.ware, List.getD_eq_getElem?_getD, h2, plainOut, total]
  unfold emptiedTo
  rw [List.take_zero, wares]
  rfl

theorem emptiedTo_succ (hs : Sized s) {n : Nat} (hn : n < 32) : emptySlot n (emptiedTo n s) = emptiedTo (n + 1) s := by
  have len : n < s.courses.length := hs.courses ▸ hn
  have front : ((s.courses.take n).map Course.opened).length = n := by simp; omega
  have split : s.courses.take (n + 1) = s.courses.take n ++ [s.courses[n]] := (List.take_concat_get' ..).symm
  have rest : s.courses.drop n = s.courses[n] :: s.courses.drop (n + 1) := List.drop_eq_getElem_cons len
  have own : (emptiedTo n s).course n = s.courses[n] := by
    unfold State.course emptiedTo
    rw [List.getD_eq_getElem?_getD, List.getElem?_append_right (by omega), front, rest]
    simp [len]
  unfold emptySlot
  rw [own]
  by_cases empty : s.courses[n].state = .empty
  · rw [if_pos empty]
    unfold emptiedTo
    rw [split]
    simp only [plainOut_concat, empty, ne_eq, not_true, false_and, if_false, Nat.add_zero, List.map_append,
      List.map_singleton, List.append_assoc, Course.opened, if_true]
    rw [rest]
    rfl
  · rw [if_neg empty]
    have courses : ((s.courses.take n).map Course.opened ++ s.courses.drop n).set n Course.initial =
        (s.courses.take (n + 1)).map Course.opened ++ s.courses.drop (n + 1) := by
      rw [List.set_append_right _ _ (by omega), front, rest, split, List.map_append, Nat.sub_self, List.set_cons_zero]
      simp only [List.map_singleton, Course.opened, empty, if_false, List.append_assoc, List.singleton_append]
    unfold emptyCourse
    rw [own]
    unfold emptiedTo
    dsimp only
    rw [addHouse_range]
    unfold State.setCourse State.withCourses
    dsimp only
    rw [courses, split]
    simp only [plainOut_concat, empty, ne_eq, not_false_eq_true, true_and, Nat.add_assoc]

/-- Step 2's courses, all at once. -/
theorem emptySlots_eq (hs : Sized s) : forEach (List.range 32) emptySlot s = { s with
    wares := (List.range 8).map fun c => { s.ware c with house := (s.ware c).house + plainOut s.courses c },
    courses := s.courses.map Course.opened } := by
  have upTo (n : Nat) (hn : n ≤ 32) : forEach (List.range n) emptySlot s = emptiedTo n s := by
    induction n with
    | zero => exact (emptiedTo_zero hs).symm
    | succ n ih =>
      have split : forEach (List.range (n + 1)) emptySlot s = emptySlot n (forEach (List.range n) emptySlot s) := by
        unfold forEach
        rw [List.range_succ, List.foldl_append]
        rfl
      rw [split, ih (by omega)]
      exact emptiedTo_succ hs (by omega)
  rw [upTo 32 (Nat.le_refl _)]
  unfold emptiedTo
  rw [← hs.courses, List.take_length, List.drop_length, List.append_nil]

/-! ### The other records, and the day (R177, steps 1 and 3 to 6) -/

/-- The state after the first six steps of DAY_OPEN, record by record. -/
def serviceOpened (s : State) : State :=
  let kept := fun (l : List Tx) => l.filter fun x => !x.isDeliver
  { s with
    day := { s.day with clock := 0, secMs := s.day.ms, claim := none, state := .service, ret := none, cause := none },
    wares := (List.range 8).map fun c => { s.ware c with house := (s.ware c).house + plainOut s.courses c },
    courses := s.courses.map Course.opened, earmarks := [], fire := ⟨0, false⟩,
    fns := s.fns.map fun f => { f with round := 23 }, cabs := s.cabs.map Cab.openDay, lines := s.lines.map Line.openDay,
    power := { s.power with
      consumers := s.power.consumers.map (fun c => { c with lastReport := c.lastReport.map fun _ => 0 }),
      settle := none, unresolved := false },
    paging := { s.paging with
      pages := [], baseFull := false, rush := List.replicate 14 none, rates := List.replicate 14 ⟨0, none⟩,
      anti := 0, dir := s.paging.dir.map fun e => e.map fun g => { g with lastSeen := 0 } },
    bus := { s.bus with
      nodes := s.bus.nodes.map (fun n => { n with lastResp := n.lastResp.map fun _ => 0 }),
      urgent := kept s.bus.urgent, fetch := kept s.bus.fetch, ordinary := kept s.bus.ordinary,
      inflight := s.bus.inflight.map InFlight.voided, discTimer := some (s.bus.discTimer.getD 5) } }

theorem openCourses_eq (hs : Sized s) : openCourses s = { s with
    wares := (List.range 8).map fun c => { s.ware c with house := (s.ware c).house + plainOut s.courses c },
    courses := s.courses.map Course.opened, earmarks := [], fire := ⟨0, false⟩,
    fns := s.fns.map fun f => { f with round := 23 } } := by
  have slots := emptySlots_eq hs
  unfold emptySlot at slots
  unfold openCourses
  dsimp only
  rw [slots]
  rfl

theorem firstSixSteps_eq (hs : Sized s) :
    dayToService (openRecords (pagingOpen (openCourses (zeroClock s)))) = serviceOpened s := by
  have sized : Sized (zeroClock s) := hs.same rfl rfl rfl rfl rfl rfl rfl rfl rfl
  rw [openCourses_eq sized]
  unfold dayToService openRecords pagingOpen powerOpen removeDelivers keepTx zeroClock
  rw [matchDiscovery_eq]
  simp only [State.withDay, State.withBus, State.withPower, State.withCabs, State.withLines, State.withPaging,
    reduceCtorEq, if_false]
  rfl

/-! ### The requests (R177, step 7) -/

/-- A cabinet wanted ON that stands OFF claims its heat units. -/
def wakeWanted (k : Nat) (s : State) : State :=
  if (s.cab k).state = .off ∧ (s.cab k).wantedOn = true then requestHeat k s else s

theorem switchOn_running {k : Nat} (h : s.dayRuns = true) : switchOn k s = wakeWanted k s := by
  unfold switchOn wakeWanted
  simp [h]

theorem Quiet.wakeWanted {P : State → Prop} (h : Quiet P) (k : Nat) (hs : P s) : P (wakeWanted k s) := by
  unfold Machine.wakeWanted
  split
  · exact h.requestHeat k hs
  · exact hs

/-- In a running day the cabinets are taken by their wanted modes alone. -/
theorem switchOns_running : ∀ (l : List Nat) {s : State}, s.dayRuns = true → forEach l switchOn s = forEach l wakeWanted s
  | [], _, _ => rfl
  | k :: l, s, h => by
    have day : (wakeWanted k s).day = s.day := (Quiet.day s.day).wakeWanted k rfl
    have runs : (wakeWanted k s).dayRuns = true := by
      unfold State.dayRuns
      rw [day]
      exact h
    show forEach l switchOn (switchOn k s) = forEach l wakeWanted (wakeWanted k s)
    rw [switchOn_running h]
    exact switchOns_running l runs

/-- Step 7: cabinets and boosters claim, and admission is tried. -/
def opened (s : State) : State :=
  powerTry (boosterSync 1 (boosterSync 0 (forEach (List.range 24) wakeWanted s)))

theorem opened_still (s : State) : Still s (opened s) := by
  have h := (Still.stable s).toQuiet
  exact h.powerTry (h.boosterSync 1 (h.boosterSync 0 (Hush.forEach (fun k _ ht => h.wakeWanted k ht) _ (Still.refl s))))

theorem openDay_eq (hs : Sized s) : openDay s =
    raise .dayOpened 0 (opened (serviceOpened s)).requesting 0 (opened (serviceOpened s)) := by
  unfold openDay openRequests
  dsimp only
  rw [firstSixSteps_eq hs, switchOns_running _ rfl]
  rfl

/-- The conditions of DAY_OPEN (R177). -/
theorem mayOpen_iff (s : State) : s.mayOpen = true ↔ 0 < s.power.budget ∧ s.power.shedLow < s.power.shedHigh ∧
    s.power.shedHigh ≤ s.power.budget ∧ ∀ c ∈ s.cabs, c.kind = .warmer → c.cls ≠ none := by
  have classed : (s.cabs.all fun c => !c.isWarmer || c.cls.isSome) = true ↔ ∀ c ∈ s.cabs, c.kind = .warmer → c.cls ≠ none := by
    simp [Cab.isWarmer, Option.isSome_iff_ne_none, imp_iff_not_or]
  unfold State.mayOpen
  simp only [Bool.and_eq_true, decide_eq_true_eq, classed, and_assoc]

end Sys2Proof.Machine

namespace Sys2Proof.Certificates

open Sys2Proof.Machine

/-- Settles O51: the state written out record by record is the one that the model's first six steps make. -/
theorem dayOpenStartsService : Obligations.DayOpenStartsService := by
  intro p s ha sized i u ready out kept w on v
  have hb : bodyOf i u = checked [(inDay u [.opening] && u.mayOpen, .badState)] (fun s => okWith [] (finish (openDay s))) u :=
    rfl
  have check : (inDay u [.opening] && u.mayOpen) = true ↔ ready := by
    rw [Bool.and_eq_true, mayOpen_iff, inDay_opening, decide_eq_true_eq, before_day, before_power, before_cabs]
  have written : w = serviceOpened u := by
    unfold serviceOpened
    simp only [u, before_day, before_ware, before_fns, before_courses, before_cabs, before_lines, before_power,
      before_paging, before_bus]
    rfl
  have claimed : v = opened w := rfl
  refine ⟨fun h => ⟨_, Executes.of_checks rfl ha hb (firstFailure_tail (check.2 h)) ?_, rfl, ?_, finish_floor _⟩, fun h =>
    RefusedWith.of_checks rfl ha hb (firstFailure_head (Bool.eq_false_iff.2 fun e => h (check.1 e)))⟩
  · rw [openDay_eq (sized.before i p), ← written, ← claimed]
  · rw [claimed]
    exact opened_still w

end Sys2Proof.Certificates
end

section
/-! SUPPORT. POWER stands among a line's stop reasons exactly while its booster's request is above its grant (R96). -/

namespace Sys2Proof.Machine

variable {s : State}

/-- R96's law, with the sizes of the two tables that it reads. -/
def StopsFollow (s : State) : Prop := s.lines.length = 2 ∧ s.power.consumers.length = 26 ∧ PowerStops s

/-- Lines written with their POWER reasons kept. -/
theorem StopsFollow.withLines (hs : StopsFollow s) (l : List Line) (hl : l.length = s.lines.length)
    (hp : ∀ k, (l.getD k Line.initial).stops.power = (s.line k).stops.power) : StopsFollow (s.withLines l) := by
  obtain ⟨lines, consumers, law⟩ := hs
  refine ⟨hl.trans lines, consumers, fun k hk => ?_⟩
  show (l.getD k Line.initial).stops.power = true ↔ _
  rw [hp k]
  exact law k hk

theorem StopsFollow.setLine (hs : StopsFollow s) (l : Nat) (x : Line) (hx : x.stops.power = (s.line l).stops.power) :
    StopsFollow (s.setLine l x) := by
  refine hs.withLines _ List.length_set fun k => ?_
  show ((s.setLine l x).line k).stops.power = _
  rw [State.line_setLine_ite]
  split
  · rename_i e
    rw [hx, e.1]
  · rfl

/-- Consumers written with their grants and requests kept. -/
theorem StopsFollow.withPower (hs : StopsFollow s) (x : Power) (hx : x.consumers.length = s.power.consumers.length)
    (hc : ∀ c, (x.consumers.getD c Consumer.initial).grant = (s.consumer c).grant ∧
      (x.consumers.getD c Consumer.initial).request = (s.consumer c).request) : StopsFollow (s.withPower x) := by
  obtain ⟨lines, consumers, law⟩ := hs
  refine ⟨lines, hx.trans consumers, fun l hl => ?_⟩
  show _ ↔ (x.consumers.getD (24 + l) Consumer.initial).grant < (x.consumers.getD (24 + l) Consumer.initial).request
  rw [(hc (24 + l)).1, (hc (24 + l)).2]
  exact law l hl

theorem StopsFollow.sameConsumers (hs : StopsFollow s) (x : Power) (hx : x.consumers = s.power.consumers) :
    StopsFollow (s.withPower x) :=
  hs.withPower x (congrArg List.length hx) fun c => by
    rw [hx]
    exact ⟨rfl, rfl⟩

/-- A booster's line shows POWER by its new record. -/
theorem setConsumer_power {l : Nat} (x : Consumer) (hl : l < s.lines.length) :
    ((s.setConsumer (24 + l) x).line l).stops.power = decide (x.grant < x.request) := by
  unfold State.setConsumer
  dsimp only
  rw [if_neg (by omega), Nat.add_sub_cancel_left]
  exact congrArg (fun y : Line => y.stops.power) (State.line_setLine (s.withPower _) l _ hl)

theorem StopsFollow.setConsumer (hs : StopsFollow s) (c : Nat) (x : Consumer) : StopsFollow (s.setConsumer c x) := by
  have sizes : (s.setConsumer c x).lines.length = s.lines.length ∧
      (s.setConsumer c x).power.consumers.length = s.power.consumers.length :=
    setConsumer_keeps
      (P := fun t => t.lines.length = s.lines.length ∧ t.power.consumers.length = s.power.consumers.length)
      (fun _ hx h => ⟨h.1, hx.length.trans h.2⟩) (fun _ _ _ h => ⟨List.length_set.trans h.1, h.2⟩) c x ⟨rfl, rfl⟩
  obtain ⟨lines, consumers, law⟩ := hs
  refine ⟨sizes.1.trans lines, sizes.2.trans consumers, fun l hl => ?_⟩
  by_cases own : c = 24 + l
  · rw [own, setConsumer_consumer _ _ _ (by omega), setConsumer_power x (by omega), decide_eq_true_eq]
  · have line : (s.setConsumer c x).line l = s.line l := by
      by_cases cabinet : c < 24
      · unfold State.setConsumer
        rw [if_pos cabinet]
        rfl
      · exact setConsumer_line_other x s (by omega)
    rw [setConsumer_consumer_other x s (Ne.symm own), line]
    exact law l hl

/-- Every change that commands are made of keeps R96. -/
theorem stopsFollow_full (p : Port) : Full p StopsFollow where
  calls _ hs := hs
  freeCount _ hs := hs
  offer _ _ hs := hs
  course _ _ _ hs := hs
  earmarks _ hs := hs
  paging _ _ hs := hs
  bus _ _ hs := hs
  round _ _ hs := hs
  cab _ _ _ hs := hs
  line _ _ _ hp hs := hs.setLine _ _ hp
  consumer c x hs := hs.setConsumer c x
  power x _ hc hs := hs.sameConsumers x hc
  transfer _ _ _ _ _ hs := hs
  opening _ hs := hs
  plates _ _ _ _ hs := hs
  house _ _ hs := hs
  anyCourse _ _ hs := hs
  anyFire _ hs := hs
  anyCabs _ _ _ hs := hs
  anyLines l hl _ hp hs := hs.withLines l hl hp
  anyPower x hx hc hs := hs.withPower x hx.consumers hc
  anyPaging _ _ hs := hs
  confirm _ _ hs := hs
  noHold hs := hs
  clocks _ _ _ hs := hs
  anyBus _ _ hs := hs
  measured _ _ _ _ hs := hs
  lockout _ _ hs := hs
  ware _ _ _ hs := hs
  anyFn _ _ hs := hs
  rounds hs := hs
  setCab' _ _ hs := hs
  setLine' _ _ hp hs := hs.setLine _ _ hp
  settings x hc _ hs := hs.sameConsumers x hc
  pageSettings _ hs := hs
  pageOpen _ _ hs := hs
  anyPort q _ _ hs := by cases q <;> exact hs
  claim _ hs := hs
  service _ hs := hs
  closing _ hs := hs
  cleared _ hs := hs
  begin _ hs := hs
  reset _ _ := ⟨rfl, rfl, powerStops_reset⟩

/-- R96 is kept by every step. -/
theorem powerStops_step {t : State} (sized : Sized s) (law : PowerStops s) (he : step s = .next t) : PowerStops t := by
  have kept : StopsFollow t := Full.step (P := StopsFollow) stopsFollow_full (fun _ h => h) (fun _ h => h)
    ⟨sized.lines, sized.consumers, law⟩ he
  exact kept.2.2

end Sys2Proof.Machine
end

section
/-! SUPPORT. LINE_SET in the words of its rule (R79), and what R92 to R95 say of one line. -/

namespace Sys2Proof.Machine

variable {s t : State}

theorem line_congr (h : t.lines = s.lines) (l : Nat) : t.line l = s.line l := by
  unfold State.line
  rw [h]

/-! ### The ranges of LINE_SET -/

/-- The ranges of R79. -/
def LineFits (a : LineArgs) : Prop :=
  1 ≤ a.addr ∧ a.addr ≤ 31 ∧ a.defFn < 8 ∧ a.holdMode < 2 ∧ 70 ≤ a.sanMin ∧ a.sanMin ≤ 90 ∧ 2 ≤ a.high ∧ a.high ≤ 8 ∧
    a.low < a.high ∧ 60 ≤ a.transit ∧ a.transit ≤ 1800 ∧ 60 ≤ a.route ∧ a.route ≤ 1800 ∧ a.booster ≤ 300

theorem lineSet_range_iff (l : Nat) (a : LineArgs) : (decide (l < 2) && lineArgsOk a) = true ↔ l < 2 ∧ LineFits a := by
  simp only [lineArgsOk, LineFits, Bool.and_eq_true, decide_eq_true_eq, within_iff, isFlag_iff, withinTemp_iff,
    and_assoc]

/-! ### What a change of naming leaves of the lines (R148) -/

theorem bindNode_lines (a : Nat) (s : State) : (bindNode a s).lines = s.lines := by
  unfold bindNode
  extract_lets n b v
  have bound : v.lines = s.lines := by
    show (if b = .unbound then _ else _ : State).lines = _
    split <;> rfl
  split
  · exact bound
  · exact bound

theorem renamed_lines (a : Option Nat) (s : State) : (renamed a s).lines = s.lines := by
  unfold renamed
  split
  · rfl
  · split
    · exact bindNode_lines _ s
    · rfl

theorem renameFrom_lines (a b : Option Nat) (s : State) : (renameFrom a b s).lines = s.lines := by
  unfold renameFrom
  split
  · exact renamed_lines _ s
  · exact (renamed_lines _ _).trans (renamed_lines _ s)

theorem claimSet_lines (addr : Option Nat) (who : Binding) (w : Wanted) (u : Bool) (s : State) :
    (claimSet addr who w u s).lines = s.lines := by
  obtain ⟨b, e⟩ := claimSet_eq addr who w u s
  rw [e]
  rfl

theorem lineNaming_eq_some {a l : Nat} (hl : l < s.lines.length) (own : (s.line l).addr = some a)
    (alone : ∀ j, j < l → (s.line j).addr ≠ some a) : s.lineNaming a = some l := by
  have entry {j : Nat} (hj : j < s.lines.length) : s.lines[j] = s.line j := by
    simp [State.line, List.getD_eq_getElem?_getD, List.getElem?_eq_getElem hj]
  unfold State.lineNaming
  rw [List.findIdx?_eq_some_iff_getElem]
  refine ⟨hl, ?_, fun j hj => ?_⟩
  · rw [entry hl]
    simpa using own
  · rw [entry (hj.trans hl)]
    simpa using alone j hj

/-- A washer that answers at the address that one line alone names is bound to that line. -/
theorem renamed_binding_line {a l : Nat} (h1 : 1 ≤ a) (h31 : a ≤ 31) (nodes : s.bus.nodes.length = 31)
    (answers : (s.node a).presence = .present ∨ (s.node a).presence = .silent) (type : (s.node a).type = some .washer)
    (naming : s.lineNaming a = some l) : ((renamed (some a) s).node a).binding = .line l := by
  have matched : s.matching a = .line l := by
    unfold State.matching
    rw [type, naming]
  have made : renamed (some a) s = bindNode a s := if_pos ((answering_iff _).2 answers)
  rw [made, bindNode_binding h1 h31 nodes (by rw [matched]; simp), matched]

/-! ### The operations on one line, case by case -/

/-- The BACKPRESSURE reason that the watermarks give (R93). -/
def Line.pressed (x : Line) : Bool :=
  if x.high ≤ x.exits.length then true else if x.exits.length ≤ x.low then false else x.stops.backpressure

theorem backpressure_line {l : Nat} (hl : l < s.lines.length) : (backpressure l s).line l =
    { s.line l with stops := { (s.line l).stops with backpressure := (s.line l).pressed } } := by
  unfold backpressure Line.pressed Line.occupancy withStops
  dsimp only
  split
  · exact State.line_setLine _ _ _ hl
  · split
    · exact State.line_setLine _ _ _ hl
    · rfl

theorem setRunning_line_other {l j : Nat} (run : Bool) (hj : j ≠ l) : (setRunning l run s).line j = s.line j := by
  unfold setRunning
  dsimp only
  split
  · rfl
  · exact State.line_setLine_other _ _ _ _ hj

theorem setRunning_length (l : Nat) (run : Bool) (s : State) : (setRunning l run s).lines.length = s.lines.length := by
  unfold setRunning
  dsimp only
  split
  · rfl
  · exact List.length_set

/-- R92 to R95 on one line. -/
theorem lineOps_clauses (l : Nat) (s : State) :
    let x := s.line l
    let pressed := fun (b : Bool) => s.setLine l { x with stops := { x.stops with backpressure := b } }
    let wanted := decide (x.stops = ⟨false, false, false, false, false⟩)
    let y := s.consumer (24 + l)
    let calls := x.opRun = true ∧ (s.day.state = .service ∨ s.day.state = .closing) ∧ 0 < x.booster
    (x.high ≤ x.exits.length → backpressure l s = pressed true) ∧
      (x.exits.length < x.high → x.exits.length ≤ x.low → backpressure l s = pressed false) ∧
      (x.low < x.exits.length → x.exits.length < x.high → backpressure l s = s) ∧
      (∀ u, (x.wantedRun = wanted → conveyorSync u l s = s) ∧
        (x.wantedRun ≠ wanted → conveyorSync u l s =
          claimSet x.addr (.line l) (.line wanted) u (s.setLine l { x with wantedRun := wanted }))) ∧
      (∀ run, (x.running = run → setRunning l run s = s) ∧
        (x.running ≠ run → setRunning l run s =
          raise (if run then .lineRunning else .lineStopped) l x.stops.mask (if wanted then 0 else 1)
            (s.setLine l { x with running := run }))) ∧
      (calls → boosterSync l s = if y.request = 0 then request (24 + l) x.booster s else s) ∧
      (¬calls → boosterSync l s = if 0 < y.request ∨ 0 < y.grant then release (24 + l) s else s) := by
  intro x pressed wanted y calls
  refine ⟨fun h => if_pos h, fun h g => (if_neg (Nat.not_le.2 h)).trans (if_pos g),
    fun h g => (if_neg (Nat.not_le.2 g)).trans (if_neg (Nat.not_le.2 h)),
    fun _ => ⟨fun h => if_pos h, fun h => if_neg h⟩, fun _ => ⟨fun h => if_pos h, fun h => if_neg h⟩,
    fun h => boosterSync_calling h, fun h => boosterSync_resting h⟩

/-! ### LINE_SET's effect -/

/-- A line's record with the settings of LINE_SET. -/
def Line.given (x : Line) (a : LineArgs) : Line := { x with
  addr := some a.addr, defFn := a.defFn, strict := decide (a.holdMode = 0), sanMin := a.sanMin, high := a.high,
  low := a.low, transitLimit := a.transit, routeTimeout := a.route, booster := a.booster }

/-- The line named at its new address, its conveyor STOPPED and its wanted conveyor claimed there. -/
def lineMoved (l : Nat) (a : LineArgs) (s : State) : State :=
  claimSet (some a.addr) (.line l) (.line (s.line l).wantedRun) false (renameFrom (s.line l).addr (some a.addr)
    (setRunning l false (s.setLine l { (s.line l).given a with lastEvent := none })))

/-- LINE_SET up to its watermarks. -/
def lineGiven (l : Nat) (a : LineArgs) (s : State) : State :=
  backpressure l (if (s.line l).addr = some a.addr then s.setLine l ((s.line l).given a) else lineMoved l a s)

/-- And the draw of a line with no washer at its new address. -/
def lineMeasured (l : Nat) (same : Prop) [Decidable same] (v : State) : State :=
  if ¬same ∧ v.lineBound l = false then
    callCheck (v.setConsumer (24 + l) { v.consumer (24 + l) with measured := 0, lastReport := none })
  else v

variable {l : Nat} {a : LineArgs}

/-- The line that the address change leaves before its watermarks. -/
theorem stopped_line (hl : l < s.lines.length) :
    (setRunning l false (s.setLine l { (s.line l).given a with lastEvent := none })).line l =
      { (s.line l).given a with lastEvent := none, running := false } := by
  rw [setRunning_line false (by rw [State.setLine_lines, List.length_set]; exact hl), State.line_setLine _ _ _ hl]

theorem lineMoved_line (hl : l < s.lines.length) :
    (lineMoved l a s).line l = { (s.line l).given a with lastEvent := none, running := false } := by
  unfold lineMoved
  rw [line_congr (claimSet_lines _ _ _ _ _), line_congr (renameFrom_lines _ _ _), stopped_line hl]

theorem configureLine_eq (hl : l < s.lines.length) :
    configureLine l a s = lineMeasured l ((s.line l).addr = some a.addr) (lineGiven l a s) := by
  have own : (s.setLine l ((s.line l).given a)).line l = (s.line l).given a := State.line_setLine _ _ _ hl
  have moved (z : State) (hz : z = renameFrom (s.line l).addr (some a.addr)
      (setRunning l false (s.setLine l { (s.line l).given a with lastEvent := none }))) :
      claimSet (some a.addr) (.line l) (.line (z.line l).wantedRun) false z = lineMoved l a s := by
    have wanted : (z.line l).wantedRun = (s.line l).wantedRun := by
      rw [hz, line_congr (renameFrom_lines _ _ _), stopped_line hl]
      rfl
    rw [wanted, hz]
    rfl
  have settled : (if (s.line l).addr = some a.addr then s.setLine l ((s.line l).given a) else
      let v := setRunning l false ((s.setLine l ((s.line l).given a)).setLine l
        { (s.setLine l ((s.line l).given a)).line l with lastEvent := none })
      let v := renameFrom (s.line l).addr (some a.addr) v
      claimSet (some a.addr) (.line l) (.line (v.line l).wantedRun) false v) =
      if (s.line l).addr = some a.addr then s.setLine l ((s.line l).given a) else lineMoved l a s := by
    rw [own, State.setLine_setLine]
    exact if_congr Iff.rfl rfl (moved _ rfl)
  have whole : configureLine l a s =
      if (decide ((s.line l).addr ≠ some a.addr) && !(lineGiven l a s).lineBound l) = true then
        clearMeasured (24 + l) (lineGiven l a s) else lineGiven l a s := by
    unfold lineGiven
    rw [← settled]
    rfl
  rw [whole]
  exact if_congr (by simp) rfl rfl

/-- The line as LINE_SET leaves it. -/
theorem lineGiven_line (hl : l < s.lines.length) : (lineGiven l a s).line l =
    { (s.line l).given a with
      lastEvent := if (s.line l).addr = some a.addr then (s.line l).lastEvent else none,
      running := decide ((s.line l).addr = some a.addr) && (s.line l).running,
      stops := { (s.line l).stops with backpressure := ((s.line l).given a).pressed } } := by
  unfold lineGiven
  by_cases same : (s.line l).addr = some a.addr
  · rw [if_pos same, backpressure_line (by rw [State.setLine_lines, List.length_set]; exact hl), State.line_setLine _ _ _ hl,
      if_pos same, decide_eq_true same]
    rfl
  · have length : l < (lineMoved l a s).lines.length := by
      unfold lineMoved
      rw [claimSet_lines, renameFrom_lines, setRunning_length, State.setLine_lines, List.length_set]
      exact hl
    rw [if_neg same, backpressure_line length, lineMoved_line hl, if_neg same, decide_eq_false same]
    rfl

end Sys2Proof.Machine
end

section
/-! SUPPORT. LINE_SET's effect beside the line's own record: the binding of the washer there (R148), and all else. -/

namespace Sys2Proof.Machine

variable {s : State} {P : State → Prop} {l : Nat} {a : LineArgs}

/-- From the line so written, nothing but what an event may change. -/
theorem lineMeasured_ground (hl : l < s.lines.length) (same : Prop) [Decidable same] {r : Line}
    (hr : LineConfig r ((s.line l).given a)) (power : r.stops.power = (s.line l).stops.power) :
    Ground (s.setLine l r) (lineMeasured l same (lineGiven l a s)) := by
  have calm := Ground.calm (s.setLine l r)
  have own : (s.setLine l r).line l = r := State.line_setLine _ _ _ hl
  have written (x : Line) (hx : LineConfig r x) (hp : x.stops.power = r.stops.power) :
      Ground (s.setLine l r) (s.setLine l x) := by
    rw [← State.setLine_setLine s l r x]
    exact calm.setLine l x (by rw [own]; exact hx) (by rw [own]; exact hp) (Ground.refl _)
  have moved : Ground (s.setLine l r) (lineMoved l a s) := by
    have stopped := calm.setRunning l false (written { (s.line l).given a with lastEvent := none } ⟨hr.addr, hr.defFn,
      hr.strict, hr.sanMin, hr.high, hr.low, hr.transitLimit, hr.routeTimeout, hr.booster⟩ power.symm)
    exact calm.claimSet _ _ _ _ (calm.renameFrom _ _ stopped)
  have given : Ground (s.setLine l r) (lineGiven l a s) := by
    refine calm.backpressure l ?_
    split
    · exact written _ hr power.symm
    · exact moved
  unfold lineMeasured
  split
  · exact calm.callCheck (calm.setConsumer _ _ given)
  · exact given

/-- A line's naming has moved to an address that the other line does not name: a washer that answers there is bound to
the line. -/
theorem lineMoved_binding (hs : Sized s) (hl : l < 2) (h1 : 1 ≤ a.addr) (h31 : a.addr ≤ 31)
    (alone : (s.line (1 - l)).addr ≠ some a.addr) (changed : (s.line l).addr ≠ some a.addr)
    (answers : (s.node a.addr).presence = .present ∨ (s.node a.addr).presence = .silent)
    (type : (s.node a.addr).type = some .washer) : ((lineMoved l a s).node a.addr).binding = .line l := by
  have hlen : l < s.lines.length := hs.lines ▸ hl
  let stopped := setRunning l false (s.setLine l { (s.line l).given a with lastEvent := none })
  have own : (stopped.line l).addr = some a.addr := by
    rw [stopped_line hlen]
    rfl
  have other : (stopped.line (1 - l)).addr ≠ some a.addr := by
    rw [setRunning_line_other _ (by omega), State.line_setLine_other _ _ _ _ (by omega)]
    exact alone
  have bus : stopped.bus = s.bus := (setRunning_rest _ _ _).1
  have old : Rebound stopped (renamed (s.line l).addr stopped) := (Rebound.refl _).renamed _
  have lines := renamed_lines (s.line l).addr stopped
  have node (b : Nat) : stopped.node b = s.node b := node_congr (congrArg Bus.nodes bus) b
  have bound : ((renamed (some a.addr) (renamed (s.line l).addr stopped)).node a.addr).binding = .line l := by
    refine renamed_binding_line h1 h31 (by rw [old.length, bus, hs.nodes]) (by rw [old.presence, node]; exact answers)
      (by rw [old.type, node]; exact type) (lineNaming_eq_some ?_ ?_ fun j hj => ?_)
    · rw [lines, setRunning_length, State.setLine_lines, List.length_set]
      exact hlen
    · rw [line_congr lines]
      exact own
    · rw [line_congr lines, show j = 1 - l by omega]
      exact other
  have renamedNode : renameFrom (s.line l).addr (some a.addr) stopped =
      renamed (some a.addr) (renamed (s.line l).addr stopped) := if_neg changed
  have claimed : NodeKeeps ((renameFrom (s.line l).addr (some a.addr) stopped).node a.addr) ((lineMoved l a s).node a.addr) :=
    ((Floor.stable _).claimSet _ _ _ _ (Floor.refl _)).bus.nodes (State.nodeIdx a.addr)
  rw [claimed.binding, renamedNode, bound]

/-- What comes after the naming leaves it so. -/
theorem lineMeasured_binding (b : Nat) (changed : (s.line l).addr ≠ some a.addr) (same : Prop) [Decidable same] :
    ((lineMeasured l same (lineGiven l a s)).node b).binding = ((lineMoved l a s).node b).binding := by
  have floor := Floor.stable (lineMoved l a s)
  have given : Floor (lineMoved l a s) (lineGiven l a s) := by
    unfold lineGiven
    rw [if_neg changed]
    exact floor.backpressure l (Floor.refl _)
  have measured : Floor (lineMoved l a s) (lineMeasured l same (lineGiven l a s)) := by
    unfold lineMeasured
    split
    · exact floor.toHush.callCheck (floor.setConsumer _ _ given)
    · exact given
  exact (measured.bus.nodes (State.nodeIdx b)).binding

end Sys2Proof.Machine

namespace Sys2Proof.Certificates

open Sys2Proof.Machine

/-- LINE_SET (R79), with the states that its rule names. -/
theorem lineSet_clauses (p : Port) (l : Nat) (a : LineArgs) (s : State) (ha : Admitted (.lineSet p l a) p s)
    (sized : Sized s) :
    let i := Instr.lineSet p l a
    let u := before i p s
    let x := u.line l
    let good := l < 2 ∧ LineFits a
    let taken := (s.line (1 - l)).addr = some a.addr
    let same := x.addr = some a.addr
    let r := { x.given a with
      lastEvent := if same then x.lastEvent else none,
      running := decide same && x.running,
      stops := { x.stops with backpressure := (x.given a).pressed } }
    let v := lineGiven l a u
    let w := lineMeasured l same v
    let n := s.node a.addr
    (good → ¬taken → (u.fn a.defFn).used = true → s.day.state = .opening →
      ∃ t, Executes i p s [] t ∧ t = finish w ∧ v.line l = r ∧ Ground (u.setLine l r) w ∧ Floor w t ∧
        (¬same → n.presence = .present ∨ n.presence = .silent → n.type = some .washer →
          (w.node a.addr).binding = .line l)) ∧
      (¬good → RefusedWith i p s .range) ∧ (good → taken → RefusedWith i p s .conflict) ∧
      (good → ¬taken → (u.fn a.defFn).used = false → RefusedWith i p s .notFound) ∧
      (good → ¬taken → (u.fn a.defFn).used = true → s.day.state ≠ .opening → RefusedWith i p s .badState) := by
  intro i u x good taken same r v w n
  have hb : bodyOf i u = checked
      [(decide (l < 2) && lineArgsOk a, .range), (decide ((u.line (1 - l)).addr ≠ some a.addr), .conflict),
        ((u.fn a.defFn).used, .notFound), (inDay u [.opening], .badState)]
      (fun s => okWith [] (finish (configureLine l a s))) u := rfl
  have range := lineSet_range_iff l a
  have free : decide ((u.line (1 - l)).addr ≠ some a.addr) = decide ¬taken := by
    rw [before_line]
  have day : inDay u [.opening] = decide (s.day.state = .opening) := by rw [inDay_opening, before_day]
  have sizedU : Sized u := sized.before i p
  rw [free, day] at hb
  refine ⟨fun hg ht hf hd => ?_, fun hg => RefusedWith.of_checks rfl ha hb (firstFailure_head
    (Bool.eq_false_iff.2 fun e => hg (range.1 e))), fun hg ht => ?_, fun hg ht hf => ?_, fun hg ht hf hd => ?_⟩
  · have hl : l < u.lines.length := by
      rw [sizedU.lines]
      exact hg.1
    refine ⟨finish w, Executes.of_checks rfl ha hb ?_ ?_, rfl, lineGiven_line hl,
      lineMeasured_ground hl same (by constructor <;> rfl) rfl, finish_floor w, fun changed answers type => ?_⟩
    · exact (firstFailure_tail (range.2 hg)).trans ((firstFailure_tail (decide_eq_true ht)).trans
        ((firstFailure_tail hf).trans (firstFailure_tail (decide_eq_true hd))))
    · rw [configureLine_eq hl]
    · obtain ⟨hl2, h1, h31, -⟩ := hg
      refine (lineMeasured_binding a.addr changed same).trans (lineMoved_binding sizedU hl2 h1 h31 ?_ changed ?_ ?_)
      · rw [before_line]
        exact ht
      · rw [before_node]
        exact answers
      · rw [before_node]
        exact type
  · exact RefusedWith.of_checks rfl ha hb ((firstFailure_tail (range.2 hg)).trans
      (firstFailure_head (decide_eq_false (not_not_intro ht))))
  · exact RefusedWith.of_checks rfl ha hb ((firstFailure_tail (range.2 hg)).trans
      ((firstFailure_tail (decide_eq_true ht)).trans (firstFailure_head hf)))
  · exact RefusedWith.of_checks rfl ha hb ((firstFailure_tail (range.2 hg)).trans
      ((firstFailure_tail (decide_eq_true ht)).trans ((firstFailure_tail hf).trans
        (firstFailure_head (decide_eq_false hd)))))

/-- LINE_MODE (R97). -/
theorem lineMode_clauses (p : Port) (l mode : Nat) (s : State) (ha : Admitted (.lineMode p l mode) p s) (sized : Sized s) :
    let i := Instr.lineMode p l mode
    let u := before i p s
    let x := u.line l
    let run := decide (mode = 0)
    let reply := fun (t : State) => be8 (t.line l).stops.mask ++ be8 (if (t.line l).wantedRun then 0 else 1)
    let v := u.setLine l { x with opRun := run, stops := { x.stops with operator := !run } }
    let w := boosterSync l v
    (l < 2 → mode < 2 →
      (x.opRun = run → Executes i p s (reply u) u) ∧
        (x.opRun ≠ run →
          ∃ t, Executes i p s (reply t) t ∧ t = finish w ∧ Floor v w ∧ Floor w t ∧
            (run = true → s.dayRuns = true → 0 < x.booster → (u.consumer (24 + l)).request = 0 →
              w = request (24 + l) x.booster v ∧ (w.consumer (24 + l)).request = x.booster) ∧
            (run = false → (w.consumer (24 + l)).request = 0 ∧ (w.consumer (24 + l)).grant = 0))) ∧
      (2 ≤ l ∨ 2 ≤ mode → RefusedWith i p s .range) := by
  intro i u x run reply v w
  have hb : bodyOf i u = checked [(decide (l < 2) && isFlag mode, .range), (inDay u openDays, .badState)]
      (fun s =>
        let x := s.line l
        let s :=
          if x.opRun = run then s
          else finish (boosterSync l (s.setLine l { x with opRun := run, stops := { x.stops with operator := !run } }))
        okWith (reply s) s) u := rfl
  have range : (decide (l < 2) && isFlag mode) = true ↔ l < 2 ∧ mode < 2 := by
    rw [Bool.and_eq_true, decide_eq_true_eq, isFlag_iff]
  have sizedU : Sized u := sized.before i p
  refine ⟨fun hl hm => ?_, fun h => RefusedWith.of_checks rfl ha hb (firstFailure_head (Bool.eq_false_iff.2 fun e => ?_))⟩
  · have checks : firstFailure [(decide (l < 2) && isFlag mode, .range), (inDay u openDays, .badState)] = none :=
      (firstFailure_tail (range.2 ⟨hl, hm⟩)).trans (firstFailure_tail (ha.inDay rfl rfl))
    have own : v.line l = { x with opRun := run, stops := { x.stops with operator := !run } } :=
      State.line_setLine _ _ _ (by rw [sizedU.lines]; exact hl)
    have consumers : 24 + l < v.power.consumers.length := by
      show 24 + l < u.power.consumers.length
      rw [sizedU.consumers]
      omega
    refine ⟨fun h => Executes.of_checks rfl ha hb checks ?_, fun h => ⟨finish w, Executes.of_checks rfl ha hb checks ?_, rfl,
      (Floor.stable v).boosterSync l (Floor.refl v), finish_floor w, fun hr runs units idle => ?_, fun hr => ?_⟩⟩
    · exact congrArg (fun t => okWith (reply t) t) (if_pos h)
    · exact congrArg (fun t => okWith (reply t) t) (if_neg h)
    · have calls : BoosterCalls l v := by
        unfold BoosterCalls
        rw [own]
        exact ⟨hr, (dayRuns_iff v).1 (by show u.dayRuns = true; unfold State.dayRuns; rw [before_day]; exact runs), units⟩
      have claimed : w = request (24 + l) x.booster v := by
        have e : w = request (24 + l) (v.line l).booster v := (boosterSync_calling calls).trans (if_pos idle)
        rw [own] at e
        exact e
      exact ⟨claimed, by rw [claimed]; exact request_request _ consumers⟩
    · have rests : ¬BoosterCalls l v := fun h => by
        obtain ⟨on, -, -⟩ := h
        rw [own] at on
        exact Bool.false_ne_true (hr.symm.trans on)
      have e : w = _ := boosterSync_resting rests
      rw [e]
      split
      · rw [release_consumer consumers]
        exact ⟨rfl, rfl⟩
      · omega
  · obtain ⟨hl, hm⟩ := range.1 e
    omega

/-- Settles O29: LINE_SET, LINE_MODE, the operations on one line, and the law of POWER that every step keeps. -/
theorem lineCommandsAct : Obligations.LineCommandsAct := by
  refine ⟨fun p l a s ha sized => ?_, lineMode_clauses, lineOps_clauses, fun s t sized law he => powerStops_step sized law he⟩
  exact lineSet_clauses p l a s ha sized

end Sys2Proof.Certificates
end

section
/-! SUPPORT. A washer's report, its rack events and the routing of racks, in the words of their rules (R82–R91, R94). -/

namespace Sys2Proof.Machine

variable {s : State} {l : Nat}

theorem isNone_eq_decide {α : Type} [DecidableEq α] (o : Option α) : o.isNone = decide (o = none) := by
  cases o <;> rfl

/-! ### The two timers (R85, R91) -/

theorem transitExpiry_held {tag : Nat} {r : Rack} (found : (s.line l).inside.find? (fun y => y.tag = tag) = some r)
    (limit : (s.line l).transitJudged ≤ r.transit) : transitExpiry l tag s = finish (transitHold l r s) := by
  unfold transitExpiry
  rw [found]
  exact if_pos limit

theorem routeTimeout_ended {tag k a : Nat} {r : Rack} (found : (s.line l).exits.find? (fun y => y.tag = tag) = some r)
    (dest : r.dest = some k) (time : r.routeTime = some a) (limit : a + (s.line l).routeTimeout ≤ s.day.clock) :
    routeTimeout l tag s = finish (unrouteRack l tag (raise .routeExpired l tag k (unrouted l tag (some k) s))) := by
  have expired : s.expiredRoute l tag = some k := by
    unfold State.expiredRoute Line.exitRack
    simp only [found, dest, time]
    exact if_pos limit
  unfold routeTimeout
  rw [expired]
  rfl

/-! ### The sequence window (R82) -/

theorem applyEvents_unset (h : (s.line l).lastEvent = none) (es : List RackEvent) :
    applyEvents l es s = es.foldl (fun t e => applyEvent l e t) s :=
  if_pos (by rw [h]; rfl)

theorem applyEvents_set (h : (s.line l).lastEvent ≠ none) (es : List RackEvent) :
    applyEvents l es s = es.foldl (fun t e => windowEvent l e t) s :=
  if_neg fun e => h (Option.isNone_iff_eq_none.1 e)

/-- How far an event's sequence is behind the last applied one, cyclically. -/
def eventBehind (e : RackEvent) (last : Nat) : Nat := (RackEvent.seq e + 256 - last % 256) % 256

section window

variable {e : RackEvent} {last : Nat} (h : (s.line l).lastEvent = some last)
include h

theorem windowEvent_eq : windowEvent l e s =
    if 1 ≤ eventBehind e last ∧ eventBehind e last ≤ 127 then
      applyEvent l e (if 1 < eventBehind e last then raise .lineEventGap l ((last + 1) % 256) (RackEvent.seq e) s else s)
    else s := by
  unfold windowEvent
  rw [h]
  rfl

theorem windowEvent_outside (out : eventBehind e last = 0 ∨ 128 ≤ eventBehind e last) : windowEvent l e s = s := by
  rw [windowEvent_eq h]
  exact if_neg (by omega)

theorem windowEvent_next (next : eventBehind e last = 1) : windowEvent l e s = applyEvent l e s := by
  rw [windowEvent_eq h, next]
  rfl

theorem windowEvent_gap (h2 : 2 ≤ eventBehind e last) (h127 : eventBehind e last ≤ 127) :
    windowEvent l e s = applyEvent l e (raise .lineEventGap l ((last + 1) % 256) (RackEvent.seq e) s) := by
  rw [windowEvent_eq h, if_pos ⟨by omega, h127⟩, if_pos (by omega)]

end window

/-! ### ENTER and EXIT (R83, R84) -/

/-- The line with its last applied event. -/
def noted (l q : Nat) (s : State) : State := s.setLine l { s.line l with lastEvent := some q }

theorem noted_line (hl : l < s.lines.length) (q : Nat) :
    (noted l q s).line l = { s.line l with lastEvent := some q } := State.line_setLine _ _ _ hl

theorem applyEvent_enter (l q tag : Nat) (s : State) : applyEvent l (.enter q tag) s = enterEvent l tag (noted l q s) := rfl

theorem applyEvent_exit (l q tag : Nat) (rinse : Int) (s : State) :
    applyEvent l (.exit q tag rinse) s = exitEvent l tag rinse (noted l q s) := rfl

theorem enterEvent_found {tag : Nat} {r : Rack} (found : (s.line l).staged.find? (fun y => y.tag = tag) = some r) :
    enterEvent l tag s = s.setLine l { s.line l with
      staged := (s.line l).staged.filter fun y => y.tag ≠ tag,
      inside := (s.line l).inside ++ [{ r with entry := some s.day.clock, transit := 0 }] } := by
  unfold enterEvent
  dsimp only
  rw [found]
  rfl

theorem enterEvent_unknown {tag : Nat} (found : (s.line l).staged.find? (fun y => y.tag = tag) = none) :
    enterEvent l tag s = raise .rackUnknown l tag (pair 0 ((s.line l).stateOf tag)) s := by
  unfold enterEvent
  dsimp only
  rw [found]

theorem exitEvent_unknown {tag : Nat} (rinse : Int) (found : (s.line l).inside.find? (fun y => y.tag = tag) = none) :
    exitEvent l tag rinse s = raise .rackUnknown l tag (pair 1 ((s.line l).stateOf tag)) s := by
  unfold exitEvent
  dsimp only
  rw [found]

section leaving

variable {inside ahead rest : List Rack} {r : Rack} {tag : Nat} (whole : inside = ahead ++ r :: rest) (own : r.tag = tag)
  (before : ∀ y ∈ ahead, y.tag ≠ tag)
include whole own before

theorem find_leaving : inside.find? (fun y => y.tag = tag) = some r := by
  have none : ahead.find? (fun y => y.tag = tag) = none := List.find?_eq_none.2 fun y hy => by simpa using before y hy
  rw [whole, List.find?_append, none, Option.none_or, List.find?_cons_of_pos (by simpa using own)]

theorem takeWhile_leaving : inside.takeWhile (fun y => y.tag ≠ tag) = ahead := by
  rw [whole, List.takeWhile_append_of_pos fun y hy => by simpa using before y hy,
    List.takeWhile_cons_of_neg (by simpa using own), List.append_nil]

omit before in
theorem filter_leaving (behind : ∀ y ∈ rest, y.tag ≠ tag ∧ y ∉ ahead) :
    inside.filter (fun y => y.tag ≠ tag ∧ y ∉ ahead) = rest := by
  have gone : ahead.filter (fun y => y.tag ≠ tag ∧ y ∉ ahead) = [] :=
    List.filter_eq_nil_iff.2 fun y hy => by simp [hy]
  rw [whole, List.filter_append, gone, List.nil_append, List.filter_cons_of_neg (by simp [own]),
    List.filter_eq_self.2 fun y hy => by simpa using behind y hy]

end leaving

/-- The rack that leaves the machine, and the racks ahead of it, which become HELD. -/
theorem exitEvent_found {ahead rest : List Rack} {r : Rack} {tag : Nat} (rinse : Int)
    (whole : (s.line l).inside = ahead ++ r :: rest) (own : r.tag = tag) (before : ∀ y ∈ ahead, y.tag ≠ tag)
    (behind : ∀ y ∈ rest, y.tag ≠ tag ∧ y ∉ ahead) :
    let v := ahead.foldl (fun t y => holdRack l y .skipped t) (withInside l rest s)
    exitEvent l tag rinse s =
      if rinse < (s.line l).sanMin then backpressure l (holdRack l r .rinse v)
      else routingPass l (backpressure l (callClose
        (carried r .washing .clean (v.setLine l { v.line l with exits := (v.line l).exits ++ [r] })))) := by
  unfold exitEvent
  dsimp only
  rw [find_leaving whole own before]
  dsimp only
  rw [takeWhile_leaving whole own before, filter_leaving whole own behind]
  rfl

/-! ### The report (R94) -/

/-- The rinse temperature, and the flag that it is low. -/
theorem applyRinse_eq (hl : l < s.lines.length) (t : Int) :
    let x := s.line l
    let rinsed := s.setLine l { x with rinse := t }
    applyRinse l t s =
      if x.sanMin ≤ t then s.setLine l { x with rinse := t, rinseLow := false }
      else if x.running = true ∧ x.rinseLow = false then
        raise .lineRinseLow l (tempCode t) (tempCode x.sanMin) (rinsed.setLine l { rinsed.line l with rinseLow := true })
      else rinsed := by
  intro x rinsed
  have reached : rinsed.setLine l { rinsed.line l with rinseLow := false } =
      s.setLine l { x with rinse := t, rinseLow := false } := by
    rw [show rinsed.line l = { x with rinse := t } from State.line_setLine _ _ _ hl]
    exact State.setLine_setLine s l _ _
  rw [← reached]
  exact if_congr Iff.rfl rfl (if_congr (by simp [x]) rfl rfl)

/-! ### Routing (R89, R90) -/

theorem routingPass_eq (l : Nat) (s : State) :
    let x := s.line l
    let seen := if x.strict then x.exits.takeWhile fun r => r.reason = none else x.exits
    routingPass l s = (seen.filter fun r => r.reason = none ∧ r.dest = none).foldl (fun t r => routeRack l r t) s := by
  unfold routingPass
  simp only [isNone_eq_decide, Bool.decide_and]

/-- The candidates of a rack, by the fields of the cabinets. -/
theorem candidates_eq (r : Rack) (s : State) (serves : Nat → Prop) [DecidablePred serves]
    (h : ∀ k, serves k ↔ (s.cab k).accepts r.cls (r.count - r.loaded) = true ∧ (s.fn r.fn).members.testBit k = true) :
    s.candidates r = (List.range 24).filter fun k => serves k := by
  refine List.filter_congr fun k _ => ?_
  rw [Bool.eq_iff_iff, Bool.and_eq_true, decide_eq_true_eq, h]

/-- The first above the pointer, cyclically. -/
theorem pickCandidate_round (round tag : Nat) (l : List Nat) : pickCandidate .round round tag l =
    ((l.filter fun j => round < j) ++ (l.filter fun j => j ≤ round)).head? := by
  unfold pickCandidate
  rw [List.head?_append, List.head?_filter]
  cases h : l.find? (fun j => round < j) with
  | some k => rfl
  | none =>
    have low : l.filter (fun j => j ≤ round) = l := List.filter_eq_self.2 fun j hj => by
      simpa using List.find?_eq_none.1 h j hj
    rw [low]
    rfl

theorem pickCandidate_nil (mode : RouteMode) (round tag : Nat) : pickCandidate mode round tag [] = none := by
  cases mode <;> rfl

theorem pickCandidate_isSome (mode : RouteMode) (round tag : Nat) {l : List Nat} (h : l ≠ []) :
    ∃ k, pickCandidate mode round tag l = some k := by
  obtain ⟨k, rest, rfl⟩ := List.exists_cons_of_ne_nil h
  cases mode with
  | fill => exact ⟨k, rfl⟩
  | round =>
    unfold pickCandidate
    dsimp only
    split
    · exact ⟨_, rfl⟩
    · exact ⟨k, rfl⟩
  | spread => exact ⟨_, List.getElem?_eq_getElem (Nat.mod_lt tag (List.length_pos_of_ne_nil h))⟩

theorem routeRack_unrouted {r : Rack} (none : s.candidates r = []) : routeRack l r s =
    if r.noticed then s
    else raise .rackUnrouted l r.tag r.count (updExit l r.tag (fun x => { x with noticed := true }) s) := by
  unfold routeRack
  dsimp only
  rw [none, pickCandidate_nil]

theorem routeRack_routed {r : Rack} {k : Nat}
    (picked : pickCandidate (s.fn r.fn).mode (s.fn r.fn).round r.tag (s.candidates r) = some k) :
    let v := acceptRoute k l r.tag (r.count - r.loaded)
      (if (s.fn r.fn).mode = .round then s.setFn r.fn { s.fn r.fn with round := k } else s)
    routeRack l r s = raise .rackRouted l r.tag k
      (updExit l r.tag (fun x => { x with dest := some k, routeTime := some v.now }) v) := by
  unfold routeRack
  dsimp only
  rw [picked]

end Sys2Proof.Machine

namespace Sys2Proof.Certificates

open Sys2Proof.Machine

/-- Settles O33, each clause by the law of its operation. -/
theorem rackEventsAndTimersAct : Obligations.RackEventsAndTimersAct := by
  refine ⟨fun l tag r s live sized hl => ⟨fun found limit => ?_, fun k a found dest time limit => ?_⟩,
    fun l r why s _ _ => holdRack_eq l r why s, fun l rep s sized hl => ?_,
    fun l es s => ⟨fun h => applyEvents_unset h es, fun h => applyEvents_set h es, fun e last h => ?_⟩,
    fun l q tag rinse s sized hl => ?_, routingPass_eq, fun l r s => ?_⟩
  · exact (live_next _ live).trans (congrArg _ (transitExpiry_held found limit))
  · exact (live_next _ live).trans (congrArg _ (routeTimeout_ended found dest time limit))
  · intro x rinsed judged moved y ran
    have rinse : applyRinse l rep.rinse s = judged := applyRinse_eq (by rw [sized.lines]; exact hl) rep.rinse
    unfold applyWasherReport
    rw [rinse]
    rfl
  · intro q behind
    have seq : q = RackEvent.seq e := by cases e <;> rfl
    have diff : behind = eventBehind e last := by
      show (q + 256 - last % 256) % 256 = _
      rw [seq]
      rfl
    rw [diff, seq]
    exact ⟨windowEvent_outside h, windowEvent_next h, windowEvent_gap h⟩
  · intro x
    have own : (noted l q s).line l = { x with lastEvent := some q } := noted_line (by rw [sized.lines]; exact hl) q
    refine ⟨fun r found => ?_, fun found => ?_, fun found => ?_, fun ahead r rest whole tagged before behind => ?_⟩
    · rw [applyEvent_enter, enterEvent_found (r := r) (by rw [own]; exact found), own]
      exact State.setLine_setLine s l _ _
    · rw [applyEvent_enter, enterEvent_unknown (by rw [own]; exact found), own]
      rfl
    · rw [applyEvent_exit, exitEvent_unknown rinse (by rw [own]; exact found), own]
      rfl
    · intro v
      have inside : withInside l rest (noted l q s) = s.setLine l { x with lastEvent := some q, inside := rest } := by
        unfold withInside
        rw [own]
        exact State.setLine_setLine s l _ _
      have exit := exitEvent_found (s := noted l q s) rinse (by rw [own]; exact whole) tagged before behind
      rw [inside, own] at exit
      rw [applyEvent_exit]
      exact ⟨fun low => exit.trans (if_pos low), fun high => exit.trans (if_neg (Int.not_lt.2 high))⟩
  · intro f serves cands chosen marked
    have candidates : s.candidates r = cands := candidates_eq r s serves fun k => by
      rw [accepts_iff]
      simp only [serves]
      constructor
      · rintro ⟨kind, cls, member, state, room⟩
        exact ⟨⟨kind, cls, state, room⟩, member⟩
      · rintro ⟨⟨kind, cls, state, room⟩, member⟩
        exact ⟨kind, cls, member, state, room⟩
    have picks (k : Nat) : chosen k ↔ pickCandidate f.mode f.round r.tag cands = some k := by
      simp only [chosen]
      cases f.mode with
      | fill => rfl
      | round => rw [pickCandidate_round]
      | spread => rfl
    refine ⟨fun none => ?_, fun some => ?_, fun k choice => ?_⟩
    · exact routeRack_unrouted (candidates.trans none)
    · exact (pickCandidate_isSome _ _ _ some).imp fun k h => (picks k).2 h
    · exact routeRack_routed (by rw [candidates]; exact (picks k).1 choice)

end Sys2Proof.Certificates
end

section
/-! SUPPORT. The grant law (R105, R110) through the operations that claim, give and take power: a claim never raises a
grant, admission and the restore check raise one only where the rise fits the budget, and a shed lowers its victim. -/

namespace Sys2Proof.Machine

variable {s t : State}

/-! ### Sums over the consumers -/

theorem total_map_set {α : Type} (f : α → Nat) (d x : α) : ∀ (l : List α) (c : Nat), c < l.length →
    total ((l.set c x).map f) + f (l.getD c d) = total (l.map f) + f x
  | [], c, h => absurd h (Nat.not_lt_zero c)
  | y :: ys, 0, _ => by
    simp only [List.set_cons_zero, List.map_cons, total_cons, List.getD_cons_zero]
    omega
  | y :: ys, c + 1, h => by
    have ih := total_map_set f d x ys c (Nat.lt_of_succ_lt_succ h)
    simp only [List.set_cons_succ, List.map_cons, total_cons, List.getD_cons_succ]
    omega

/-- Of the power record, a written consumer changes its own entry alone. -/
theorem setConsumer_powerRecord (c : Nat) (x : Consumer) (s : State) :
    (s.setConsumer c x).power = { s.power with consumers := s.power.consumers.set c x } := by
  unfold State.setConsumer
  dsimp only
  split <;> rfl

theorem setConsumer_outside {c : Nat} (x : Consumer) (h : ¬c < s.power.consumers.length) :
    (s.setConsumer c x).power = s.power := by
  rw [setConsumer_powerRecord, List.set_eq_of_length_le (Nat.le_of_not_lt h)]

theorem grantSum_setConsumer {c : Nat} (x : Consumer) (h : c < s.power.consumers.length) :
    (s.setConsumer c x).grantSum + (s.consumer c).grant = s.grantSum + x.grant := by
  unfold State.grantSum
  rw [setConsumer_powerRecord]
  exact total_map_set (·.grant) Consumer.initial x _ c h

namespace GrantLaw

/-! ### One consumer written -/

/-- The law reads the power record alone. -/
theorem of_power (hs : GrantLaw s) (h : t.power = s.power) : GrantLaw t := by
  unfold GrantLaw State.grantSum
  rw [h]
  exact hs

/-- And of it the budget and the grants. -/
theorem of_grants (hs : GrantLaw s) (hb : t.power.budget = s.power.budget)
    (hg : t.power.consumers.map (·.grant) = s.power.consumers.map (·.grant)) : GrantLaw t := by
  unfold GrantLaw State.grantSum
  rw [hb, hg]
  exact hs

/-- A consumer whose grant does not rise. -/
theorem setConsumer {c : Nat} {x : Consumer} (hs : GrantLaw s) (hx : x.grant ≤ (s.consumer c).grant) :
    GrantLaw (s.setConsumer c x) := by
  by_cases h : c < s.power.consumers.length
  · have sum := grantSum_setConsumer x h
    have budget : (s.setConsumer c x).power.budget = s.power.budget := by rw [setConsumer_powerRecord]
    have law : s.grantSum ≤ s.power.budget := hs
    show (s.setConsumer c x).grantSum ≤ _
    omega
  · exact hs.of_power (setConsumer_outside x h)

/-- Notices, pages, SET claims, earmarks and readiness write no power record. -/
theorem hush : Hush GrantLaw where
  calls _ hs := hs
  freeCount _ hs := hs
  offer _ _ hs := hs
  course _ _ _ hs := hs
  earmarks _ hs := hs
  paging _ _ hs := hs
  bus _ _ hs := hs

/-! ### Claims (R103) -/

theorem lowerTo (c n : Nat) (hs : GrantLaw s) : GrantLaw (lowerTo c n s) :=
  hush.callRestore (hs.setConsumer (Nat.min_le_right _ _))

theorem request (c n : Nat) (hs : GrantLaw s) : GrantLaw (request c n s) := by
  unfold Machine.request
  dsimp only
  split
  · exact hush.callAdmission (hs.setConsumer (Nat.le_refl _))
  · exact hs.lowerTo c n

theorem release (c : Nat) (hs : GrantLaw s) : GrantLaw (release c s) :=
  hush.callRestore (hs.setConsumer (Nat.zero_le _))

theorem clearMeasured (c : Nat) (hs : GrantLaw s) : GrantLaw (clearMeasured c s) :=
  hush.callCheck (hs.setConsumer (Nat.le_refl _))

theorem unsetReport (c : Nat) (hs : GrantLaw s) : GrantLaw (unsetReport c s) := hs.setConsumer (Nat.le_refl _)

theorem boosterSync (l : Nat) (hs : GrantLaw s) : GrantLaw (boosterSync l s) := by
  unfold Machine.boosterSync
  dsimp only
  split
  · split
    · exact hs.request _ _
    · exact hs
  · split
    · exact hs.release _
    · exact hs

theorem changeState (k : Nat) (st : CabState) (u : Bool) (hs : GrantLaw s) : GrantLaw (changeState k st u s) :=
  hs.of_power (changeState_power k st u s)

theorem requestHeat (k : Nat) (hs : GrantLaw s) : GrantLaw (requestHeat k s) := by
  unfold Machine.requestHeat
  dsimp only
  have claimed := (hs.changeState k .waitPower false).request k ((Machine.changeState k .waitPower false s).cab k).heat
  split
  · exact claimed.changeState _ _ _
  · exact claimed

/-! ### Admission, the restore check and the shed check (R105–R108) -/

/-- An entry that fits is granted. -/
theorem giveGrant {c : Nat} (fits : s.fits c = true) : GrantLaw (giveGrant c s) := by
  have room : s.grantSum + ((s.consumer c).request - (s.consumer c).grant) ≤ s.power.budget := of_decide_eq_true fits
  by_cases h : c < s.power.consumers.length
  · have sum := grantSum_setConsumer
      { s.consumer c with grant := (s.consumer c).request, mark := false, reqTime := none } h
    have budget : (Machine.giveGrant c s).power.budget = s.power.budget := by
      unfold Machine.giveGrant
      rw [setConsumer_powerRecord]
    show (Machine.giveGrant c s).grantSum ≤ _
    unfold Machine.giveGrant at budget ⊢
    dsimp only at budget sum ⊢
    omega
  · exact GrantLaw.of_power (s := s) (Nat.le_trans (Nat.le_add_right _ _) room) (setConsumer_outside _ h)

/-- The settle timer is no part of the law. -/
theorem withSettle (x : Option Nat) (hs : GrantLaw s) : GrantLaw (withSettle x s) := hs.of_grants rfl rfl

theorem admitWalk : ∀ (l : List Nat) {s : State}, GrantLaw s → GrantLaw (admitWalk l s)
  | [], _, hs => hs
  | c :: cs, s, hs => by
    unfold Machine.admitWalk
    split
    · rename_i fits
      dsimp only
      split
      · exact admitWalk cs ((giveGrant fits).changeState _ _ _)
      · exact admitWalk cs (giveGrant fits)
    · exact hs

theorem restoreCheck (hs : GrantLaw s) : GrantLaw (restoreCheck s) := by
  unfold Machine.restoreCheck
  split
  · split
    · exact hs
    · split
      · rename_i fits
        dsimp only
        split
        · exact (hush.raise _ _ _ _ (((giveGrant fits).changeState _ _ _).changeState _ _ _)).withSettle _
        · exact (hush.raise _ _ _ _ (giveGrant fits)).withSettle _
      · exact hs
  · exact hs

theorem powerTry (hs : GrantLaw s) : GrantLaw (powerTry s) := by
  unfold Machine.powerTry
  extract_lets a r src s1 s2
  have tried : GrantLaw s2 := by
    show GrantLaw (if a = true then _ else _)
    split
    · exact admitWalk _ hs
    · exact hs
  split
  · exact tried.restoreCheck
  · exact tried

end GrantLaw

/-- A victim is a consumer, not protected, with a grant above its shed level (R107). -/
theorem sheddable_of_victim {c : Nat} (h : s.victim = some c) :
    c < 26 ∧ s.tier c ≠ 5 ∧ s.shedLevel c < (s.consumer c).grant := by
  have member := mem_sortBy.1 (List.mem_of_mem_head? h)
  rw [List.mem_filter, List.mem_range, State.sheddable, Bool.and_eq_true, decide_eq_true_eq,
    decide_eq_true_eq] at member
  exact member

/-- A shed writes its consumer, and of the power record nothing else. -/
theorem shedOne_power (c why : Nat) (s : State) :
    (shedOne c why s).power =
      (s.setConsumer c { s.consumer c with
        grant := s.shedLevel c, request := s.fullUnits c, mark := true, reqTime := some s.day.clock }).power := by
  show (if c < 24 then _ else _ : State).power = _
  split
  · exact changeState_power _ _ _ _
  · rfl

namespace GrantLaw

theorem shedOne {c : Nat} (why : Nat) (hs : GrantLaw s) (h : s.shedLevel c ≤ (s.consumer c).grant) :
    GrantLaw (shedOne c why s) :=
  (hs.setConsumer (c := c) (x := { s.consumer c with
    grant := s.shedLevel c, request := s.fullUnits c, mark := true, reqTime := some s.day.clock }) h).of_power
      (shedOne_power c why s)

theorem shedCheck (hs : GrantLaw s) : GrantLaw (shedCheck s) := by
  unfold Machine.shedCheck
  split
  · split
    · rename_i c victim
      exact (hs.shedOne 0 (Nat.le_of_lt (sheddable_of_victim victim).2.2)).withSettle _
    · split
      · exact hs
      · exact hush.raise _ _ _ _ (hs.of_grants (t := s.withPower { s.power with unresolved := true }) rfl rfl)
  · exact hs

/-! ### Reports, lockout and the day (R112, R113) -/

theorem addMeter (m e : Nat) (hs : GrantLaw s) : GrantLaw (addMeter m e s) := by
  have added (x : Meter) : GrantLaw (s.setMeter m x) := hs.of_grants rfl rfl
  unfold Machine.addMeter
  dsimp only
  split
  · exact hush.raise _ _ _ _ (added _)
  · exact added _

theorem powerReport (c d : Nat) (hs : GrantLaw s) : GrantLaw (powerReport c d s) := by
  unfold Machine.powerReport
  extract_lets e s1 src s2 s3
  have stored : GrantLaw s2 := ((hs.addMeter _ _).addMeter _ _).setConsumer (Nat.le_refl _)
  refine (shedCheck ?_).restoreCheck
  show GrantLaw (if s2.measuredTotal ≤ s2.power.shedHigh then _ else _)
  split
  · exact stored.of_grants (t := s2.withPower { s2.power with unresolved := false }) rfl rfl
  · exact stored

/-- Lockout entry releases every claim. -/
theorem powerLockout (hs : GrantLaw s) : GrantLaw (powerLockout s) := by
  have released : GrantLaw (releaseClaims s) :=
    Hush.forEach (f := fun c t => t.setConsumer c (t.consumer c).released)
      (fun _ _ ht => ht.setConsumer (Nat.zero_le _)) _ hs
  rw [powerLockout_released]
  generalize releaseClaims s = v at released ⊢
  exact released.of_grants rfl rfl

theorem powerOpen (hs : GrantLaw s) : GrantLaw (powerOpen s) :=
  hs.of_grants rfl (map_map_congr (f := fun c : Consumer => { c with lastReport := c.lastReport.map fun _ => 0 })
    (fun _ => rfl) _)

end GrantLaw

end Sys2Proof.Machine
end

section
/-! SUPPORT. The grant law through routing, draws, cabinets, lines and the end of a step. -/

namespace Sys2Proof.Machine.GrantLaw

variable {s t : State}

/-! ### Lines and routes -/

theorem backpressure (l : Nat) (hs : GrantLaw s) : GrantLaw (backpressure l s) := by
  unfold Machine.backpressure
  dsimp only
  split
  · exact hs
  · split <;> exact hs

theorem leaveExit (l tag why : Nat) (hs : GrantLaw s) : GrantLaw (leaveExit l tag why s) :=
  backpressure l (hush.raise (s := withExits l _ s) _ _ _ _ hs)

theorem unrouteRack (l tag : Nat) (hs : GrantLaw s) : GrantLaw (unrouteRack l tag s) :=
  hush.callRoute (s := updExit l tag _ s) l hs

theorem conveyorSync (u : Bool) (l : Nat) (hs : GrantLaw s) : GrantLaw (conveyorSync u l s) := by
  unfold Machine.conveyorSync
  dsimp only
  split
  · exact hs
  · exact hush.claimSet (s := s.setLine l _) _ _ _ _ hs

theorem acceptRoute (k l tag n : Nat) (hs : GrantLaw s) : GrantLaw (acceptRoute k l tag n s) := by
  unfold Machine.acceptRoute
  dsimp only
  split
  · exact requestHeat (s := s.setCab k _) k hs
  · exact hs

theorem routeRack (l : Nat) (r : Rack) (hs : GrantLaw s) : GrantLaw (routeRack l r s) := by
  unfold Machine.routeRack
  dsimp only
  split
  · split <;> exact hs
  · refine hush.raise (s := updExit l r.tag _ _) _ _ _ _ (acceptRoute _ _ _ _ ?_)
    split <;> exact hs

theorem routingPass (l : Nat) (hs : GrantLaw s) : GrantLaw (routingPass l s) :=
  Hush.foldl (fun r _ ht => ht.routeRack l r) _ hs

/-! ### Close completion and the end of a step -/

theorem closeRack (l : Nat) (r : Rack) (hs : GrantLaw s) : GrantLaw (closeRack l r s) := by
  unfold Machine.closeRack
  dsimp only
  refine leaveExit _ _ _ ?_
  split <;> exact hs

theorem closeLine (l : Nat) (hs : GrantLaw s) : GrantLaw (closeLine l s) :=
  release (24 + l) (Hush.foldl (f := fun t r => Machine.closeRack l r t) (fun r _ ht => ht.closeRack l r) _ hs)

theorem unload (k : Nat) (hs : GrantLaw s) : GrantLaw (unload k s) := hs.of_power (unload_power k s)

theorem dayToOpening (hs : GrantLaw s) : GrantLaw (dayToOpening s) :=
  hush.matchDiscovery (withSettle (s := s.withDay _) none hs)

theorem completeClose (hs : GrantLaw s) : GrantLaw (completeClose s) :=
  hush.raise _ _ _ _ (dayToOpening (((hs.closeLine 0).closeLine 1).of_power (unloadOffline_lines _).2))

theorem closeTest (hs : GrantLaw s) : GrantLaw (closeTest s) := by
  unfold Machine.closeTest
  dsimp only
  split
  · exact completeClose (s := s.withCalls _) hs
  · exact hs

theorem settle : ∀ (n : Nat) {s : State}, GrantLaw s → GrantLaw (settle n s)
  | 0, _, hs => hs
  | n + 1, s, hs => by
    unfold Machine.settle
    split
    · exact settle n hs.powerTry
    · split
      · exact settle n hs.closeTest
      · split
        · exact settle n (routingPass (s := s.withCalls _) 0 hs)
        · split
          · exact settle n (routingPass (s := s.withCalls _) 1 hs)
          · exact hs

theorem sleepSync (k : Nat) (hs : GrantLaw s) : GrantLaw (sleepSync k s) := by
  unfold Machine.sleepSync
  dsimp only
  split
  · split <;> exact hs
  · split <;> exact hs

/-- The end of a step keeps the law. -/
theorem finish (hs : GrantLaw s) : GrantLaw (finish s) :=
  hush.calls _ (hush.refreshPolls (Hush.forEach (fun k _ ht => ht.sleepSync k) _
    (((hs.settle settleRounds).conveyorSync false 0).conveyorSync false 1)))

/-! ### Courses -/

theorem removeBatch (c : Nat) (hs : GrantLaw s) : GrantLaw (removeBatch c s) := by
  unfold Machine.removeBatch
  split <;> exact hs

theorem startBatch (c : Nat) (hs : GrantLaw s) : GrantLaw (startBatch c s) := by
  unfold Machine.startBatch
  split <;> exact hs

theorem startPlating (c : Nat) (hs : GrantLaw s) : GrantLaw (startPlating c s) := by
  unfold Machine.startPlating
  split
  · exact hush.raise (s := State.setCourse _ c _) _ _ _ _ (hs.removeBatch c)
  · exact hs

theorem singleDraw (k cls : Nat) (o : Option Nat) (hs : GrantLaw s) : GrantLaw (singleDraw k cls o s) := by
  unfold Machine.singleDraw
  dsimp only
  split
  · rename_i c
    refine hush.evaluateAll ?_
    have plated (x : Cab) (y : Course) :
        GrantLaw (((Machine.startPlating c s).setCab k x).setCourse c y) := hs.startPlating c
    split <;> exact hush.settleDraw c k cls _ (plated _ _)
  · refine hush.evaluateAll ?_
    split
    · exact hs
    · exact hush.refill _ (hush.robYoungest (s := addHouse cls 1 (s.setCab k _)) k hs)

theorem drawPlates (k cls : Nat) :
    ∀ (n : Nat) (o : Option Nat) {s : State}, GrantLaw s → GrantLaw (drawPlates k cls n o s)
  | 0, _, _, hs => hs
  | n + 1, o, s, hs => by
    unfold Machine.drawPlates
    exact drawPlates k cls n _ (hs.singleDraw k cls o)

theorem fireCourse (c : Nat) (hs : GrantLaw s) : GrantLaw (fireCourse c s) := by
  rw [fireCourse_eq_fired]
  refine hush.evaluate _ (hush.raise _ _ _ _ (hush.takeEarmarks _ (startBatch _ ?_)))
  unfold fired
  split <;> exact hs

theorem cancelCourse (c : Nat) (hs : GrantLaw s) : GrantLaw (cancelCourse c s) := by
  rw [cancelCourse_eq]
  refine hush.raise _ _ _ _ ?_
  have gone : GrantLaw (cancelled c s) := hs.removeBatch c
  unfold givenOut
  refine hush.cancelCoursePages _ _ ?_
  split
  · exact gone
  · exact hush.evaluateAll (Hush.forEach (f := Machine.walkOwing) (fun k _ ht => hush.walkOwing k ht) _ gone)

/-! ### Cabinets -/

theorem cancelRoutes (k : Nat) (hs : GrantLaw s) : GrantLaw (cancelRoutes k s) := hs.of_power (cancelRoutes_power k s)

theorem enterOff (k : Nat) (u : Bool) (hs : GrantLaw s) : GrantLaw (enterOff k u s) :=
  unload k (cancelRoutes (s := State.setCab _ k _) k ((hs.release k).changeState k .off u))

theorem enterOffline (k : Nat) (hs : GrantLaw s) : GrantLaw (enterOffline k s) :=
  cancelRoutes k (((hs.release k).clearMeasured k).changeState k .offline false)

theorem cabLost (k : Nat) (hs : GrantLaw s) : GrantLaw (cabLost k s) := by
  unfold Machine.cabLost
  split
  · exact hs
  · exact hs.enterOffline k

theorem enterFault (k : Nat) (hs : GrantLaw s) : GrantLaw (enterFault k s) := by
  unfold Machine.enterFault
  dsimp only
  exact hush.pageKitchen _ _ _ _ (of_power
    (((release (s := s.setCab k _) k hs).changeState k .fault true).cancelRoutes k) (setOvenFaults_rest _ _ _).2)

theorem enterSleep (k : Nat) (hs : GrantLaw s) : GrantLaw (enterSleep k s) := (hs.lowerTo k _).changeState _ _ _

theorem switchOff (k : Nat) (u : Bool) (hs : GrantLaw s) : GrantLaw (switchOff k u s) := by
  unfold Machine.switchOff
  dsimp only
  split
  · exact enterOff (s := s.setCab k _) k u hs
  · exact hs

theorem switchOn (k : Nat) (hs : GrantLaw s) : GrantLaw (switchOn k s) := by
  unfold Machine.switchOn
  dsimp only
  split
  · exact hs.requestHeat k
  · exact hs

theorem judgeNow (k : Nat) (hs : GrantLaw s) : GrantLaw (judgeNow k s) := by
  unfold Machine.judgeNow
  dsimp only
  split
  · split
    · exact (hs.lowerTo _ _).changeState _ _ _
    · exact hs
  · split
    · exact hs.requestHeat k
    · exact hs
  · exact hs

theorem judgeReport (k : Nat) (hs : GrantLaw s) : GrantLaw (judgeReport k s) := by
  unfold Machine.judgeReport
  dsimp only
  split
  · split
    · exact (hs.lowerTo _ _).changeState _ _ _
    · exact hs
  · exact hs.judgeNow k

theorem applySetpoint (k : Nat) (x : Int) (b : Nat) (hs : GrantLaw s) : GrantLaw (applySetpoint k x b s) :=
  judgeNow k (hush.claimCab (s := s.setCab k _) k false hs)

theorem startConfirm (k : Nat) (hs : GrantLaw s) : GrantLaw (startConfirm k s) := by
  unfold Machine.startConfirm
  split
  · exact hs
  · split <;> exact hs

theorem applyConditions (k : Nat) (set : CondSet) (hs : GrantLaw s) : GrantLaw (applyConditions k set s) := by
  have faulted (q : Prop) [Decidable q] {v : State} (hv : GrantLaw v) :
      GrantLaw (if q then Machine.enterFault k v else v) := by
    split
    · exact hv.enterFault k
    · exact hv
  have confirmed (q : Prop) [Decidable q] {v : State} (hv : GrantLaw v) :
      GrantLaw (if q then Machine.startConfirm k v else v) := by
    split
    · exact hv.startConfirm k
    · exact hv
  unfold Machine.applyConditions
  extract_lets old s1 newFault s2 s3 c
  have latched : GrantLaw s1 := hs.of_power (latch_rest k set s).1
  have judged : GrantLaw s3 := confirmed _ (faulted _ latched)
  split
  · exact judged
  · split <;> exact judged

/-! ### Loads and draws -/

theorem cancelRoute (k : Nat) (r : Route) (hs : GrantLaw s) : GrantLaw (cancelRoute k r s) :=
  unrouteRack (s := dropRoute k r.line r.tag s) _ _ hs

theorem settleRoute (k : Nat) (old new : Route) (hs : GrantLaw s) : GrantLaw (settleRoute k old new s) := by
  unfold Machine.settleRoute
  extract_lets s1
  have loaded : GrantLaw s1 := by
    show GrantLaw (if new.loaded = old.loaded then _ else _)
    split <;> exact hs
  split
  · exact leaveExit (s := dropRoute k new.line new.tag s1) _ _ _ loaded
  · exact loaded

theorem loadPlates (k n : Nat) (hs : GrantLaw s) : GrantLaw (loadPlates k n s) := by
  unfold Machine.loadPlates
  extract_lets c routed rest filled used excess gone s1 kept room taken s2 claim
  have cancelled : GrantLaw s1 :=
    Hush.foldl (f := fun t r => Machine.cancelRoute k r t) (fun r _ ht => ht.cancelRoute k r) _ hs
  have noticed : GrantLaw s2 := by
    show GrantLaw (if taken < rest then _ else _)
    split <;> exact cancelled
  split
  · exact noticed
  · rename_i cls _
    extract_lets applied s3 s4 after src s5 s6 s7
    have clipped : GrantLaw s4 := by
      show GrantLaw (if applied < claim then _ else _)
      split <;> exact noticed
    split
    · exact clipped
    · have stored : GrantLaw s5 := clipped
      have woken : GrantLaw s6 := by
        show GrantLaw (if (s5.cab k).state = .sleep then _ else _)
        split
        · exact stored.requestHeat k
        · exact stored
      exact hush.callRoutes (Hush.foldl (f := fun t (x : Route × Route) => Machine.settleRoute k x.1 x.2 t)
        (fun x _ ht => ht.settleRoute k x.1 x.2) _ (hush.evaluateAll (hush.walkOwing k woken)))

theorem applyLoad (k n : Nat) (hs : GrantLaw s) : GrantLaw (applyLoad k n s) := by
  unfold Machine.applyLoad
  split
  · exact hs
  · split
    · exact hs
    · exact hs.loadPlates k n

theorem applyDraw (k n : Nat) (hs : GrantLaw s) : GrantLaw (applyDraw k n s) := by
  unfold Machine.applyDraw
  split
  · exact hs
  · extract_lets lots s1
    have noticed : GrantLaw s1 := by
      show GrantLaw (if lots < n then _ else _)
      split <;> exact hs
    split
    · exact noticed
    · extract_lets m
      split
      · exact noticed
      · exact hush.callRoutes (drawPlates (s := transfer _ .inWarmer .plated m s1) _ _ _ _ noticed)

/-! ### Rack events -/

theorem holdRack (l : Nat) (r : Rack) (why : HoldReason) (hs : GrantLaw s) : GrantLaw (holdRack l r why s) := by
  rw [holdRack_eq]
  dsimp only
  refine hush.callClose ?_
  have held (kind : NoticeKind) (x y z : Nat) :
      GrantLaw (raise kind x y z (carried r .washing .held
        (s.setLine l { s.line l with exits := (s.line l).exits ++ [{ r with reason := some why }] }))) := hs
  split
  · exact hush.pageDish _ _ _ _ (held _ _ _ _)
  · exact hush.pageDish _ _ _ _ (held _ _ _ _)

theorem setRunning (l : Nat) (run : Bool) (hs : GrantLaw s) : GrantLaw (setRunning l run s) := by
  unfold Machine.setRunning
  dsimp only
  split <;> exact hs

theorem enterEvent (l tag : Nat) (hs : GrantLaw s) : GrantLaw (enterEvent l tag s) := by
  unfold Machine.enterEvent
  dsimp only
  split <;> exact hs

theorem exitEvent (l tag : Nat) (x : Int) (hs : GrantLaw s) : GrantLaw (exitEvent l tag x s) := by
  unfold Machine.exitEvent
  dsimp only
  split
  · exact hs
  · have held := Hush.foldl (P := GrantLaw) (f := fun t y => Machine.holdRack l y .skipped t)
      (fun y _ ht => ht.holdRack l y .skipped) ((s.line l).inside.takeWhile (·.tag ≠ tag))
      (s := withInside l ((s.line l).inside.filter fun y =>
        y.tag ≠ tag ∧ y ∉ (s.line l).inside.takeWhile (·.tag ≠ tag)) s) hs
    split
    · exact (held.holdRack _ _ _).backpressure _
    · exact routingPass l (backpressure (s := callClose _) l held)

theorem applyEvent (l : Nat) (e : RackEvent) (hs : GrantLaw s) : GrantLaw (applyEvent l e s) := by
  unfold Machine.applyEvent
  dsimp only
  split
  · exact enterEvent (s := s.setLine l _) _ _ hs
  · exact exitEvent (s := s.setLine l _) _ _ _ hs

theorem windowEvent (l : Nat) (e : RackEvent) (hs : GrantLaw s) : GrantLaw (windowEvent l e s) := by
  unfold Machine.windowEvent
  split
  · exact hs.applyEvent l e
  · dsimp only
    split
    · refine applyEvent l e ?_
      split <;> exact hs
    · exact hs

theorem applyEvents (l : Nat) (es : List RackEvent) (hs : GrantLaw s) : GrantLaw (applyEvents l es s) := by
  unfold Machine.applyEvents
  split
  · exact Hush.foldl (f := fun t e => Machine.applyEvent l e t) (fun e _ ht => ht.applyEvent l e) _ hs
  · exact Hush.foldl (f := fun t e => Machine.windowEvent l e t) (fun e _ ht => ht.windowEvent l e) _ hs

theorem applyRinse (l : Nat) (x : Int) (hs : GrantLaw s) : GrantLaw (applyRinse l x s) := by
  unfold Machine.applyRinse
  dsimp only
  split
  · exact hs
  · split <;> exact hs

theorem transitHold (l : Nat) (r : Rack) (hs : GrantLaw s) : GrantLaw (transitHold l r s) :=
  backpressure l (holdRack (s := withInside l _ s) l r .transit hs)

theorem removeStaged (l : Nat) (hs : GrantLaw s) : GrantLaw (removeStaged l s) :=
  Hush.foldl (P := GrantLaw)
    (f := fun t (r : Rack) => raise .rackLeft l r.tag leftClosed (transfer r.cls .washing .soiled r.count t))
    (fun _ _ ht => ht) _ (s := withStaged l [] s) hs

end Sys2Proof.Machine.GrantLaw
end

section
/-! SUPPORT. The grant law through pages, nodes, reports, lockout entry and every row that is not a port command. -/

namespace Sys2Proof.Machine.GrantLaw

variable {s t : State}

/-! ### Pages and the directory -/

theorem setRate (n : Nat) (r : Rate) (hs : GrantLaw s) : GrantLaw (setRate n r s) := by
  unfold Machine.setRate
  split <;> exact hs

theorem countRate (p : Page) (hs : GrantLaw s) : GrantLaw (countRate p s) := by
  unfold Machine.countRate
  split
  · exact hs
  · split
    · exact hs
    · dsimp only
      split
      · exact hs.setRate _ _
      · split
        · exact hs.setRate _ _
        · exact setRate (s := s.withFreeCount _) _ _ hs

theorem applyTransmitted (id : Nat) (hs : GrantLaw s) : GrantLaw (applyTransmitted id s) := by
  unfold Machine.applyTransmitted
  split
  · exact hs
  · split
    · split
      · exact hush.endPage _ _ hs
      · exact countRate _ (hush.updPage _ _ hs)
    · exact hs

theorem applyAck (id : Nat) (hs : GrantLaw s) : GrantLaw (applyAck id s) := by
  unfold Machine.applyAck
  split
  · exact hs
  · split
    · split
      · exact hush.endPage _ _ hs
      · exact hush.endPage _ _ (hs.countRate _)
    · exact hush.endPage _ _ hs

theorem returnPage (id : Nat) (hs : GrantLaw s) : GrantLaw (returnPage id s) := by
  unfold Machine.returnPage
  split
  · exact hs
  · split
    · exact hush.endPage _ _ hs
    · dsimp only
      split
      · exact hush.endPage _ _ (hush.updPage _ _ hs)
      · exact hush.updPage _ _ hs

theorem answerDeliver (id : Nat) (b : Bool) (hs : GrantLaw s) : GrantLaw (answerDeliver id b s) := by
  unfold Machine.answerDeliver
  split
  · exact hs
  · split
    · split
      · exact hush.updPage _ _ hs
      · exact hush.selectPass (s := withBaseFull true _) (hs.returnPage id)
    · exact hs

theorem missDeliver (id : Nat) (hs : GrantLaw s) : GrantLaw (missDeliver id s) := by
  unfold Machine.missDeliver
  split
  · exact hs
  · split
    · exact hush.selectPass (hs.returnPage id)
    · exact hs

theorem baseLost (hs : GrantLaw s) : GrantLaw (baseLost s) :=
  hush.selectPass (s := withBaseFull false _) (hush.removeDelivers
    (Hush.forEach (f := Machine.returnPage) (fun k _ ht => ht.returnPage k) _ hs))

theorem refreshPager (a : Nat) (hs : GrantLaw s) : GrantLaw (refreshPager a s) := by
  unfold Machine.refreshPager
  split <;> exact hs

theorem applyCheckIn (a : Nat) (hs : GrantLaw s) : GrantLaw (applyCheckIn a s) := by
  unfold Machine.applyCheckIn
  split
  · split
    · exact hs.refreshPager a
    · split
      · exact hs
      · split
        · exact hs
        · split <;> exact hs
  · exact hs

theorem applyBaseReport (r : BaseRep) (hs : GrantLaw s) : GrantLaw (applyBaseReport r s) := by
  unfold Machine.applyBaseReport
  dsimp only
  have transmitted := Hush.forEach (f := Machine.applyTransmitted) (fun k _ ht => ht.applyTransmitted k) r.transmitted hs
  have acknowledged := Hush.foldl (f := fun t (x : Nat × Nat) => Machine.refreshPager x.1 (Machine.applyAck x.2 t))
    (fun x _ ht => (ht.applyAck x.2).refreshPager x.1) r.acks transmitted
  exact hush.selectPass (s := withBaseFull _ _)
    (Hush.forEach (f := Machine.applyCheckIn) (fun k _ ht => ht.applyCheckIn k) _ acknowledged)

theorem agePagers (age : Option Nat) (hs : GrantLaw s) : GrantLaw (agePagers age s) := by
  unfold Machine.agePagers
  split
  · exact hs
  · dsimp only
    split <;> exact hs

/-! ### What a block is told of its node -/

theorem tellBack (b : Binding) (hs : GrantLaw s) : GrantLaw (tellBack b s) := by
  unfold Machine.tellBack
  split
  · exact hs
  · exact hush.selectPass hs
  · exact hs

theorem tellSilent (b : Binding) (hs : GrantLaw s) : GrantLaw (tellSilent b s) := by
  unfold Machine.tellSilent
  split <;> exact hs

theorem tellLost (b : Binding) (hs : GrantLaw s) : GrantLaw (tellLost b s) := by
  unfold Machine.tellLost
  split
  · exact hs.cabLost _
  · exact (hs.setRunning _ false).clearMeasured _
  · exact hs.baseLost
  · exact hs

theorem cabJoined (k : Nat) (hs : GrantLaw s) : GrantLaw (cabJoined k s) := by
  unfold Machine.cabJoined
  extract_lets src s1
  have stored : GrantLaw s1 := hs
  split
  · exact hush.claimCab _ _ (stored.unsetReport k)
  · split
    · exact stored.requestHeat k
    · exact stored.enterOff k false
  · exact stored

theorem tellJoined (b : Binding) (hs : GrantLaw s) : GrantLaw (tellJoined b s) := by
  unfold Machine.tellJoined
  split
  · exact hs.cabJoined _
  · exact hush.claimSet (s := s.setLine _ _) _ _ _ _ hs
  · exact hush.selectPass hs
  · exact hs

/-! ### Nodes -/

theorem setFetchAhead (a : Nat) (hs : GrantLaw s) : GrantLaw (setFetchAhead a s) := by
  unfold Machine.setFetchAhead
  dsimp only
  split <;> exact hs

theorem discoveryStep (hs : GrantLaw s) : GrantLaw (discoveryStep s) := by
  unfold Machine.discoveryStep
  split <;> exact hs

theorem bindNode (a : Nat) (hs : GrantLaw s) : GrantLaw (bindNode a s) := by
  unfold Machine.bindNode
  extract_lets n b s1
  have bound : GrantLaw s1 := by
    show GrantLaw (if b = .unbound then _ else _)
    split <;> exact hs
  split <;> exact bound

theorem renamed (a : Option Nat) (hs : GrantLaw s) : GrantLaw (renamed a s) := by
  unfold Machine.renamed
  split
  · exact hs
  · split
    · exact hs.bindNode _
    · exact hs

theorem renameFrom (a b : Option Nat) (hs : GrantLaw s) : GrantLaw (renameFrom a b s) := by
  unfold Machine.renameFrom
  split
  · exact hs.renamed _
  · exact (hs.renamed _).renamed _

theorem answered (a : Nat) (hs : GrantLaw s) : GrantLaw (answered a s) := by
  unfold Machine.answered
  dsimp only
  split
  · exact tellBack (s := s.setNode a _) _ hs
  · exact hs

theorem goLost (a : Nat) (hs : GrantLaw s) : GrantLaw (goLost a s) :=
  tellLost _ (hush.raise _ _ _ _ (hush.removeNodeTx (s := s.setNode a _) a hs))

theorem joinNode (a : Nat) (type : NodeType) (n : Nat) (hs : GrantLaw s) : GrantLaw (joinNode a type n s) := by
  unfold Machine.joinNode
  dsimp only
  have joined (x : Node) : GrantLaw (raise .nodeJoined a type.code (n % 65536) (s.setNode a x)) := hs
  exact hush.restartPoll _ (hush.queuePoll (s := State.setNode _ a _) _ (tellJoined _ (bindNode _ (joined _))))

theorem applyIdent (a : Nat) (type : NodeType) (n : Nat) (hs : GrantLaw s) : GrantLaw (applyIdent a type n s) := by
  unfold Machine.applyIdent
  dsimp only
  split
  · split
    · exact hs.answered a
    · exact (hs.goLost a).joinNode _ _ _
  · exact hs.joinNode _ _ _

theorem countMiss (a : Nat) (hs : GrantLaw s) : GrantLaw (countMiss a s) := by
  unfold Machine.countMiss
  dsimp only
  split
  · exact tellSilent (s := raise _ _ _ _ (State.setNode (s.setNode a _) a _)) _ hs
  · exact hs

theorem missTx (f : InFlight) (hs : GrantLaw s) : GrantLaw (missTx f s) := by
  unfold Machine.missTx
  split
  · exact hush.restartPoll _ (hush.refreshPoll (s := State.setNode _ _ _) _ (hs.countMiss _))
  · exact hs.countMiss _
  · dsimp only
    split
    · exact hs.countMiss _
    · exact (hs.countMiss _).missDeliver _
  · split
    · exact hs.countMiss _
    · exact hs

theorem failAttempt (f : InFlight) (hs : GrantLaw s) : GrantLaw (failAttempt f s) := by
  unfold Machine.failAttempt
  split
  · exact hs
  · exact missTx (s := endTx s) f hs

theorem transmit (x : Tx) (hs : GrantLaw s) : GrantLaw (transmit x s) := by
  unfold Machine.transmit
  dsimp only
  split
  · split <;> exact hs
  · exact hs

theorem sendNext (hs : GrantLaw s) : GrantLaw (sendNext s) := by
  have sent (x : Tx) (v w : Bus) : GrantLaw (Machine.transmit x ((s.withBus v).withBus w)) := transmit x hs
  unfold Machine.sendNext
  split
  · exact sent _ _ _
  · exact sent _ _ _
  · exact sent _ _ _
  · exact hs

/-! ### Reports (R67, R82, R151) -/

theorem bandTest (k : Nat) (hs : GrantLaw s) : GrantLaw (bandTest k s) := by
  unfold Machine.bandTest
  dsimp only
  split
  · split
    · exact hush.evaluateAll (s := s.setCab k _) hs
    · split <;> exact hs
  · exact hs

theorem confirmLevel (k : Nat) (b : Bool) (m : ElementMode) (hs : GrantLaw s) : GrantLaw (confirmLevel k b m s) := by
  unfold Machine.confirmLevel
  split <;> exact hs

theorem applyCounters (a k : Nat) (c : Option (Nat × Nat)) (hs : GrantLaw s) : GrantLaw (applyCounters a k c s) := by
  unfold Machine.applyCounters
  split
  · exact hs
  · exact (applyLoad (s := s.setNode a _) k _ hs).applyDraw k _

theorem applyCabinetReport (a k : Nat) (r : CabinetRep) (hs : GrantLaw s) : GrantLaw (applyCabinetReport a k r s) := by
  unfold Machine.applyCabinetReport
  extract_lets running src s1 s2 s3 s4 s5
  have stored : GrantLaw s1 := hs
  have conditioned : GrantLaw s3 :=
    (((stored.bandTest k).applyCounters a k r.counters).applyConditions k r.conds).confirmLevel k running r.level
  have judged : GrantLaw s4 := by
    show GrantLaw (if (s3.cab k).state = .fault then _ else _)
    split
    · exact conditioned
    · exact conditioned.judgeReport k
  have cooking : GrantLaw s5 := by
    show GrantLaw (if (s4.cab k).isOven = true then _ else _)
    split <;> exact judged
  exact cooking.powerTry.powerReport k r.draw

theorem applyWasherReport (l : Nat) (r : WasherRep) (hs : GrantLaw s) : GrantLaw (applyWasherReport l r s) := by
  have reported := ((hs.applyRinse l r.rinse).applyEvents l r.events).conveyorSync false l
  exact ((reported.setRunning l r.running).powerTry.powerReport (24 + l) r.draw).conveyorSync false l

theorem reconcile (a : Nat) (b : RespBody) (hs : GrantLaw s) : GrantLaw (reconcile a b s) := by
  unfold Machine.reconcile
  extract_lets n differs
  split
  · exact hush.queueSet _ _ hs
  · exact hs

theorem applyBody (f : InFlight) (a : Nat) (b : RespBody) (hs : GrantLaw s) : GrantLaw (applyBody f a b s) := by
  unfold Machine.applyBody
  split
  · exact hs.applyIdent _ _ _
  · exact hs.applyCabinetReport _ _ _
  · exact hs.applyWasherReport _ _
  · exact hs.applyBaseReport _
  · split
    · split
      · exact hs
      · exact hs.answerDeliver _ _
    · exact hs
  · exact hs

theorem applyResponse (f : InFlight) (a : Nat) (b : RespBody) (u : Bool) (hs : GrantLaw s) :
    GrantLaw (applyResponse f a b u s) := by
  unfold Machine.applyResponse
  extract_lets ident s1 s2 s3 s4
  split
  · exact hs
  · have heard : GrantLaw s1 := by
      show GrantLaw (if ident = true then _ else _)
      split
      · exact hs
      · exact hs.answered a
    have applied : GrantLaw s2 := (heard.applyBody f a b).reconcile a b
    have ahead : GrantLaw s3 := by
      show GrantLaw (if u = true then _ else _)
      split
      · exact applied.setFetchAhead a
      · exact applied
    split
    · refine hush.restartPoll _ (hush.refreshPoll _ ?_)
      show GrantLaw (if u = true then _ else _)
      split <;> exact ahead
    · exact ahead

theorem receive (a : Nat) (b : RespBody) (u : Bool) (hs : GrantLaw s) : GrantLaw (receive a b u s) := by
  unfold Machine.receive
  split
  · exact hs
  · refine finish ?_
    split
    · exact applyResponse (s := endTx s) _ _ _ _ hs
    · exact hs.failAttempt _

/-! ### The hold and lockout entry (R169, R181) -/

theorem endHold (k : Option NoticeKind) (d : Nat) (hs : GrantLaw s) : GrantLaw (endHold k d s) := by
  unfold Machine.endHold
  dsimp only
  split <;> exact hs

theorem lockoutLine (l : Nat) (hs : GrantLaw s) : GrantLaw (lockoutLine l s) :=
  (boosterSync (s := withStops l _ s) l hs).conveyorSync true l

theorem enterLockout (k : Nat) (hs : GrantLaw s) : GrantLaw (enterLockout k s) := by
  have dark : GrantLaw (lockoutDark k s) :=
    hush.releaseAllEarmarks (powerLockout (endHold _ _ (hush.matchDiscovery (s := s.withDay _) hs)))
  have off : GrantLaw (lockoutCabs (lockoutDark k s)) :=
    Hush.forEach (f := lockoutCab) (fun j _ ht => hush.claimCab j true (ht.switchOff j true)) _ dark
  rw [enterLockout_eq]
  exact hush.raise _ _ _ _ (of_power ((off.lockoutLine 0).lockoutLine 1) (lockoutPage_beside _).power)

/-! ### The rows of the bus and of time -/

theorem receiveBytes (l : List Byte) (hs : GrantLaw s) : GrantLaw (receiveBytes l s) := by
  unfold Machine.receiveBytes
  split
  · exact hs
  · split
    · exact (hs.failAttempt _).finish
    · exact hs.receive _ _ _

theorem responseTimeout (hs : GrantLaw s) : GrantLaw (responseTimeout s) := by
  unfold Machine.responseTimeout
  split
  · exact hs
  · exact (hs.failAttempt _).finish

theorem transactionSend (hs : GrantLaw s) : GrantLaw (transactionSend s) := by
  unfold Machine.transactionSend
  split
  · exact hs.sendNext
  · exact hs

theorem busGuardEnd (hs : GrantLaw s) : GrantLaw (busGuardEnd s) := by
  unfold Machine.busGuardEnd
  dsimp only
  split
  · split
    · exact hs
    · exact transmit (s := s.withBus _) _ hs
  · exact hs

theorem abandonGuardEnd (hs : GrantLaw s) : GrantLaw (abandonGuardEnd s) := by
  unfold Machine.abandonGuardEnd
  dsimp only
  split
  · split
    · exact hs
    · exact sendNext (s := s.withBus _) hs
  · exact hs

theorem pollTimerExpiry (a : Nat) (hs : GrantLaw s) : GrantLaw (pollTimerExpiry a s) := by
  unfold Machine.pollTimerExpiry
  split
  · exact hs
  · rename_i e _
    have ended (x : Node) : GrantLaw (reachMs e (s.setNode a x)) := hs
    dsimp only
    split
    · exact ended _
    · exact hush.queuePoll _ (ended _)

theorem discoveryTimerExpiry (hs : GrantLaw s) : GrantLaw (discoveryTimerExpiry s) := by
  unfold Machine.discoveryTimerExpiry
  dsimp only
  split
  · split
    · exact discoveryStep (s := s.withBus _) hs
    · exact hs
  · exact hs

theorem openingDiscovery (hs : GrantLaw s) : GrantLaw (openingDiscovery s) := by
  unfold Machine.openingDiscovery
  split
  · exact hs.discoveryStep
  · exact hs

theorem silenceTimerExpiry (a : Nat) (hs : GrantLaw s) : GrantLaw (silenceTimerExpiry a s) := by
  unfold Machine.silenceTimerExpiry
  split
  · exact (hs.goLost a).finish
  · exact hs

theorem settleTimerExpiry (hs : GrantLaw s) : GrantLaw (settleTimerExpiry s) := by
  unfold Machine.settleTimerExpiry
  split
  · exact (hush.callRestore (hs.withSettle none).shedCheck).powerTry.finish
  · exact hs

theorem holdTimerExpiry (hs : GrantLaw s) : GrantLaw (holdTimerExpiry s) := by
  unfold Machine.holdTimerExpiry
  split
  · exact hs
  · exact endHold (s := reachMs _ s) _ _ hs

theorem confirmTimerExpiry (k : Nat) (hs : GrantLaw s) : GrantLaw (confirmTimerExpiry k s) := by
  unfold Machine.confirmTimerExpiry
  split
  · exact hs
  · split
    · exact hs
    · exact (enterLockout (s := reachMs _ s) k hs).finish

theorem serviceSecond (hs : GrantLaw s) : GrantLaw (serviceSecond s) :=
  withSettle (s := ((clockSecond s).withCabs _).withLines _) _ hs

theorem plannedFire (c : Nat) (hs : GrantLaw s) : GrantLaw (plannedFire c s) := by
  unfold Machine.plannedFire
  dsimp only
  split
  · exact hs
  · split
    · exact hs
    · split
      · exact (hs.fireCourse c).finish
      · exact hs

theorem cookTimeComplete (c : Nat) (hs : GrantLaw s) : GrantLaw (cookTimeComplete c s) := by
  unfold Machine.cookTimeComplete
  split
  · exact hs
  · exact finish (hush.evaluateAll (hush.raise (s := s.setCab _ _) _ _ _ _ hs))

theorem overHoldLimit (c : Nat) (hs : GrantLaw s) : GrantLaw (overHoldLimit c s) := by
  unfold Machine.overHoldLimit
  split
  · exact finish (hush.pageKitchen (s := s.setCourse c _) _ _ _ _ hs)
  · exact hs

theorem lotWarm (k : Nat) (hs : GrantLaw s) : GrantLaw (lotWarm k s) := by
  unfold Machine.lotWarm
  split
  · exact finish (hush.evaluateAll hs)
  · exact hs

theorem outOfBandExpiry (k : Nat) (hs : GrantLaw s) : GrantLaw (outOfBandExpiry k s) := by
  unfold Machine.outOfBandExpiry
  dsimp only
  split
  · exact finish (hush.evaluateAll (s := s.setCab k _) hs)
  · exact hs

theorem sleepTimerExpiry (k : Nat) (hs : GrantLaw s) : GrantLaw (sleepTimerExpiry k s) := by
  unfold Machine.sleepTimerExpiry
  dsimp only
  split
  · exact (hs.enterSleep k).finish
  · exact hs

theorem doorTimerExpiry (k : Nat) (hs : GrantLaw s) : GrantLaw (doorTimerExpiry k s) := by
  unfold Machine.doorTimerExpiry
  dsimp only
  split
  · exact finish (hush.pageKitchen (s := s.setCab k _) _ _ _ _ hs)
  · exact hs

theorem transitExpiry (l tag : Nat) (hs : GrantLaw s) : GrantLaw (transitExpiry l tag s) := by
  unfold Machine.transitExpiry
  split
  · exact hs
  · split
    · exact (hs.transitHold l _).finish
    · exact hs

theorem routeTimeout (l tag : Nat) (hs : GrantLaw s) : GrantLaw (routeTimeout l tag s) := by
  unfold Machine.routeTimeout
  split
  · exact hs
  · exact finish (unrouteRack (s := raise _ _ _ _ (dropRoute _ l tag s)) _ _ hs)

theorem rushTimerEnd (n : Nat) (hs : GrantLaw s) : GrantLaw (rushTimerEnd n s) := by
  unfold Machine.rushTimerEnd
  split
  · exact finish (hush.selectPass (hush.setRush _ _ hs))
  · exact hs

theorem rateWindowClose (n : Nat) (hs : GrantLaw s) : GrantLaw (rateWindowClose n s) := by
  unfold Machine.rateWindowClose
  split
  · exact finish (hush.selectPass (hs.setRate _ _))
  · exact hs

theorem resendTimerExpiry (id : Nat) (hs : GrantLaw s) : GrantLaw (resendTimerExpiry id s) := by
  unfold Machine.resendTimerExpiry Machine.resendDue
  split
  · exact hs
  · split
    · refine finish (hush.selectPass ?_)
      split
      · exact hush.updPage _ _ hs
      · exact hush.endPage _ _ hs
    · exact hs

theorem pageLifetimeExpiry (id : Nat) (hs : GrantLaw s) : GrantLaw (pageLifetimeExpiry id s) := by
  unfold Machine.pageLifetimeExpiry
  split
  · exact hs
  · split
    · exact finish (hush.selectPass (hush.endPage _ _ hs))
    · exact hs

/-- At power-on nothing is granted. -/
theorem powerOn (b : Bool) (s : State) : GrantLaw (powerOnState b s) := Nat.le_refl 0

theorem setPort (q : Port) (x : PortRec) (hs : GrantLaw s) : GrantLaw (s.setPort q x) := by
  cases q <;> exact hs

/-- Every row that is not a port command keeps the law. -/
theorem event {i : Instr} (hi : requestPort i = none) (hn : ∀ q l, i ≠ .undefinedCommandCode q l) (hs : GrantLaw s)
    (he : exec i s = .next t) : GrantLaw t := by
  cases i <;> simp only [requestPort, reduceCtorEq] at hi
  case powerOn => cases he; exact powerOn _ s
  case resetN => cases he; exact powerOn _ s
  case resetNRelease =>
    injection he with he
    subst he
    split
    · exact powerOn _ s
    · exact hs
  case undefinedCommandCode q l => exact absurd rfl (hn q l)
  case fetch q n =>
    refine live_keeps he hs ?_
    obtain ⟨x, _, e⟩ := fetchReply_port q n s
    rw [e]
    exact hs.setPort q x
  case closeCompletion =>
    exact live_keeps (f := fun s => Machine.finish (Machine.closeTest (callClose s))) he hs
      (hush.callClose hs).closeTest.finish
  case identReply => exact live_keeps he hs (hs.receive _ _ _)
  case cabinetReport => exact live_keeps he hs (hs.receive _ _ _)
  case washerReport => exact live_keeps he hs (hs.receive _ _ _)
  case baseReport => exact live_keeps he hs (hs.receive _ _ _)
  case setAck => exact live_keeps he hs (hs.receive _ _ _)
  case deliverAck => exact live_keeps he hs (hs.receive _ _ _)
  case invalidResponse => exact live_keeps he hs (hs.receiveBytes _)
  case responseTimeout => exact live_keeps he hs hs.responseTimeout
  case transactionSend => exact live_keeps he hs hs.transactionSend
  case busGuardEnd => exact live_keeps he hs hs.busGuardEnd
  case abandonGuardEnd => exact live_keeps he hs hs.abandonGuardEnd
  case pollTimerExpiry => exact live_keeps he hs (hs.pollTimerExpiry _)
  case discoveryTimerExpiry => exact live_keeps he hs hs.discoveryTimerExpiry
  case discoveryStep => exact live_keeps he hs hs.openingDiscovery
  case silenceTimerExpiry => exact live_keeps he hs (hs.silenceTimerExpiry _)
  case admission =>
    exact live_keeps (f := fun s => Machine.finish (Machine.admission s)) he hs (finish (admitWalk _ hs))
  case settleTimerExpiry => exact live_keeps he hs hs.settleTimerExpiry
  case holdTimerExpiry => exact live_keeps he hs hs.holdTimerExpiry
  case confirmTimerExpiry => exact live_keeps he hs (hs.confirmTimerExpiry _)
  case serviceSecond => exact live_keeps he hs hs.serviceSecond
  case plannedFireTimeReached => exact live_keeps he hs (hs.plannedFire _)
  case cookTimeComplete => exact live_keeps he hs (hs.cookTimeComplete _)
  case overHoldLimit => exact live_keeps he hs (hs.overHoldLimit _)
  case lotWarm => exact live_keeps he hs (hs.lotWarm _)
  case outOfBandExpiry => exact live_keeps he hs (hs.outOfBandExpiry _)
  case sleepTimerExpiry => exact live_keeps he hs (hs.sleepTimerExpiry _)
  case doorTimerExpiry => exact live_keeps he hs (hs.doorTimerExpiry _)
  case transitLimit => exact live_keeps he hs (hs.transitExpiry _ _)
  case routeTimeout => exact live_keeps he hs (hs.routeTimeout _ _)
  case presenceAgeExpiry => exact live_keeps he hs (hs.agePagers _)
  case rushTimerEnd => exact live_keeps he hs (hs.rushTimerEnd _)
  case rateWindowClose => exact live_keeps he hs (hs.rateWindowClose _)
  case resendTimerExpiry => exact live_keeps he hs (hs.resendTimerExpiry _)
  case pageLifetimeExpiry => exact live_keeps he hs (hs.pageLifetimeExpiry _)
  case handOff =>
    exact live_keeps (f := fun s => Machine.finish (Machine.selectUpTo 1 s)) he hs (finish (hush.selectUpTo 1 hs))

end Sys2Proof.Machine.GrantLaw
end

section
/-! SUPPORT. BUDGET_SET's revocation (R110). A shed lowers one victim to its shed level and changes neither who is
protected nor any shed level; so a consumer falls once, 26 rounds are enough, and what is granted at the end is within
the protected sum when it is not within the budget. -/

namespace Sys2Proof.Machine

variable {s t u : State}

/-! ### What the rules of shedding rest on -/

/-- The same consumers are protected (R104), with the same shed levels (R106) and full units (R103). -/
structure SameRules (s t : State) : Prop where
  tier : ∀ c, t.tier c = 5 ↔ s.tier c = 5
  level : ∀ c, t.shedLevel c = s.shedLevel c
  units : ∀ c, t.fullUnits c = s.fullUnits c

theorem SameRules.refl (s : State) : SameRules s s := ⟨fun _ => Iff.rfl, fun _ => rfl, fun _ => rfl⟩

theorem SameRules.trans (h : SameRules s t) (k : SameRules t u) : SameRules s u :=
  ⟨fun c => (k.tier c).trans (h.tier c), fun c => (k.level c).trans (h.level c), fun c => (k.units c).trans (h.units c)⟩

theorem SameRules.raise (n : NoticeKind) (x y z : Nat) (h : SameRules s t) : SameRules s (raise n x y z t) :=
  ⟨h.tier, h.level, h.units⟩

/-- What of a cabinet's record the rules rest on. -/
structure Cab.SameRules (x y : Cab) : Prop where
  kind : y.kind = x.kind
  standby : y.standby = x.standby
  heat : y.heat = x.heat
  working : x.kind = .oven → y.batches.any Batch.working = x.batches.any Batch.working

theorem Cab.SameRules.refl (x : Cab) : Cab.SameRules x x := ⟨rfl, rfl, rfl, fun _ => rfl⟩

/-- They rest on the boosters' protection and units, and on the cabinets' kinds, units and working batches: an earmark
moves a warmer between tiers that are both not protected. -/
theorem SameRules.of_records (h0 : t.power.protected0 = s.power.protected0)
    (h1 : t.power.protected1 = s.power.protected1)
    (hc : ∀ k, Cab.SameRules (s.cab k) (t.cab k)) (hl : ∀ l, (t.line l).booster = (s.line l).booster) :
    SameRules s t where
  tier c := by
    unfold State.tier
    rw [h0, h1, (hc c).kind]
    by_cases h24 : c = 24
    · rw [if_pos h24, if_pos h24]
    · by_cases h25 : c = 25
      · rw [if_neg h24, if_neg h24, if_pos h25, if_pos h25]
      · rw [if_neg h24, if_neg h24, if_neg h25, if_neg h25]
        cases hk : (s.cab c).kind with
        | empty => exact Iff.rfl
        | oven => rw [(hc c).working hk]
        | warmer =>
          have warmer (n : Nat) : (if n = 0 then 1 else 3) ≠ 5 := by split <;> decide
          exact iff_of_false (warmer _) (warmer _)
  level c := by rw [State.shedLevel, State.shedLevel, Cab.isWarmer, Cab.isWarmer, (hc c).kind, (hc c).standby]
  units c := by rw [State.fullUnits, State.fullUnits, (hc c).heat, hl]

theorem setConsumer_booster (c l : Nat) (x : Consumer) (s : State) :
    ((s.setConsumer c x).line l).booster = (s.line l).booster := by
  unfold State.setConsumer
  dsimp only
  split
  · rfl
  · rw [State.line_setLine_ite]
    split
    · rename_i h
      rw [h.1]
      rfl
    · rfl

theorem SameRules.setConsumer (c : Nat) (x : Consumer) (s : State) : SameRules s (s.setConsumer c x) := by
  refine .of_records ?_ ?_ (fun k => ?_) fun l => setConsumer_booster c l x s
  · rw [setConsumer_powerRecord]
  · rw [setConsumer_powerRecord]
  · rw [cab_congr (setConsumer_cabs c x s) k]
    exact .refl _

/-! ### One victim is shed (R107) -/

theorem Batch.refreshed_idle {b : Batch} (h : b.working = false) : (b.refreshed false).working = false := by
  unfold Batch.refreshed
  rw [if_neg (by decide)]
  split
  · rfl
  · exact h

/-- An oven without a working batch has none after it entered SHED either. -/
theorem enter_shed_rules {x : Cab} (h : x.kind = .oven → x.batches.any Batch.working = false) :
    Cab.SameRules x (x.enter .shed) where
  kind := rfl
  standby := rfl
  heat := rfl
  working hk := by
    rw [h hk, List.any_eq_false]
    intro y hy
    obtain ⟨b, hb, rfl⟩ := List.mem_map.1 hy
    have idle := List.any_eq_false.1 (h hk) b hb
    exact Bool.eq_false_iff.1 (Batch.refreshed_idle (Bool.eq_false_iff.2 idle))

/-- An oven that is not protected has no working batch. -/
theorem idle_of_unprotected {k : Nat} (hk : k < 24) (h : s.tier k ≠ 5) (ho : (s.cab k).kind = .oven) :
    (s.cab k).batches.any Batch.working = false := by
  unfold State.tier at h
  rw [if_neg (by omega), if_neg (by omega), ho] at h
  exact Bool.eq_false_iff.2 fun e => h (if_pos e)

theorem changeState_shed_rules {k : Nat} (u : Bool)
    (h : (s.cab k).kind = .oven → (s.cab k).batches.any Batch.working = false) :
    SameRules s (changeState k .shed u s) := by
  by_cases e : (s.cab k).state = .shed
  · rw [changeState_self u e]
    exact .refl s
  · have power := changeState_power k .shed u s
    have lines := (changeState_beside k .shed u s).lines
    rw [if_neg e] at lines
    refine .of_records (by rw [power]) (by rw [power]) (fun j => ?_) fun l => by rw [line_congr lines]; rfl
    have cabs : (changeState k .shed u s).cab j = (s.setCab k ((s.cab k).enter .shed)).cab j :=
      cab_congr (changeState_cabs u e) j
    rw [cabs, State.cab_setCab_ite]
    split
    · rename_i hj
      rw [hj.1]
      exact enter_shed_rules h
    · exact .refl _

/-- What a shed writes (R107), before its notice. -/
def lowered (c : Nat) (s : State) : State :=
  s.setConsumer c
    { s.consumer c with grant := s.shedLevel c, request := s.fullUnits c, mark := true, reqTime := some s.day.clock }

theorem shedOne_lowered (c why : Nat) (s : State) :
    shedOne c why s = raise .shed c why ((s.consumer c).grant - s.shedLevel c)
      (if c < 24 then changeState c .shed true (lowered c s) else lowered c s) := rfl

theorem lowered_cab (c k : Nat) (s : State) : (lowered c s).cab k = s.cab k := cab_congr (setConsumer_cabs _ _ _) k

/-- A shed changes neither who is protected nor any shed level. -/
theorem shedOne_rules {c : Nat} (why : Nat) (h : s.tier c ≠ 5) : SameRules s (shedOne c why s) := by
  have low : SameRules s (lowered c s) := .setConsumer _ _ _
  rw [shedOne_lowered]
  split
  · rename_i hc
    refine (low.trans (changeState_shed_rules true fun ho => ?_)).raise _ _ _ _
    rw [lowered_cab] at ho ⊢
    exact idle_of_unprotected hc h ho
  · exact low.raise _ _ _ _

theorem shedOne_sized (c why : Nat) (hs : Sized s) : Sized (shedOne c why s) :=
  (sized_full .a).toWide.toCalm.toWork.shedOne c why hs

/-- The consumers after a shed. -/
theorem shedOne_consumer (c why j : Nat) (hc : c < s.power.consumers.length) :
    (shedOne c why s).consumer j =
      if j = c then
        { s.consumer c with
          grant := s.shedLevel c, request := s.fullUnits c, mark := true, reqTime := some s.day.clock }
      else s.consumer j := by
  unfold State.consumer
  rw [shedOne_power]
  refine (setConsumer_consumer_ite c j _ s).trans ?_
  simp only [hc, and_true]
  rfl

/-- The cabinets after a shed: the victim is in SHED, the others are as they were. -/
theorem shedOne_cab {c : Nat} (why : Nat) (hc : c < 24 → c < s.cabs.length) :
    (c < 24 → ((shedOne c why s).cab c).state = .shed) ∧ ∀ k, k ≠ c → (shedOne c why s).cab k = s.cab k := by
  rw [shedOne_lowered]
  split
  · rename_i h24
    have len : c < (lowered c s).cabs.length := by
      unfold lowered
      rw [setConsumer_cabs]
      exact hc h24
    by_cases e : ((lowered c s).cab c).state = .shed
    · rw [changeState_self true e]
      exact ⟨fun _ => e, fun k _ => lowered_cab c k s⟩
    · refine ⟨fun _ => ?_, fun k hk => ?_⟩
      · rw [raise_cab, changeState_cab true len e]
        rfl
      · rw [raise_cab, cab_congr (changeState_cabs true e) (s := (lowered c s).setCab c _), State.cab_setCab_ite,
          if_neg fun h => hk h.1]
        exact lowered_cab c k s
  · exact ⟨fun h => absurd h ‹_›, fun k _ => lowered_cab c k s⟩

/-! ### The revocation -/

/-- A consumer that the revocation has lowered. -/
structure Fallen (s u : State) (c : Nat) : Prop where
  unprotected : s.tier c ≠ 5
  above : s.shedLevel c < (s.consumer c).grant
  grant : (u.consumer c).grant = s.shedLevel c
  request : (u.consumer c).request = s.fullUnits c
  mark : (u.consumer c).mark = true
  shed : c < 24 → (u.cab c).state = .shed

/-- The consumers whose grant is lower than it was. -/
def fell (s u : State) : List Nat := (List.range 26).filter fun c => (u.consumer c).grant < (s.consumer c).grant

theorem mem_fell {c : Nat} : c ∈ fell s u ↔ c < 26 ∧ (u.consumer c).grant < (s.consumer c).grant := by
  rw [fell, List.mem_filter, List.mem_range, decide_eq_true_eq]

theorem fell_nodup (s u : State) : (fell s u).Nodup := List.nodup_range.filter _

/-- A revocation under way, with `n` consumers lowered. -/
structure Revoking (s u : State) (n : Nat) : Prop where
  sized : Sized u
  rules : SameRules s u
  cases : ∀ c, c < 26 → u.consumer c = s.consumer c ∨ Fallen s u c
  count : (fell s u).length = n

theorem Revoking.start (hs : Sized s) : Revoking s s 0 where
  sized := hs
  rules := .refl s
  cases _ _ := .inl rfl
  count := by
    unfold fell
    simp

theorem Fallen.falls {c : Nat} (h : Fallen s u c) : (u.consumer c).grant < (s.consumer c).grant := by
  rw [h.grant]
  exact h.above

/-- A consumer that can still be shed has not fallen. -/
theorem Revoking.untouched {n c : Nat} (h : Revoking s u n) (hc : u.victim = some c) :
    c < 26 ∧ u.consumer c = s.consumer c ∧ s.tier c ≠ 5 ∧ s.shedLevel c < (s.consumer c).grant := by
  obtain ⟨range, tier, above⟩ := sheddable_of_victim hc
  rw [h.rules.level] at above
  rcases h.cases c range with same | fallen
  · rw [same] at above
    exact ⟨range, same, fun e => tier ((h.rules.tier c).2 e), above⟩
  · rw [fallen.grant] at above
    exact absurd above (Nat.lt_irrefl _)

/-- One more victim. -/
theorem Revoking.shed {n c : Nat} (h : Revoking s u n) (hc : u.victim = some c) :
    Revoking s (shedOne c 1 u) (n + 1) := by
  obtain ⟨range, same, tier, above⟩ := h.untouched hc
  have length : c < u.power.consumers.length := by
    rw [h.sized.consumers]
    exact range
  have write (j : Nat) := shedOne_consumer (s := u) c 1 j length
  obtain ⟨isShed, others⟩ := shedOne_cab (s := u) (c := c) 1 fun h24 => by
    rw [h.sized.cabs]
    exact h24
  have low : ((shedOne c 1 u).consumer c).grant = s.shedLevel c := by
    rw [write, if_pos rfl]
    exact h.rules.level c
  refine ⟨shedOne_sized c 1 h.sized, h.rules.trans (shedOne_rules 1 fun e => tier ((h.rules.tier c).1 e)),
    fun j hj => ?_, ?_⟩
  · by_cases e : j = c
    · subst e
      refine .inr ⟨tier, above, low, ?_, ?_, isShed⟩
      · rw [write, if_pos rfl]
        exact h.rules.units j
      · rw [write, if_pos rfl]
    · have keep : (shedOne c 1 u).consumer j = u.consumer j := by rw [write, if_neg e]
      rcases h.cases j hj with old | fallen
      · exact .inl (keep.trans old)
      · exact .inr ⟨fallen.unprotected, fallen.above, by rw [keep, fallen.grant], by rw [keep, fallen.request],
          by rw [keep, fallen.mark], fun h24 => by rw [others j e, fallen.shed h24]⟩
  · have fresh : c ∉ fell s u := fun hm => by
      have lower := (mem_fell.1 hm).2
      rw [same] at lower
      exact Nat.lt_irrefl _ lower
    have perm : (fell s (shedOne c 1 u)).Perm (c :: fell s u) := by
      refine (List.perm_ext_iff_of_nodup (fell_nodup _ _) (List.nodup_cons.2 ⟨fresh, fell_nodup _ _⟩)).2 fun j => ?_
      rw [List.mem_cons, mem_fell, mem_fell]
      by_cases e : j = c
      · subst e
        rw [low]
        exact iff_of_true ⟨range, above⟩ (.inl rfl)
      · rw [write, if_neg e]
        exact (or_iff_right e).symm
    rw [perm.length_eq, List.length_cons, h.count]

/-- When all 26 have fallen, no victim is left. -/
theorem Revoking.exhausted (h : Revoking s u 26) : u.victim = none := by
  refine Option.eq_none_iff_forall_not_mem.2 fun c hc => ?_
  obtain ⟨range, same, -, -⟩ := h.untouched hc
  have all := List.length_filter_eq_length_iff.1 (h.count.trans List.length_range.symm) c (List.mem_range.2 range)
  rw [same] at all
  exact Nat.lt_irrefl _ (of_decide_eq_true all)

theorem shedOne_budget (c why : Nat) (s : State) : (shedOne c why s).power.budget = s.power.budget := by
  rw [shedOne_power, setConsumer_powerRecord]

/-- The revocation, started with fuel for all 26 consumers, ends with the sum within the budget or without a victim. -/
theorem Revoking.revoke : ∀ (k n : Nat) {u : State}, k + n = 26 → Revoking s u n →
    Revoking s (revoke k n u).1 (Machine.revoke k n u).2 ∧
      (Machine.revoke k n u).1.power.budget = u.power.budget ∧
      ((Machine.revoke k n u).1.grantSum ≤ u.power.budget ∨ (Machine.revoke k n u).1.victim = none)
  | 0, n, u, hn, h => by
    have full : n = 26 := by omega
    subst full
    exact ⟨h, rfl, .inr h.exhausted⟩
  | k + 1, n, u, hn, h => by
    unfold Machine.revoke
    split
    · split
      · rename_i none
        exact ⟨h, rfl, .inr none⟩
      · rename_i c victim
        have next := Revoking.revoke k (n + 1) (by omega) (h.shed victim)
        rw [shedOne_budget] at next
        exact next
    · rename_i fits
      exact ⟨h, rfl, .inl (Nat.le_of_not_lt fits)⟩

/-! ### The sum at the end -/

/-- A function of the table's entries, by their numbers. -/
theorem total_range_getD {α : Type} (f : α → Nat) (d : α) (l : List α) :
    total ((List.range l.length).map fun c => f (l.getD c d)) = total (l.map f) := by
  congr 1
  refine List.ext_getElem (by simp) fun i hi _ => ?_
  have h : i < l.length := by simpa using hi
  simp [h]

theorem grantSum_eq_range (hs : Sized s) : s.grantSum = total ((List.range 26).map fun c => (s.consumer c).grant) := by
  rw [← hs.consumers]
  exact (total_range_getD (·.grant) Consumer.initial s.power.consumers).symm

theorem total_map_le {f g : Nat → Nat} : ∀ {l : List Nat}, (∀ c ∈ l, f c ≤ g c) → total (l.map f) ≤ total (l.map g)
  | [], _ => Nat.le_refl _
  | c :: l, h => by
    have tail := total_map_le (l := l) fun x hx => h x (List.mem_cons_of_mem c hx)
    have head := h c List.mem_cons_self
    rw [List.map_cons, List.map_cons, total_cons, total_cons]
    omega

/-- Without a victim every consumer is protected or within its shed level. -/
theorem within_of_no_victim (h : s.victim = none) {c : Nat} (hc : c < 26) :
    s.tier c = 5 ∨ (s.consumer c).grant ≤ s.shedLevel c := by
  have none := sortBy_eq_nil.1 (List.head?_eq_none_iff.1 h)
  have idle := List.filter_eq_nil_iff.1 none c (List.mem_range.2 hc)
  rw [State.sheddable, Bool.and_eq_true, decide_eq_true_eq, decide_eq_true_eq] at idle
  omega

/-- With no victim left, what is granted is within the protected sum. -/
theorem Revoking.grantSum_le {n : Nat} (h : Revoking s u n) (none : u.victim = none) : u.grantSum ≤ s.protectedSum := by
  rw [grantSum_eq_range h.sized]
  refine total_map_le fun c hc => ?_
  have range := List.mem_range.1 hc
  have level := h.rules.level c
  unfold State.protectedPart
  dsimp only
  rcases h.cases c range with same | fallen
  · rw [same]
    split
    · exact Nat.le_refl _
    · rename_i tier
      rcases within_of_no_victim none range with e | le
      · exact absurd ((h.rules.tier c).1 e) tier
      · rw [same, level] at le
        exact Nat.le_min.2 ⟨Nat.le_refl _, le⟩
  · rw [if_neg fallen.unprotected, fallen.grant]
    exact Nat.le_min.2 ⟨Nat.le_of_lt fallen.above, Nat.le_refl _⟩

/-- A budget not below the protected sum is kept by the revocation (R110). -/
theorem revoke_grantSum_le (hs : Sized s) (h : s.protectedSum ≤ s.power.budget) :
    (revoke 26 0 s).1.grantSum ≤ s.power.budget := by
  obtain ⟨done, -, le⟩ := Revoking.revoke 26 0 rfl (.start hs)
  rcases le with le | none
  · exact le
  · exact (done.grantSum_le none).trans h

end Sys2Proof.Machine
end

section
/-! SUPPORT. The grant law through every port command, the port protocol and the step. -/

namespace Sys2Proof.Machine.GrantLaw

variable {s t : State}

/-! ### The ports and the day -/

theorem permitSet (x y : Nat) (hs : GrantLaw s) : GrantLaw (permitSetBody x y s).state := by
  unfold permitSetBody
  split
  · exact hs
  · rename_i q _
    refine checked_keeps hs fun _ => ?_
    have written : GrantLaw (s.setPort q { s.port q with perms := y }) := hs.setPort _ _
    show GrantLaw (if _ then _ else _)
    split
    · exact hush.raiseTo (s := ((s.setPort q _).withFreeCount _).withDay _) _ _ _ _ _ written
    · exact written

theorem portReset (q : Port) (hs : GrantLaw s) : GrantLaw (portResetBody q s).state := by
  unfold portResetBody
  extract_lets s1
  refine setPort _ _ ?_
  show GrantLaw (if _ then _ else _)
  split
  · exact hs.endHold _ _
  · exact hs

theorem holdBegin (q : Port) (hs : GrantLaw s) : GrantLaw (holdBeginBody q s).state := by
  unfold holdBeginBody
  split
  · exact hs
  · split <;> exact hs

theorem holdEnd (q : Port) (hs : GrantLaw s) : GrantLaw (holdEndBody q s).state := by
  unfold holdEndBody
  split
  · exact hs
  · split
    · exact hs.endHold _ _
    · exact hs

theorem emptyCourses_power (w : Power) (l : List Nat) (h : s.power = w) :
    (forEach l (fun c t => if (t.course c).state = .empty then t else emptyCourse c t) s).power = w :=
  Hush.forEach (P := fun t => t.power = w) (fun c t ht => by
    split
    · exact ht
    · exact ht) l h

theorem openCourses (hs : GrantLaw s) : GrantLaw (openCourses s) := by
  refine hs.of_power ?_
  unfold Machine.openCourses
  dsimp only [State.withFns_power, State.withFire_power, State.withEarmarks_power]
  exact emptyCourses_power s.power _ rfl

theorem openRequests (hs : GrantLaw s) : GrantLaw (openRequests s) :=
  ((Hush.forEach (f := Machine.switchOn) (fun k _ ht => ht.switchOn k) (List.range 24) hs).boosterSync 0).boosterSync 1

theorem openRecords (hs : GrantLaw s) : GrantLaw (openRecords s) := hs.powerOpen

theorem pagingOpen (hs : GrantLaw s) : GrantLaw (pagingOpen s) := hush.removeDelivers hs

theorem dayToService (hs : GrantLaw s) : GrantLaw (dayToService s) := hush.matchDiscovery (s := s.withDay _) hs

theorem openDay (hs : GrantLaw s) : GrantLaw (openDay s) := by
  have zeroed : GrantLaw (zeroClock s) := hs
  have opened := zeroed.openCourses.pagingOpen.openRecords.dayToService.openRequests.powerTry
  unfold Machine.openDay
  exact hush.raise _ _ _ _ opened

theorem dayToClosing (hs : GrantLaw s) : GrantLaw (dayToClosing s) := hs

theorem closeDay (hs : GrantLaw s) : GrantLaw (closeDay s) := by
  have cancelled := Hush.forEach (f := Machine.cancelCourse) (fun c _ ht => ht.cancelCourse c) s.unfired hs
  have off := Hush.forEach (f := fun k t => Machine.switchOff k false t) (fun k _ ht => ht.switchOff k false)
    (List.range 24) cancelled
  have closing := ((off.removeStaged 0).removeStaged 1).powerTry.dayToClosing
  unfold Machine.closeDay
  exact hush.callClose (hush.raise _ _ _ _ closing)

theorem dayOpen (hs : GrantLaw s) : GrantLaw (dayOpenBody s).state :=
  checked_keeps hs fun _ => okWith_keeps hs.openDay.finish

theorem dayClose (hs : GrantLaw s) : GrantLaw (dayCloseBody s).state :=
  checked_keeps hs fun _ => okWith_keeps hs.closeDay.finish

theorem clearLockoutLine (l : Nat) (hs : GrantLaw s) : GrantLaw (clearLockoutLine l s) :=
  boosterSync (s := withStops l _ s) l hs

theorem clearLockout (hs : GrantLaw s) : GrantLaw (clearLockout s) :=
  hush.callClose (hush.raise _ _ _ _ (hush.matchDiscovery
    (clearLockoutLine _ (clearLockoutLine _ (s := s.withDay _) hs))))

theorem lockoutClear (hs : GrantLaw s) : GrantLaw (lockoutClearBody s).state :=
  checked_keeps hs fun _ => okWith_keeps hs.clearLockout.finish

/-! ### Courses -/

theorem enterCourse (c : Nat) (st : CourseState) (hs : GrantLaw s) : GrantLaw (enterCourse c st s) :=
  hush.raise (s := s.setCourse c _) _ _ _ _ hs

theorem bookBatch (k : Nat) (b : Batch) (hs : GrantLaw s) : GrantLaw (bookBatch k b s) := by
  unfold Machine.bookBatch
  dsimp only
  split
  · exact applySetpoint (s := s.setCab k _) k _ _ hs
  · exact hs

theorem courseArm (c : Nat) (hs : GrantLaw s) : GrantLaw (courseArmBody c s).state := by
  unfold courseArmBody
  dsimp only
  refine checked_keeps hs fun _ => okWith_keeps (finish (enterCourse _ _ ?_))
  split
  · exact hs
  · exact hs.bookBatch _ _

theorem courseFire (c : Nat) (hs : GrantLaw s) : GrantLaw (courseFireBody c s).state :=
  checked_keeps hs fun _ => okWith_keeps (hs.fireCourse c).finish

theorem courseCancel (c : Nat) (hs : GrantLaw s) : GrantLaw (courseCancelBody c s).state := by
  unfold courseCancelBody
  exact checked_keeps hs fun _ => okWith_keeps (hs.cancelCourse c).finish

theorem courseClose (c : Nat) (hs : GrantLaw s) : GrantLaw (courseCloseBody c s).state := by
  unfold courseCloseBody
  exact checked_keeps hs fun _ => okWith_keeps (hush.clearRelated c hs)

theorem courseRebatch (c k : Nat) (hs : GrantLaw s) : GrantLaw (courseRebatchBody c k s).state :=
  checked_keeps hs fun _ => by
    split
    · exact hs
    · exact okWith_keeps (finish (bookBatch (s := (Machine.removeBatch c s).setCourse c _) _ _ (hs.removeBatch c)))

theorem functionSet (f x m q r : Nat) (hs : GrantLaw s) : GrantLaw (functionSetBody f x m q r s).state := by
  unfold functionSetBody
  split
  · exact hs
  · refine checked_keeps hs fun _ => ?_
    show GrantLaw (if _ then _ else _)
    split
    · exact hs
    · split <;> exact hs

/-! ### Cabinets and lines -/

theorem placeCab (k : Nat) (o : CabState) (hs : GrantLaw s) : GrantLaw (placeCab k o s) := by
  unfold Machine.placeCab
  extract_lets c silent s1 st
  have placed : GrantLaw s1 := by
    show GrantLaw (if _ then _ else _)
    split
    · exact hs
    · exact hs.clearMeasured _
  refine hush.claimCab _ _ ?_
  split
  · exact placed
  · exact hush.callRoutes (hush.raise _ _ _ _ placed)

theorem unsetBaselines (a : Option Nat) (hs : GrantLaw s) : GrantLaw (unsetBaselines a s) := by
  unfold Machine.unsetBaselines
  split <;> exact hs

theorem configureCab (k : Nat) (q : CabKind) (x : CabinetArgs) (hs : GrantLaw s) : GrantLaw (configureCab k q x s) := by
  have written : GrantLaw ((Machine.unload k s).setCab k (newCab q x)) := hs.unload k
  unfold Machine.configureCab
  dsimp only
  refine placeCab _ _ (unsetBaselines _ ?_)
  split
  · exact written
  · exact written.renameFrom _ _

theorem cabinetSet (k q : Nat) (x : CabinetArgs) (hs : GrantLaw s) : GrantLaw (cabinetSetBody k q x s).state := by
  unfold cabinetSetBody
  split
  · exact hs
  · exact checked_keeps hs fun _ => okWith_keeps (finish (hs.configureCab _ _ _))

theorem cabinetMode (k m f : Nat) (hs : GrantLaw s) : GrantLaw (cabinetModeBody k m f s).state :=
  checked_keeps hs fun _ => by
    refine okWith_keeps (finish ?_)
    split
    · exact switchOn (s := s.setCab k _) k hs
    · exact hs.switchOff _ _

theorem cabinetSetpoint (k : Nat) (x : Int) (b : Nat) (hs : GrantLaw s) :
    GrantLaw (cabinetSetpointBody k x b s).state := by
  unfold cabinetSetpointBody
  exact checked_keeps hs fun _ => okWith_keeps (hs.applySetpoint _ _ _).finish

theorem rearm (k : Nat) (hs : GrantLaw s) : GrantLaw (rearm k s) := by
  have latched : GrantLaw (Machine.relatch k s) := hs.of_power (relatch_rest k s).2.1
  unfold Machine.rearm
  dsimp only
  split
  · split
    · exact latched.enterOff _ _
    · exact latched.enterOffline _
  · exact latched

theorem cabinetRearm (k : Nat) (hs : GrantLaw s) : GrantLaw (cabinetRearmBody k s).state :=
  checked_keeps hs fun _ => okWith_keeps (hs.rearm k).finish

theorem configureLine (l : Nat) (x : LineArgs) (hs : GrantLaw s) : GrantLaw (configureLine l x s) := by
  unfold Machine.configureLine
  extract_lets old s1 src s2 s3 s4 s5
  have bound : GrantLaw s4 := by
    show GrantLaw (if _ then _ else _)
    split
    · exact hs
    · exact hush.claimSet _ _ _ _ ((setRunning (s := s1.setLine l _) l false hs).renameFrom _ _)
  have pressed : GrantLaw s5 := bound.backpressure _
  split
  · exact pressed.clearMeasured _
  · exact pressed

theorem lineSet (l : Nat) (x : LineArgs) (hs : GrantLaw s) : GrantLaw (lineSetBody l x s).state :=
  checked_keeps hs fun _ => okWith_keeps (hs.configureLine l x).finish

theorem lineMode (l m : Nat) (hs : GrantLaw s) : GrantLaw (lineModeBody l m s).state :=
  checked_keeps hs fun _ => by
    show GrantLaw (if _ then _ else _)
    split
    · exact hs
    · exact finish (boosterSync (s := s.setLine l _) l hs)

theorem rackRelease (l tag x : Nat) (hs : GrantLaw s) : GrantLaw (rackReleaseBody l tag x s).state := by
  unfold rackReleaseBody
  dsimp only
  refine checked_keeps hs fun _ => ?_
  split
  · exact hs
  · rename_i r _
    refine okWith_keeps (finish (hush.callRoute _ ?_))
    split
    · exact backpressure (s := restage l r s) l hs
    · exact leaveExit (s := transfer r.cls .held .soiled r.count s) l tag leftSoiled hs

theorem rackClear (l tag : Nat) (hs : GrantLaw s) : GrantLaw (rackClearBody l tag s).state := by
  unfold rackClearBody
  dsimp only
  refine checked_keeps hs fun _ => ?_
  split
  · exact hs
  · refine okWith_keeps (finish (hush.callRoute _ (leaveExit _ _ _ ?_)))
    split <;> exact hs

/-! ### Power and paging -/

/-- A budget not below the protected sum leaves, after the revocation, grants within it. -/
theorem changeBudget {n : Nat} (hz : Sized s) (h : s.protectedSum ≤ n) : GrantLaw (changeBudget n s).1 := by
  have cut : Sized (s.withPower { s.power with budget := n }) := ⟨hz.wares, hz.fns, hz.courses, hz.cabs, hz.lines,
    hz.consumers, hz.meters, hz.dir, hz.rush, hz.rates, hz.nodes, hz.confirm⟩
  have law : GrantLaw (revoke 26 0 (s.withPower { s.power with budget := n })).1 := by
    unfold GrantLaw
    rw [(Revoking.revoke 26 0 rfl (.start cut)).2.1]
    exact revoke_grantSum_le cut h
  exact hush.raise _ _ _ _ (hush.callRestore law).powerTry

theorem budgetSet (n : Nat) (hz : Sized s) (hs : GrantLaw s) : GrantLaw (budgetSetBody n s).state :=
  checked_keeps hs fun e => by
    have fits := (firstFailure_none.1 (firstFailure_none.1 (firstFailure_none.1 e).2).2).1
    exact okWith_keeps (changeBudget hz (of_decide_eq_true fits)).finish

theorem powerSet (x : PowerArgs) (hs : GrantLaw s) : GrantLaw (powerSetBody x s).state :=
  checked_keeps hs fun _ => by
    have written (y : Power) (hb : y.budget = s.power.budget) (hc : y.consumers = s.power.consumers) :
        GrantLaw (s.withPower y) := hs.of_grants hb (congrArg _ hc)
    exact okWith_keeps (finish (powerTry (hush.callRestore (shedCheck (written _ rfl rfl)))))

theorem energyLoad (m r : Nat) (hs : GrantLaw s) : GrantLaw (energyLoadBody m r s).state :=
  checked_keeps hs fun _ => hs.of_grants (t := s.setMeter m ⟨r, false⟩) rfl rfl

theorem pageSend (q : Port) (k v c x r : Nat) (hs : GrantLaw s) : GrantLaw (pageSendBody q k v c x r s).state := by
  unfold pageSendBody
  split
  · split
    · exact hs
    · split
      · exact hs
      · rename_i room
        exact okWith_keeps (finish (hush.selectPass (hush.addPage _ _ _ _ _ _ (hush.makeRoom _ hs room))))
  · exact hs

theorem pageCancel (i : Nat) (hs : GrantLaw s) : GrantLaw (pageCancelBody i s).state := by
  unfold pageCancelBody
  split
  · exact hs
  · exact okWith_keeps (finish (hush.selectPass (hush.cancelPage _ _ hs)))

theorem configurePaging (x : PagingArgs) (g : Option Nat) (hs : GrantLaw s) : GrantLaw (configurePaging x g s) := by
  unfold Machine.configurePaging
  extract_lets old s1 s2
  refine hush.selectPass ?_
  show GrantLaw (if _ then _ else _)
  split
  · exact hs
  · refine renameFrom _ _ ?_
    split
    · exact baseLost (s := s1) hs
    · exact hs

theorem pagingSet (x : PagingArgs) (hs : GrantLaw s) : GrantLaw (pagingSetBody x s).state := by
  unfold pagingSetBody
  split
  · exact hs
  · exact checked_keeps hs fun _ => okWith_keeps (finish (hs.configurePaging _ _))

/-! ### Every command -/

theorem body {i : Instr} {p : Port} (hi : requestPort i = some p) (hz : Sized s) (hs : GrantLaw s) :
    GrantLaw (bodyOf i s).state := by
  cases i <;> simp only [requestPort, Option.some.injEq, reduceCtorEq] at hi <;> subst hi
  case noticeFetch => exact checked_keeps hs fun _ => hs.setPort _ _
  case noticeSubscribe => exact checked_keeps hs fun _ => hs.setPort _ _
  case portReset => exact hs.portReset _
  case holdBegin => exact hs.holdBegin _
  case holdEnd => exact hs.holdEnd _
  case configClaim => exact checked_keeps hs fun _ => hs
  case configRelease => exact checked_keeps hs fun _ => hs
  case permitSet => exact hs.permitSet _ _
  case dayOpen => exact hs.dayOpen
  case dayClose => exact hs.dayClose
  case lockoutClear => exact hs.lockoutClear
  case deviceReset => exact checked_keeps hs fun _ => powerOn _ s
  case classSet => exact checked_keeps hs fun _ => hs
  case wareStock => exact checked_keeps hs fun _ => hs
  case wareAdd => exact checked_keeps hs fun _ => hs
  case wareMove => exact checked_keeps hs fun _ => by dsimp only; split <;> exact hs
  case wareWriteOff => exact checked_keeps hs fun _ => by dsimp only; split <;> exact hs
  case wareReturn => exact checked_keeps hs fun _ => by dsimp only; split <;> exact hs
  case functionSet => exact hs.functionSet _ _ _ _ _
  case courseDefine => exact checked_keeps hs fun _ => hush.raise (s := s.setCourse _ _) _ _ _ _ hs
  case courseArm => exact hs.courseArm _
  case courseFire => exact hs.courseFire _
  case courseRebatch => exact hs.courseRebatch _ _
  case courseCancel => exact hs.courseCancel _
  case courseClose => exact hs.courseClose _
  case cabinetSet => exact hs.cabinetSet _ _ _
  case cabinetMode => exact hs.cabinetMode _ _ _
  case cabinetSetpoint => exact hs.cabinetSetpoint _ _ _
  case cabinetRearm => exact hs.cabinetRearm _
  case lineSet => exact hs.lineSet _ _
  case lineMode => exact hs.lineMode _ _
  case rackAnnounce => exact checked_keeps hs fun _ => hs
  case rackRelease => exact hs.rackRelease _ _ _
  case rackClear => exact hs.rackClear _ _
  case budgetSet => exact hs.budgetSet _ hz
  case powerSet => exact hs.powerSet _
  case energyLoad => exact hs.energyLoad _ _
  case pageSend => exact hs.pageSend _ _ _ _ _ _
  case pageCancel => exact hs.pageCancel _
  case pagingSet => exact hs.pagingSet _
  case portRead => exact hs
  case dayRead => exact hs
  case wareRead => exact Full.wareRead _ hs
  case courseRead => exact Full.courseRead _ _ _ hs
  case functionRead => exact Full.functionRead _ hs
  case cabinetRead => exact Full.cabinetRead _ _ _ hs
  case lineRead => exact Full.lineRead _ hs
  case powerRead => exact Full.powerRead _ _ hs
  case energyRead => exact Full.energyRead _ hs
  case energyReadRaw => exact Full.energyReadRaw _ hs
  case nodeRead => exact Full.nodeRead _ _ hs
  case rackRead => exact Full.rackRead _ _ _ hs
  case pageRead => exact Full.pageRead _ _ hs
  case pagerRead => exact Full.pagerRead _ _ hs

/-! ### The port protocol and the step -/

theorem before {p : Port} (i : Instr) (hs : GrantLaw s) : GrantLaw (before i p s) := by
  unfold Machine.before
  split <;> exact hs

theorem after {p : Port} (i : Instr) (r : Reply) (ht : GrantLaw t) : GrantLaw (after i p s r t) := by
  unfold Machine.after
  extract_lets u
  refine setPort _ _ ?_
  show GrantLaw (if _ then _ else _)
  split
  · show GrantLaw (raiseTo p .holdEnded p.code 1 t.hold.count t)
    exact hush.raiseTo _ _ _ _ _ ht
  · exact ht

theorem command {i : Instr} {p : Port} (hi : requestPort i = some p) (hz : Sized s) (hs : GrantLaw s)
    (he : exec i s = .next t) : GrantLaw t := by
  by_cases low : s.day.resetLow = true
  · rw [exec_request hi] at he
    simp only [live, low, if_true] at he
    cases he
    exact hs
  · have high : s.day.resetLow = false := Bool.eq_false_iff.2 low
    by_cases read : (s.port p).slot = none
    · rw [request_answer hi ⟨high, read⟩] at he
      cases he
      refine after _ _ ?_
      unfold outcomeOf
      split
      · exact hs.before i
      · exact body hi (hz.before i p) (hs.before i)
    · rw [request_unread hi high read] at he
      cases he
      exact hs.setPort _ _

/-- Every step keeps the law. -/
theorem step (hz : Sized s) (hs : GrantLaw s) (he : step s = .next t) : GrantLaw t := by
  unfold Machine.step at he
  split at he
  · cases he
    unfold idle
    split <;> exact hs
  · rename_i c rest _
    have sized : Sized (s.withPending rest) := hz.same rfl rfl rfl rfl rfl rfl rfl rfl rfl
    have law : GrantLaw (s.withPending rest) := hs
    cases port : requestPort c with
    | some p => exact law.command port sized he
    | none =>
      by_cases bytes : ∃ q l, c = .undefinedCommandCode q l
      · obtain ⟨q, l, rfl⟩ := bytes
        rcases exec_bytes he with rfl | ⟨x, _, rfl⟩ | ⟨j, hj, next⟩
        · exact law
        · exact law.setPort _ _
        · exact law.command hj sized next
      · exact law.event port (fun q l e => bytes ⟨q, l, e⟩) he

end Sys2Proof.Machine.GrantLaw

namespace Sys2Proof.Certificates

open Sys2Proof.Machine

/-- Settles O36: no operation but BUDGET_SET lowers the budget or raises a grant beyond it, and BUDGET_SET's revocation
ends within the new budget because a budget below the protected sum is refused. -/
theorem grantsStayWithinBudget : Obligations.GrantsStayWithinBudget := fun _ _ hz hs he => GrantLaw.step hz hs he

end Sys2Proof.Certificates
end

section
/-! SUPPORT. BUDGET_SET and POWER_SET (R110, R111): the bodies of the two commands, and the rounds of the revocation. -/

namespace Sys2Proof.Machine

variable {s t : State}

/-! ### The rounds of the revocation -/

theorem revoke_done {k n : Nat} (h : s.grantSum ≤ s.power.budget ∨ s.victim = none) : revoke k n s = (s, n) := by
  cases k with
  | zero => rfl
  | succ k =>
    unfold revoke
    rcases h with fits | none
    · rw [if_neg (Nat.not_lt.2 fits)]
    · rw [none]
      exact ite_self _

theorem revoke_victim {k n c : Nat} (h : s.power.budget < s.grantSum) (victim : s.victim = some c) :
    revoke (k + 1) n s = revoke k (n + 1) (shedOne c 1 s) := by
  rw [revoke, if_pos h, victim]

/-! ### The bodies of the two commands -/

/-- BUDGET_SET within its limits. -/
theorem budgetSetBody_ok {n m : Nat} (hb : n ≤ 2500 ∧ s.power.shedHigh ≤ n) (hd : s.day.state ≠ .lockout)
    (hp : s.protectedSum ≤ n) (e : changeBudget n s = (t, m)) :
    budgetSetBody n s =
      okWith (be16 (finish t).power.budget ++ be16 (finish t).grantSum ++ be8 m) (finish t) := by
  unfold budgetSetBody
  rw [checked_of_none, e]
  rw [firstFailure_tail (by simpa using hb), firstFailure_tail (inDay_openDays hd),
    firstFailure_tail (decide_eq_true hp), firstFailure_nil]

theorem budgetSetBody_range {n : Nat} (hb : ¬(n ≤ 2500 ∧ s.power.shedHigh ≤ n)) :
    budgetSetBody n s = refuse .range s :=
  checked_of_some (firstFailure_head (by
    rw [Bool.eq_false_iff, ne_eq, Bool.and_eq_true, decide_eq_true_eq, decide_eq_true_eq]
    exact hb))

theorem budgetSetBody_conflict {n : Nat} (hb : n ≤ 2500 ∧ s.power.shedHigh ≤ n) (hd : s.day.state ≠ .lockout)
    (hp : n < s.protectedSum) : budgetSetBody n s = refuse .conflict s := by
  refine checked_of_some ?_
  rw [firstFailure_tail (by simpa using hb), firstFailure_tail (inDay_openDays hd),
    firstFailure_head (decide_eq_false (Nat.not_le.2 hp))]

/-- The ranges of POWER_SET (R111). -/
def PowerFits (a : PowerArgs) (s : State) : Prop :=
  a.low < a.high ∧ a.high ≤ s.power.budget ∧ a.saturation < 2 ∧ a.rounding < 2 ∧ a.prot0 < 2 ∧ a.prot1 < 2

theorem powerFits_iff (a : PowerArgs) (s : State) :
    (decide (a.low < a.high) && decide (a.high ≤ s.power.budget) && isFlag a.saturation && isFlag a.rounding &&
      isFlag a.prot0 && isFlag a.prot1) = true ↔ PowerFits a s := by
  simp only [Bool.and_eq_true, decide_eq_true_eq, isFlag_iff, PowerFits, and_assoc]

/-- The settings that POWER_SET writes. -/
def withPowerArgs (a : PowerArgs) (s : State) : State :=
  s.withPower { s.power with
    shedHigh := a.high, shedLow := a.low, saturate := decide (a.saturation = 0),
    nearestEven := decide (a.rounding = 1), protected0 := decide (a.prot0 = 0),
    protected1 := decide (a.prot1 = 0) }

theorem powerSetBody_ok {a : PowerArgs} (ha : PowerFits a s) (hd : s.day.state ≠ .lockout) :
    powerSetBody a s = okWith [] (finish (powerTry (callRestore (shedCheck (withPowerArgs a s))))) := by
  refine checked_of_none ?_
  rw [firstFailure_tail ((powerFits_iff a s).2 ha), firstFailure_tail (inDay_openDays hd), firstFailure_nil]

theorem powerSetBody_range {a : PowerArgs} (ha : ¬PowerFits a s) : powerSetBody a s = refuse .range s :=
  checked_of_some (firstFailure_head (Bool.eq_false_iff.2 fun e => ha ((powerFits_iff a s).1 e)))

/-! ### What BUDGET_SET does (R110) -/

/-- The state in which the revocation begins. -/
def cutTo (n : Nat) (s : State) : State := s.withPower { s.power with budget := n }

/-- The state in which it ends. -/
def revokedTo (n : Nat) (s : State) : State := (revoke 26 0 (cutTo n s)).1

/-- The state that BUDGET_SET leaves. -/
def budgetTo (n : Nat) (s : State) : State :=
  finish (raise .budgetChanged 0 n s.power.budget (powerTry (callRestore (revokedTo n s))))

theorem cutTo_sized (n : Nat) (hs : Sized s) : Sized (cutTo n s) :=
  hs.of rfl rfl rfl rfl rfl rfl rfl rfl rfl rfl rfl rfl

theorem revokedTo_bedrock (n : Nat) (s : State) : Bedrock (cutTo n s) (revokedTo n s) :=
  (Bedrock.work _).revoke 26 0 (Bedrock.refl _)

theorem budgetTo_bedrock (n : Nat) (s : State) : Bedrock (revokedTo n s) (budgetTo n s) := by
  have work := Bedrock.work (revokedTo n s)
  exact work.finish (work.raise _ _ _ _ (work.powerTry (work.callRestore (Bedrock.refl _))))

theorem revokedTo_budget (n : Nat) (s : State) : (revokedTo n s).power.budget = n :=
  (revokedTo_bedrock n s).power.budget

theorem budgetTo_budget (n : Nat) (s : State) : (budgetTo n s).power.budget = n :=
  (budgetTo_bedrock n s).power.budget.trans (revokedTo_budget n s)

theorem revokedTo_grantSum {n : Nat} (hs : Sized s) (h : s.protectedSum ≤ n) : (revokedTo n s).grantSum ≤ n :=
  revoke_grantSum_le (cutTo_sized n hs) h

theorem budgetTo_grantSum {n : Nat} (hs : Sized s) (h : s.protectedSum ≤ n) : (budgetTo n s).grantSum ≤ n := by
  have law : GrantLaw (revokedTo n s) := (revokedTo_grantSum hs h).trans (revokedTo_budget n s).ge
  have kept : GrantLaw (budgetTo n s) := (GrantLaw.hush.raise _ _ _ _ (GrantLaw.hush.callRestore law).powerTry).finish
  exact kept.trans (budgetTo_budget n s).le

/-- BUDGET_SET within its limits replies the budget, the grant sum and the number of consumers that fell. -/
theorem budgetSetBody_revokes {n : Nat} (hs : Sized s) (hb : n ≤ 2500 ∧ s.power.shedHigh ≤ n)
    (hd : s.day.state ≠ .lockout) (hp : s.protectedSum ≤ n) :
    budgetSetBody n s =
      okWith (be16 n ++ be16 (budgetTo n s).grantSum ++ be8 (fell s (revokedTo n s)).length) (budgetTo n s) := by
  obtain ⟨done, -, -⟩ := Revoking.revoke 26 0 rfl (.start (cutTo_sized n hs))
  have count : (fell s (revokedTo n s)).length = (revoke 26 0 (cutTo n s)).2 := done.count
  rw [budgetSetBody_ok hb hd hp (t := raise .budgetChanged 0 n s.power.budget
    (powerTry (callRestore (revokedTo n s)))) (m := (revoke 26 0 (cutTo n s)).2) rfl, count]
  show okWith (be16 (budgetTo n s).power.budget ++ _ ++ _) _ = _
  rw [budgetTo_budget]
  rfl

/-- Each consumer is as it was, or fell to its shed level. -/
theorem revokedTo_consumer {n c : Nat} (hs : Sized s) (hc : c < 26) :
    (¬((revokedTo n s).consumer c).grant < (s.consumer c).grant → (revokedTo n s).consumer c = s.consumer c) ∧
      (((revokedTo n s).consumer c).grant < (s.consumer c).grant → Fallen s (revokedTo n s) c) := by
  obtain ⟨done, -, -⟩ := Revoking.revoke 26 0 rfl (.start (cutTo_sized n hs))
  rcases done.cases c hc with same | fallen
  · refine ⟨fun _ => same, fun lower => absurd lower ?_⟩
    rw [show (revokedTo n s).consumer c = s.consumer c from same]
    exact Nat.lt_irrefl _
  · have fallen : Fallen s (revokedTo n s) c :=
      ⟨fallen.unprotected, fallen.above, fallen.grant, fallen.request, fallen.mark, fallen.shed⟩
    exact ⟨fun h => absurd fallen.falls h, fun _ => fallen⟩

end Sys2Proof.Machine

namespace Sys2Proof.Certificates

open Sys2Proof.Machine

/-- Settles O34: the revocation is followed victim by victim (`Revoking`), and a second time nobody falls. -/
theorem powerSettingsWritten : Obligations.PowerSettingsWritten := by
  intro p s sized
  refine ⟨fun n admitted => ?_, fun a admitted => ?_, fun k n => ⟨rfl, revoke_done, fun v beyond victim => ?_⟩⟩
  · have runs : (before (.budgetSet p n) p s).day.state ≠ .lockout := by
      rw [before_day]
      exact admitted.notLockout rfl rfl
    have sizedU := sized.before (.budgetSet p n) p
    have executes := @Executes.of_body (.budgetSet p n) p s rfl admitted
    have refuses := @RefusedWith.of_body (.budgetSet p n) p s rfl admitted
    obtain ⟨h, e⟩ := before_eq (.budgetSet p n) p s
    dsimp only
    rw [e] at runs sizedU executes refuses ⊢
    refine ⟨fun good kept => ⟨budgetTo n (s.withHold h), executes (budgetSetBody_revokes sizedU good runs kept), rfl,
      budgetTo_grantSum sizedU kept, revokedTo_grantSum sizedU kept, fun fits => ?_, revokedTo_bedrock _ _,
      budgetTo_bedrock _ _, fun c hc => ?_⟩, fun bad => refuses (budgetSetBody_range bad),
      fun good beyond => refuses (budgetSetBody_conflict good runs beyond)⟩
    · exact congrArg Prod.fst (revoke_done (k := 26) (n := 0) (s := cutTo n (s.withHold h)) (.inl fits))
    · obtain ⟨same, fallen⟩ := revokedTo_consumer (n := n) sizedU hc
      refine ⟨same, fun lower => ?_⟩
      have fell := fallen lower
      exact ⟨fell.unprotected, fell.grant, fell.request, fell.mark, fell.shed⟩
  · have runs : (before (.powerSet p a) p s).day.state ≠ .lockout := by
      rw [before_day]
      exact admitted.notLockout rfl rfl
    intro i u good w
    have work := Bedrock.work w
    have fits : good ↔ PowerFits a u := by
      unfold PowerFits
      rw [show u.power = s.power from before_power _ _ s]
    exact ⟨fun ok => ⟨_, Executes.of_body rfl admitted (powerSetBody_ok (fits.1 ok) runs), rfl,
        work.finish (work.powerTry (work.callRestore (work.shedCheck (Bedrock.refl w))))⟩,
      fun bad => RefusedWith.of_body rfl admitted (powerSetBody_range fun ok => bad (fits.2 ok))⟩
  · exact revoke_victim beyond victim

end Sys2Proof.Certificates
end

section
/-! SUPPORT. The meters: additions (R115), the value that ENERGY_READ rounds (R116), ENERGY_LOAD (R117). -/

namespace Sys2Proof.Machine

variable {s : State}

/-! ### Additions -/

/-- A meter that reached the end of its range, at the end or wrapped around. -/
def Meter.beyond (sum : Nat) (saturate : Bool) : Meter :=
  ⟨if saturate then 4294967295 else sum - 4294967296, true⟩

theorem Meter.add_within {x : Meter} {e : Nat} (b : Bool) (h : x.raw + e ≤ 4294967295) :
    x.add e b = { x with raw := x.raw + e } := if_pos h

theorem Meter.add_beyond {x : Meter} {e : Nat} (b : Bool) (h : 4294967295 < x.raw + e) :
    x.add e b = Meter.beyond (x.raw + e) b := if_neg (Nat.not_le.2 h)

theorem addMeter_within {m e : Nat} (h : (s.meter m).raw + e ≤ 4294967295) :
    addMeter m e s = s.setMeter m { s.meter m with raw := (s.meter m).raw + e } := by
  unfold addMeter
  dsimp only
  rw [Meter.add_within _ h, Bool.and_not_self]
  rfl

theorem addMeter_again {m e : Nat} (h : 4294967295 < (s.meter m).raw + e) (ho : (s.meter m).overflow = true) :
    addMeter m e s = s.setMeter m (Meter.beyond ((s.meter m).raw + e) s.power.saturate) := by
  unfold addMeter
  dsimp only
  rw [Meter.add_beyond _ h, ho, Bool.not_true, Bool.and_false]
  rfl

theorem addMeter_overflows {m e : Nat} (h : 4294967295 < (s.meter m).raw + e) (ho : (s.meter m).overflow = false) :
    addMeter m e s = raise .meterOverflow m (if s.power.saturate then 0 else 1) 0
      (s.setMeter m (Meter.beyond ((s.meter m).raw + e) s.power.saturate)) := by
  unfold addMeter
  dsimp only
  rw [Meter.add_beyond _ h, ho]
  rfl

/-! ### Watt-hours -/

theorem Meter.rounded_truncate (x : Meter) : x.rounded false = x.raw / 360 := rfl

theorem Meter.rounded_down {x : Meter} (h : x.raw % 360 < 180 ∨ x.raw % 360 = 180 ∧ x.raw / 360 % 2 = 0) :
    x.rounded true = x.raw / 360 := by
  refine if_neg ?_
  rw [Bool.true_and, Bool.or_eq_true, Bool.and_eq_true, decide_eq_true_eq, decide_eq_true_eq, decide_eq_true_eq]
  omega

theorem Meter.rounded_up {x : Meter} (h : 180 < x.raw % 360 ∨ x.raw % 360 = 180 ∧ x.raw / 360 % 2 = 1) :
    x.rounded true = x.raw / 360 + 1 := by
  refine if_pos ?_
  rw [Bool.true_and, Bool.or_eq_true, Bool.and_eq_true, decide_eq_true_eq, decide_eq_true_eq, decide_eq_true_eq]
  exact h

/-! ### The three commands -/

theorem energyLoadBody_ok {m : Nat} (raw : Nat) (hm : m < 34) (hd : s.day.state ≠ .lockout) :
    energyLoadBody m raw s = okWith (s.meter m).bytes (s.setMeter m ⟨raw, false⟩) := by
  refine checked_of_none ?_
  rw [firstFailure_tail (decide_eq_true hm), firstFailure_tail (inDay_openDays hd), firstFailure_nil]

theorem energyLoadBody_range {m : Nat} (raw : Nat) (hm : 34 ≤ m) : energyLoadBody m raw s = refuse .range s :=
  checked_of_some (firstFailure_head (decide_eq_false (Nat.not_lt.2 hm)))

theorem energyReadBody_ok {m q : Nat} (hm : m < 34) (hq : (s.meter m).rounded s.power.nearestEven = q) :
    energyReadBody m s = okWith (be32 q ++ beFlag (s.meter m).overflow) s := by
  subst hq
  exact checked_one (decide_eq_true hm)

end Sys2Proof.Machine

namespace Sys2Proof.Certificates

open Sys2Proof.Machine

/-- Settles O37: an addition stays within the meter's range, or passes its end a first or a further time; a read truncates,
or rounds the half to even. -/
theorem metersAddLoadAndRead : Obligations.MetersAddLoadAndRead := by
  refine ⟨fun m e s => ⟨addMeter_within, fun beyond => ⟨addMeter_again beyond, addMeter_overflows beyond⟩⟩,
    fun p m raw s admitted => ⟨fun hm => ?_, fun hm => ?_⟩, fun p m s ready => ⟨fun hm => ?_, fun hm => ?_⟩⟩
  · have runs : (before (.energyLoad p m raw) p s).day.state ≠ .lockout := by
      rw [before_day]
      exact admitted.notLockout rfl rfl
    have load := Executes.of_body rfl admitted (energyLoadBody_ok raw hm runs)
    rw [before_meter] at load
    exact load
  · exact RefusedWith.of_body rfl admitted (energyLoadBody_range raw hm)
  · have reads (q : Nat) (hq : (s.meter m).rounded s.power.nearestEven = q) :
        Executes (.energyRead p m) p s (be32 q ++ beFlag (s.meter m).overflow) s :=
      Executes.of_read ready rfl rfl rfl (energyReadBody_ok hm hq)
    refine ⟨fun mode => reads _ ?_, fun mode down => reads _ ?_, fun mode up => reads _ ?_,
      Executes.of_read ready rfl rfl rfl (checked_one (decide_eq_true hm))⟩
    · rw [mode, Meter.rounded_truncate]
    · rw [mode, Meter.rounded_down down]
    · rw [mode, Meter.rounded_up up]
  · have outside : decide (m < 34) = false := decide_eq_false (Nat.not_lt.2 hm)
    exact ⟨RefusedWith.of_read ready rfl rfl rfl (checked_one_not outside),
      RefusedWith.of_read ready rfl rfl rfl (checked_one_not outside)⟩

end Sys2Proof.Certificates
end

section
/-! SUPPORT. Admission, the shed check with its victim, and the restore check (R105–R108), rule by rule. -/

namespace Sys2Proof.Machine

variable {s : State}

/-! ### A consumer is granted its request (R105) -/

theorem changeState_state {k : Nat} (st : CabState) (u : Bool) (hk : k < s.cabs.length) :
    ((changeState k st u s).cab k).state = st := by
  by_cases e : (s.cab k).state = st
  · rw [changeState_self u e, e]
  · rw [changeState_cab u hk e]
    cases st <;> rfl

theorem fits_iff_within (c : Nat) (s : State) :
    s.fits c = true ↔ s.grantSum + ((s.consumer c).request - (s.consumer c).grant) ≤ s.power.budget :=
  decide_eq_true_iff

theorem giveGrant_consumer {c : Nat} (hc : c < s.power.consumers.length) :
    (giveGrant c s).consumer c =
      { s.consumer c with grant := (s.consumer c).request, mark := false, reqTime := none } :=
  setConsumer_consumer c _ s hc

theorem consumer_of_power {s t : State} (h : t.power = s.power) (c : Nat) : t.consumer c = s.consumer c := by
  unfold State.consumer
  rw [h]

theorem giveGrant_cabs (c : Nat) (s : State) : (giveGrant c s).cabs = s.cabs := setConsumer_cabs _ _ _

/-- What is measured is not changed by a written consumer that keeps its own measure. -/
theorem measuredTotal_setConsumer {c : Nat} {x : Consumer} (h : x.measured = (s.consumer c).measured) :
    (s.setConsumer c x).measuredTotal = s.measuredTotal := by
  by_cases hc : c < s.power.consumers.length
  · have sum := total_map_set (·.measured) Consumer.initial x s.power.consumers c hc
    have old : (s.power.consumers.getD c Consumer.initial).measured = x.measured := h.symm
    unfold State.measuredTotal
    rw [setConsumer_powerRecord]
    dsimp only at sum ⊢
    omega
  · unfold State.measuredTotal
    rw [setConsumer_outside x hc]

/-- The admission walk grants its first entry when it fits (R105). -/
theorem admitWalk_fits {c : Nat} {cs : List Nat} (h : s.fits c = true) :
    admitWalk (c :: cs) s =
      admitWalk cs (if c < 24 then changeState c .heating false (giveGrant c s) else giveGrant c s) := if_pos h

theorem admitWalk_stops {c : Nat} {cs : List Nat} (h : ¬s.fits c = true) : admitWalk (c :: cs) s = s := if_neg h

theorem filter_unmarked (s : State) (l : List Nat) :
    (l.filter fun c => !(s.consumer c).mark) = l.filter fun c => decide ((s.consumer c).mark = false) :=
  List.filter_congr fun c _ => by cases (s.consumer c).mark <;> rfl

theorem exec_admission (hl : s.day.resetLow = false) :
    exec .admission s =
      .next (finish (admitWalk (s.waitList.filter fun c => decide ((s.consumer c).mark = false)) s)) := by
  rw [← filter_unmarked]
  exact congrArg Host.Outcome.next (if_neg (by rw [hl]; decide))

/-! ### The conditions of the two checks -/

/-- The shed check acts (R107). -/
def ShedDue (s : State) : Prop := s.dayRuns = true ∧ s.power.settle = none ∧ s.power.shedHigh < s.measuredTotal

/-- The restore check acts (R108). -/
def RestoreDue (s : State) : Prop := s.dayRuns = true ∧ s.power.settle = none ∧ s.measuredTotal ≤ s.power.shedLow

theorem shedDue_iff (s : State) :
    (s.dayRuns && s.power.settle.isNone && decide (s.power.shedHigh < s.measuredTotal)) = true ↔ ShedDue s := by
  rw [Bool.and_eq_true, Bool.and_eq_true, Option.isNone_iff_eq_none, decide_eq_true_eq, and_assoc, ShedDue]

theorem restoreDue_iff (s : State) :
    (s.dayRuns && s.power.settle.isNone && decide (s.measuredTotal ≤ s.power.shedLow)) = true ↔ RestoreDue s := by
  rw [Bool.and_eq_true, Bool.and_eq_true, Option.isNone_iff_eq_none, decide_eq_true_eq, and_assoc, RestoreDue]

/-! ### The shed check (R107) -/

theorem shedCheck_not_due (h : ¬ShedDue s) : shedCheck s = s := if_neg fun e => h ((shedDue_iff s).1 e)

theorem shedCheck_resolved (h : s.victim = none) (hu : s.power.unresolved = true) : shedCheck s = s := by
  unfold shedCheck
  rw [h, hu]
  exact ite_self _

theorem shedCheck_unresolved (due : ShedDue s) (h : s.victim = none) (hu : s.power.unresolved = false) :
    shedCheck s = raise .powerOverUnresolved 0 s.measuredTotal s.power.shedHigh
      (s.withPower { s.power with unresolved := true }) := by
  unfold shedCheck
  rw [if_pos ((shedDue_iff s).2 due), h, hu]
  rfl

theorem shedCheck_victim {c : Nat} (due : ShedDue s) (h : s.victim = some c) :
    shedCheck s = withSettle (some 2) (shedOne c 0 s) := by
  unfold shedCheck
  rw [if_pos ((shedDue_iff s).2 due), h]
  rfl

/-- R107's order of the candidates: the victim comes before every other. -/
def ShedBefore (s : State) (a b : Nat) : Prop :=
  s.tier a < s.tier b ∨ s.tier a = s.tier b ∧
    ((s.consumer b).grant < (s.consumer a).grant ∨ (s.consumer b).grant = (s.consumer a).grant ∧ b ≤ a)

/-- The head of a list sorted by a total order comes before its elements. -/
theorem head_sortBy_first {le : Nat → Nat → Bool} (tr : ∀ a b c, le a b = true → le b c = true → le a c = true)
    (tot : ∀ a b, le a b = false → le b a = true) {l : List Nat} {c d : Nat} (h : (sortBy le l).head? = some c)
    (hd : d ∈ l) : le c d = true := by
  have self : le c c = true := by
    by_contra e
    exact e (tot c c (Bool.eq_false_iff.2 e))
  have sorted := sortBy_pairwise tr tot l
  rw [List.head?_eq_some_iff] at h
  obtain ⟨rest, e⟩ := h
  have member : d ∈ sortBy le l := mem_sortBy.2 hd
  rw [e] at sorted member
  rcases List.mem_cons.1 member with same | later
  · rw [same]
    exact self
  · exact (List.pairwise_cons.1 sorted).1 d later

/-- No candidate comes before the victim. -/
theorem victim_first {c d : Nat} (h : s.victim = some c) (hd : d < 26) (ht : s.tier d ≠ 5)
    (hg : s.shedLevel d < (s.consumer d).grant) : ShedBefore s c d := by
  have candidate : d ∈ (List.range 26).filter s.sheddable := by
    rw [List.mem_filter, List.mem_range, State.sheddable, Bool.and_eq_true, decide_eq_true_eq, decide_eq_true_eq]
    exact ⟨hd, ht, hg⟩
  have first := head_sortBy_first (fun a b c => ?_) (fun a b => ?_) h candidate
  · simp only [Bool.or_eq_true, Bool.and_eq_true, decide_eq_true_eq] at first
    unfold ShedBefore
    omega
  · simp only [Bool.or_eq_true, Bool.and_eq_true, decide_eq_true_eq]
    omega
  · simp only [Bool.or_eq_false_iff, Bool.and_eq_false_iff, decide_eq_false_iff_not, Bool.or_eq_true, Bool.and_eq_true,
      decide_eq_true_eq]
    omega

/-! ### The restore check (R108) -/

theorem restoreCheck_not_due (h : ¬RestoreDue s) : restoreCheck s = s := if_neg fun e => h ((restoreDue_iff s).1 e)

theorem find_marked (s : State) (l : List Nat) :
    (l.find? fun c => (s.consumer c).mark) = (l.filter fun c => decide ((s.consumer c).mark = true)).head? := by
  rw [List.head?_filter]
  simp only [Bool.decide_eq_true]

theorem restoreCheck_unmarked (h : (s.waitList.filter fun c => decide ((s.consumer c).mark = true)) = []) :
    restoreCheck s = s := by
  unfold restoreCheck
  rw [find_marked, h]
  exact ite_self _

theorem restoreCheck_stops {c : Nat} {cs : List Nat}
    (h : (s.waitList.filter fun c => decide ((s.consumer c).mark = true)) = c :: cs) (fits : ¬s.fits c = true) :
    restoreCheck s = s := by
  unfold restoreCheck
  rw [find_marked, h]
  dsimp only [List.head?_cons]
  rw [if_neg fits]
  exact ite_self _

/-- A restored consumer: granted, and a cabinet heats through WAIT_POWER. -/
def restored (c : Nat) (s : State) : State :=
  if c < 24 then changeState c .heating false (changeState c .waitPower false (giveGrant c s)) else giveGrant c s

theorem restored_power (c : Nat) (s : State) : (restored c s).power = (giveGrant c s).power := by
  unfold restored
  split
  · rw [changeState_power, changeState_power]
  · rfl

theorem restored_state {c : Nat} (hc : c < 24) (hs : Sized s) : ((restored c s).cab c).state = .heating := by
  unfold restored
  rw [if_pos hc]
  refine changeState_state _ _ ?_
  rw [changeState_length, giveGrant_cabs, hs.cabs]
  exact hc

theorem restoreCheck_fits {c : Nat} {cs : List Nat} (due : RestoreDue s)
    (h : (s.waitList.filter fun c => decide ((s.consumer c).mark = true)) = c :: cs) (fits : s.fits c = true)
    (hc : c < s.power.consumers.length) :
    restoreCheck s =
      withSettle (some 2) (raise .restore c (s.consumer c).request s.measuredTotal (restored c s)) := by
  have grant : ((restored c s).consumer c).grant = (s.consumer c).request := by
    rw [consumer_of_power (restored_power c s), giveGrant_consumer hc]
  have measured : (restored c s).measuredTotal = s.measuredTotal := by
    unfold State.measuredTotal
    rw [restored_power]
    exact measuredTotal_setConsumer rfl
  rw [← grant, ← measured]
  unfold restoreCheck
  rw [if_pos ((restoreDue_iff s).2 due), find_marked, h]
  dsimp only [List.head?_cons]
  rw [if_pos fits]
  rfl

/-! ### The checks that end a step (log 2) -/

/-- Admission and the restore check, each where it is called for, with neither called for any more. -/
theorem powerTry_eq (s : State) :
    let power := s.withCalls { s.calls with admission := false, restore := false }
    let tried :=
      if s.calls.admission then admitWalk (power.waitList.filter fun x => (power.consumer x).mark = false) power
      else power
    powerTry s = if s.calls.restore then restoreCheck tried else tried := by
  unfold powerTry admission
  simp only [filter_unmarked]

theorem settle_succ (n : Nat) (s : State) :
    settle (n + 1) s =
      if s.calls.admission = true ∨ s.calls.restore = true then settle n (powerTry s)
      else if s.calls.close then settle n (closeTest s)
      else if s.calls.route0 then settle n (routingPass 0 (s.withCalls { s.calls with route0 := false }))
      else if s.calls.route1 then settle n (routingPass 1 (s.withCalls { s.calls with route1 := false }))
      else s := by
  rw [settle]
  simp only [Bool.or_eq_true]

end Sys2Proof.Machine

namespace Sys2Proof.Certificates

open Sys2Proof.Machine

/-- What admission writes for the entry that it grants. -/
theorem admitted_effect {c : Nat} {s : State} (hs : Sized s) (hc : c < s.power.consumers.length) :
    let w := if c < 24 then changeState c .heating false (giveGrant c s) else giveGrant c s
    (w.consumer c).grant = (s.consumer c).request ∧ Floor s w ∧ (c < 24 → (w.cab c).state = .heating) := by
  intro w
  have granted : Floor s (giveGrant c s) := (Floor.stable s).giveGrant c (Floor.refl s)
  by_cases cab : c < 24
  · have e : w = changeState c .heating false (giveGrant c s) := if_pos cab
    rw [e]
    refine ⟨?_, (Floor.stable s).changeState c _ _ (.inr rfl) granted, fun _ => changeState_state _ _ ?_⟩
    · rw [consumer_of_power (changeState_power _ _ _ _), giveGrant_consumer hc]
    · rw [giveGrant_cabs, hs.cabs]
      exact cab
  · have e : w = giveGrant c s := if_neg cab
    rw [e]
    exact ⟨by rw [giveGrant_consumer hc], granted, fun h => absurd h cab⟩

/-- Settles O35: each check by its cases, and the two orders (of the victims, of the wait list) as those of sorted
lists. -/
theorem admissionAndSettleTimer : Obligations.AdmissionAndSettleTimer := by
  refine ⟨fun s runs => ?_, fun s runs expired => ?_, fun s => ?_, fun s => ?_, fun s => ?_, fun n s => ?_⟩
  · intro entries
    have walk : exec .admission s = .next (finish (admitWalk entries s)) := exec_admission runs
    refine ⟨fun none => by rw [walk, none]; rfl,
      fun c rest first => ⟨fun fits => ⟨?_, fun sized => ?_⟩, fun stops => ?_⟩⟩
    · rw [walk, first, admitWalk_fits ((fits_iff_within c s).2 fits)]
      rfl
    · have waiting : c ∈ s.waitList := (List.mem_filter.1 (first ▸ List.mem_cons_self : c ∈ entries)).1
      obtain ⟨grant, floor, heats⟩ := admitted_effect sized (mem_waitList.1 waiting).1
      exact ⟨grant, floor, (Floor.stable _).finish ((Floor.stable _).admitWalk rest (Floor.refl _)), heats⟩
    · rw [walk, first, admitWalk_stops fun e => stops ((fits_iff_within c s).1 e)]
  · intro v
    have work := Bedrock.work v
    refine ⟨?_, fun _ => ⟨(Bedrock.work s).shedCheck ((Bedrock.work s).withSettle none (Bedrock.refl s)),
      work.finish (work.powerTry (work.callRestore (Bedrock.refl v)))⟩⟩
    have live : exec .settleTimerExpiry s = .next (settleTimerExpiry s) :=
      congrArg Host.Outcome.next (if_neg (by rw [runs]; decide))
    rw [live, settleTimerExpiry, if_pos expired]
    rfl
  · refine ⟨shedCheck_not_due, fun _ => shedCheck_resolved, shedCheck_unresolved,
      fun none d hd => within_of_no_victim none hd, fun v victim => ⟨?_, fun due => ?_⟩⟩
    · obtain ⟨range, tier, above⟩ := sheddable_of_victim victim
      refine ⟨range, tier, above, fun d hd ht hg => ?_⟩
      exact victim_first victim hd ht hg
    · intro x low w
      refine ⟨shedCheck_victim due victim, fun sized => ?_⟩
      have range := (sheddable_of_victim victim).1
      have written : w.consumer v = { s.consumer v with
          grant := s.shedLevel v, request := s.fullUnits v, mark := true, reqTime := some s.day.clock } := by
        refine (shedOne_consumer v 0 v ?_).trans (if_pos rfl)
        rw [sized.consumers]
        exact range
      rw [written]
      refine ⟨rfl, rfl, rfl, (shedOne_cab 0 fun cab => ?_).1⟩
      rw [sized.cabs]
      exact cab
  · refine ⟨restoreCheck_not_due, restoreCheck_unmarked,
      fun c rest first => ⟨fun stops => ?_, fun sized due fits => ?_⟩⟩
    · exact restoreCheck_stops first fun e => stops ((fits_iff_within c s).1 e)
    · have waiting : c ∈ s.waitList := (List.mem_filter.1 (first ▸ List.mem_cons_self)).1
      have range := (mem_waitList.1 waiting).1
      intro v w
      have written : w.consumer c =
          { s.consumer c with grant := (s.consumer c).request, mark := false, reqTime := none } :=
        (consumer_of_power (restored_power c s) c).trans (giveGrant_consumer range)
      rw [written]
      exact ⟨restoreCheck_fits due first ((fits_iff_within c s).2 fits) range, rfl, rfl,
        fun cab => restored_state cab sized⟩
  · exact ⟨fun c => mem_waitList, waitList_pairwise s⟩
  · exact ⟨powerTry_eq s, rfl, settle_succ n s, rfl⟩

end Sys2Proof.Certificates
end

section
/-! SUPPORT. The reads (R50, R75, R99, R118, R141, R159): what each carries, and what it refuses. -/

namespace Sys2Proof.Machine

variable {s : State}

/-! ### The position that a key names -/

theorem findIdx_first {α : Type} {q : α → Bool} {l : List α} {i : Nat} {x : α} (hx : l[i]? = some x) (hq : q x = true)
    (first : ∀ j y, j < i → l[j]? = some y → q y = false) : l.findIdx? q = some i := by
  obtain ⟨hi, e⟩ := List.getElem?_eq_some_iff.1 hx
  rw [List.findIdx?_eq_some_iff_getElem]
  refine ⟨hi, by rw [e]; exact hq, fun j hj => ?_⟩
  rw [first j _ hj (List.getElem?_eq_getElem (hj.trans hi))]
  exact Bool.false_ne_true

/-! ### Racks (R99) -/

/-- The position of the first rack with a tag, behind the last where none has it. -/
def Line.tagPosition (x : Line) (tag : Nat) : Nat := (x.racks.findIdx? (·.tag = tag)).getD x.racks.length

theorem Line.tagPosition_lt {x : Line} {tag : Nat} :
    x.tagPosition tag < x.racks.length ↔ ∃ r ∈ x.racks, r.tag = tag := by
  unfold Line.tagPosition
  cases h : x.racks.findIdx? (·.tag = tag) with
  | none =>
    refine iff_of_false (Nat.lt_irrefl _) fun ⟨r, hr, e⟩ => ?_
    have none := List.findIdx?_eq_none_iff.1 h r hr
    exact of_decide_eq_false none e
  | some i =>
    obtain ⟨hi, hq, -⟩ := List.findIdx?_eq_some_iff_getElem.1 h
    exact iff_of_true hi ⟨_, List.getElem_mem hi, of_decide_eq_true hq⟩

/-- The position that RACK_READ reads. -/
def State.rackPosition (s : State) (l selector value : Nat) : Nat :=
  if selector = 0 then (s.line l).tagPosition value else value

theorem rackReadBody_eq (l q v : Nat) (s : State) :
    rackReadBody l q v s = checked
      [(decide (l < 2) && isFlag q && (decide (q = 0) || decide (v < 12)), .range),
        (decide (s.rackPosition l q v < (s.line l).racks.length), .notFound)]
      (fun t => match (s.line l).racks[s.rackPosition l q v]? with
        | none => refuse .notFound t
        | some r => okWith ((s.line l).rackBytes r ++ (if q = 0 then be8 (s.rackPosition l q v) else []) ++
            be8 (s.line l).racks.length) t) s := rfl

theorem rackRead_range_iff (l q v : Nat) :
    (decide (l < 2) && isFlag q && (decide (q = 0) || decide (v < 12))) = true ↔ l < 2 ∧ q < 2 ∧ (q = 0 ∨ v < 12) := by
  rw [Bool.and_eq_true, Bool.and_eq_true, Bool.or_eq_true, isFlag_iff, decide_eq_true_eq, decide_eq_true_eq,
    decide_eq_true_eq, and_assoc]

theorem rackReadBody_reads {l q v : Nat} (range : l < 2 ∧ q < 2 ∧ (q = 0 ∨ v < 12))
    (h : s.rackPosition l q v < (s.line l).racks.length) : ∃ data, rackReadBody l q v s = okWith data s := by
  rw [rackReadBody_eq, checked_of_none ((firstFailure_tail ((rackRead_range_iff l q v).2 range)).trans
    (firstFailure_tail (decide_eq_true h))), List.getElem?_eq_getElem h]
  exact ⟨_, rfl⟩

theorem rackReadBody_absent {l q v : Nat} (range : l < 2 ∧ q < 2 ∧ (q = 0 ∨ v < 12))
    (h : (s.line l).racks.length ≤ s.rackPosition l q v) : rackReadBody l q v s = refuse .notFound s := by
  rw [rackReadBody_eq]
  exact checked_of_some ((firstFailure_tail ((rackRead_range_iff l q v).2 range)).trans
    (firstFailure_head (decide_eq_false (Nat.not_lt.2 h))))

theorem rackReadBody_range {l q v : Nat} (h : ¬(l < 2 ∧ q < 2 ∧ (q = 0 ∨ v < 12))) :
    rackReadBody l q v s = refuse .range s := by
  rw [rackReadBody_eq]
  exact checked_of_some (firstFailure_head (Bool.eq_false_iff.2 fun e => h ((rackRead_range_iff l q v).1 e)))

/-! ### POWER_READ (R118) -/

theorem powerRead_range_iff (q x : Nat) :
    (decide (q < 3) && (decide (q = 0) || decide (x < 26))) = true ↔ q = 0 ∨ q < 3 ∧ x < 26 := by
  rw [Bool.and_eq_true, Bool.or_eq_true, decide_eq_true_eq, decide_eq_true_eq, decide_eq_true_eq]
  omega

theorem powerReadBody_summary (x : Nat) (s : State) : powerReadBody 0 x s = okWith s.powerSummary s := checked_one rfl

theorem powerReadBody_consumer {x : Nat} (h : x < 26) : powerReadBody 1 x s = okWith (s.consumerPart x) s :=
  checked_one ((powerRead_range_iff 1 x).2 (.inr ⟨by decide, h⟩))

theorem powerReadBody_waitList {x : Nat} (h : x < 26) :
    powerReadBody 2 x s = okWith (listPart (s.waitList.map s.waitEntry) x 8) s :=
  checked_one ((powerRead_range_iff 2 x).2 (.inr ⟨by decide, h⟩))

theorem powerReadBody_range {q x : Nat} (h : ¬(q = 0 ∨ q < 3 ∧ x < 26)) : powerReadBody q x s = refuse .range s :=
  checked_one_not (Bool.eq_false_iff.2 fun e => h ((powerRead_range_iff q x).1 e))

theorem toNat_eq_ite (b : Bool) : b.toNat = if b then 1 else 0 := by cases b <;> rfl

theorem powerSummary_eq (s : State) :
    s.powerSummary =
      be16 s.power.budget ++ be16 s.power.shedHigh ++ be16 s.power.shedLow ++ be8 (if s.power.saturate then 0 else 1) ++
        be8 (if s.power.nearestEven then 1 else 0) ++ be8 (if s.power.protected0 then 0 else 1) ++
        be8 (if s.power.protected1 then 0 else 1) ++ be16 s.grantSum ++ be16 s.measuredTotal ++
        beFlag s.power.settle.isSome ++ beFlag s.power.unresolved ++ be8 s.waitList.length := by
  rw [← toNat_eq_ite]
  rfl

theorem waitEntry_eq (s : State) (c : Nat) :
    s.waitEntry c =
      be8 (if (s.consumer c).mark then 128 + c else c) ++ be16 (s.consumer c).request ++
        be16 (min (s.day.clock - (s.consumer c).reqTime.getD s.day.clock) 65535) := by
  have head : (s.consumer c).mark.toNat * 128 + c = if (s.consumer c).mark then 128 + c else c := by
    cases (s.consumer c).mark with
    | false => exact Nat.zero_add c
    | true => rfl
  rw [← head]
  rfl

/-! ### PAGE_READ (R141) -/

/-- The position of the first page with an id, behind the last where none has it. -/
def State.pagePosition (s : State) (q v : Nat) : Nat :=
  if q = 0 then (s.paging.pages.findIdx? (·.id = v)).getD s.paging.pages.length else v

theorem pageReadBody_eq (q v : Nat) (s : State) :
    pageReadBody q v s = checked
      [(isFlag q && (decide (q = 0) || decide (v < 32)), .range),
        (decide (s.pagePosition q v < s.paging.pages.length), .notFound)]
      (fun t => match t.paging.pages[s.pagePosition q v]? with
        | none => refuse .notFound t
        | some g => okWith (t.pageBytes (s.pagePosition q v) g) t) s := rfl

theorem pageRead_range_iff (q v : Nat) :
    (isFlag q && (decide (q = 0) || decide (v < 32))) = true ↔ q < 2 ∧ (q = 0 ∨ v < 32) := by
  rw [Bool.and_eq_true, Bool.or_eq_true, isFlag_iff, decide_eq_true_eq, decide_eq_true_eq]

theorem pageReadBody_reads {q v i : Nat} {g : Page} (range : q < 2 ∧ (q = 0 ∨ v < 32)) (hi : s.pagePosition q v = i)
    (hg : s.paging.pages[i]? = some g) : pageReadBody q v s = okWith (s.pageBytes i g) s := by
  subst hi
  obtain ⟨lt, -⟩ := List.getElem?_eq_some_iff.1 hg
  rw [pageReadBody_eq, checked_of_none ((firstFailure_tail ((pageRead_range_iff q v).2 range)).trans
    (firstFailure_tail (decide_eq_true lt))), hg]

theorem pageReadBody_absent {q v : Nat} (range : q < 2 ∧ (q = 0 ∨ v < 32))
    (h : s.paging.pages.length ≤ s.pagePosition q v) : pageReadBody q v s = refuse .notFound s := by
  rw [pageReadBody_eq]
  exact checked_of_some ((firstFailure_tail ((pageRead_range_iff q v).2 range)).trans
    (firstFailure_head (decide_eq_false (Nat.not_lt.2 h))))

theorem pageReadBody_range {q v : Nat} (h : ¬(q < 2 ∧ (q = 0 ∨ v < 32))) : pageReadBody q v s = refuse .range s := by
  rw [pageReadBody_eq]
  exact checked_of_some (firstFailure_head (Bool.eq_false_iff.2 fun e => h ((pageRead_range_iff q v).1 e)))

theorem pagePosition_first {g : Page} {i : Nat} (hg : s.paging.pages[i]? = some g)
    (first : ∀ j h, j < i → s.paging.pages[j]? = some h → h.id ≠ g.id) : s.pagePosition 0 g.id = i := by
  have found := findIdx_first (q := fun h : Page => decide (h.id = g.id)) hg (decide_eq_true rfl) fun j h hj e =>
    decide_eq_false (first j h hj e)
  rw [State.pagePosition, if_pos rfl, found, Option.getD_some]

theorem pagePosition_absent {v : Nat} (h : ∀ g ∈ s.paging.pages, g.id ≠ v) :
    s.paging.pages.length ≤ s.pagePosition 0 v := by
  have none : s.paging.pages.findIdx? (fun g => decide (g.id = v)) = none :=
    List.findIdx?_eq_none_iff.2 fun g hg => decide_eq_false (h g hg)
  rw [State.pagePosition, if_pos rfl, none, Option.getD_none]

theorem pagesAtBase_eq (s : State) :
    s.pagesAtBase = (s.paging.pages.filter fun h => h.state = .handed ∨ h.inDelivery = true).length := by
  unfold State.pagesAtBase
  congr 1
  refine List.filter_congr fun h _ => ?_
  rw [Page.atBase, Bool.decide_or, Bool.decide_eq_true]

theorem origin_code_eq (o : Origin) : o.code = match o with | .port q => q.code | .block => 3 := by cases o <;> rfl

theorem pageBytes_eq (s : State) (i : Nat) (g : Page) :
    s.pageBytes i g =
      be8 g.id ++ be8 g.target.kindCode ++ be8 g.target.value ++ be8 g.code ++ be16 g.arg ++ be8 g.prio.code ++
        be8 (match g.origin with | .port o => o.code | .block => 3) ++ be32 g.created ++ be8 g.state.code ++
        beFlag g.inDelivery ++ beOpt8 (g.level.map Prio.code) ++ be8 g.resends ++ beFlag g.cancelMark ++
        beOpt8 g.course ++ be8 (s.effective g).code ++ be8 i ++ beOpt8 (g.resendEnd.map fun e => e - s.day.clock) ++
        be8 s.paging.pages.length ++
        be8 (s.paging.pages.filter fun h => h.state = .handed ∨ h.inDelivery = true).length := by
  unfold State.pageBytes
  rw [pagesAtBase_eq, origin_code_eq]
  rfl

/-! ### PAGER_READ (R141) -/

theorem pagerBytes_eq (e : Option Pager) :
    pagerBytes e =
      match e with
      | none => be8 0
      | some h => be8 1 ++ be8 h.addr ++ be8 (if h.present then 0 else 1) ++ be32 h.lastSeen := by
  cases e <;> rfl

theorem pagerReadBody_entry {v : Nat} (h : v < 64) :
    pagerReadBody 0 v s = okWith (pagerBytes (s.paging.dir.getD v none)) s := checked_one (decide_eq_true h)

theorem pagerReadBody_address {a i : Nat} (ha : 16 ≤ a ∧ a ≤ 239) (hi : s.dirFind a = some i) :
    pagerReadBody 1 a s = okWith (pagerBytes (s.paging.dir.getD i none) ++ be8 i) s := by
  have found : firstFailure [(isPager a, .range), ((s.dirFind a).isSome, .notFound)] = none :=
    (firstFailure_tail ((isPager_iff a).2 ha)).trans (firstFailure_tail (by rw [hi]; rfl))
  unfold pagerReadBody
  rw [checked_of_none found, hi]
  rfl

theorem pagerReadBody_absent {a : Nat} (ha : 16 ≤ a ∧ a ≤ 239) (h : s.dirFind a = none) :
    pagerReadBody 1 a s = refuse .notFound s :=
  checked_of_some ((firstFailure_tail ((isPager_iff a).2 ha)).trans (firstFailure_head (by rw [h]; rfl)))

theorem pagerReadBody_team {t : Nat} (h : 1 ≤ t ∧ t ≤ 14) : pagerReadBody 2 t s = okWith (s.teamBytes t) s :=
  checked_one ((isTeam_iff t).2 h)

theorem pagerReadBody_range {q v : Nat}
    (h : q = 0 ∧ 64 ≤ v ∨ q = 1 ∧ (v < 16 ∨ 239 < v) ∨ q = 2 ∧ (v = 0 ∨ 14 < v) ∨ 3 ≤ q) :
    pagerReadBody q v s = refuse .range s := by
  rcases h with ⟨rfl, h⟩ | ⟨rfl, h⟩ | ⟨rfl, h⟩ | h
  · exact checked_one_not (decide_eq_false (Nat.not_lt.2 h))
  · exact checked_of_some (firstFailure_head (Bool.eq_false_iff.2 fun e => by
      have := (isPager_iff v).1 e
      omega))
  · exact checked_one_not (Bool.eq_false_iff.2 fun e => by
      have := (isTeam_iff v).1 e
      omega)
  · unfold pagerReadBody
    split
    · omega
    · omega
    · omega
    · rfl

theorem teamBytes_eq {t : Nat} (h : 1 ≤ t) :
    s.teamBytes t =
      let rate := s.paging.rates.getD (t - 1) ⟨0, none⟩
      let has := fun (v : Prio) => s.paging.pages.any fun q => q.target = .team t && q.level = some v
      beFlag (s.teamPresent t) ++ be8 rate.count ++ beOpt8 (rate.ends.map fun e => e - s.day.clock) ++
        beOpt16 ((s.paging.rush.getD (t - 1) none).map fun e => e - s.day.clock) ++
        be8 (s.paging.pages.filter fun q => q.target = .team t).length ++
        be8 (maskOf [has .urgent, has .rush, has .normal, has .info]) := by
  have rate : s.rate t = s.paging.rates.getD (t - 1) ⟨0, none⟩ := if_neg (by omega)
  have rush : s.rushEnd t = s.paging.rush.getD (t - 1) none := if_neg (by omega)
  unfold State.teamBytes
  rw [rate, rush]
  rfl

/-! ### NODE_READ (R159) -/

theorem nodeRead_range_iff (q a : Nat) :
    (isFlag q && (decide (q = 1) || within 1 31 a)) = true ↔ q = 1 ∨ q = 0 ∧ 1 ≤ a ∧ a ≤ 31 := by
  rw [Bool.and_eq_true, Bool.or_eq_true, isFlag_iff, decide_eq_true_eq, within_iff]
  omega

theorem nodeReadBody_reads {q a : Nat} (h : q = 1 ∨ q = 0 ∧ 1 ≤ a ∧ a ≤ 31) :
    nodeReadBody q a s = okWith (if q = 0 then s.nodeBytes a else s.busBytes) s :=
  checked_one ((nodeRead_range_iff q a).2 h)

theorem nodeReadBody_range {q a : Nat} (h : ¬(q = 1 ∨ q = 0 ∧ 1 ≤ a ∧ a ≤ 31)) : nodeReadBody q a s = refuse .range s :=
  checked_one_not (Bool.eq_false_iff.2 fun e => h ((nodeRead_range_iff q a).1 e))

theorem nodeBytes_eq (s : State) (a : Nat) :
    s.nodeBytes a =
      let n := s.node a
      be8 (match n.type with | none => 0xFF | some ty => ty.code) ++ be32 n.serial ++ be8 n.presence.code ++
        be8 n.misses ++ beOpt8 n.silence ++ beOpt32 n.lastResp ++ beOpt8 n.loadBase ++ beOpt8 n.drawBase ++
        (match n.binding with
         | .unbound => be8 0xFF ++ be8 0xFF
         | .cabinet k => be8 0 ++ be8 k
         | .line l => be8 1 ++ be8 l
         | .base => be8 2 ++ be8 0xFF) ++
        be8 n.pollClass.code ++ beOpt16 (n.pollEnd.map fun e => e - s.day.ms) ++ beFlag n.fetchAhead ++
        (match n.wanted with
         | .nothing => be8 0
         | .cabinet mode tp => be8 1 ++ be8 mode.code ++ beTemp tp
         | .line run => be8 1 ++ be8 (if run then 0 else 1)) ++
        beFlag n.wantedUrgent ++ beOpt8 n.lastEvent ++ beOpt32 (n.lastResp.map fun e => s.day.clock - e) := by
  have binding (b : Binding) : be8 b.kindCode ++ be8 b.index =
      match b with
      | .unbound => be8 0xFF ++ be8 0xFF
      | .cabinet k => be8 0 ++ be8 k
      | .line l => be8 1 ++ be8 l
      | .base => be8 2 ++ be8 0xFF := by cases b <;> rfl
  have wanted (w : Wanted) : w.bytes =
      match w with
      | .nothing => be8 0
      | .cabinet mode tp => be8 1 ++ be8 mode.code ++ beTemp tp
      | .line run => be8 1 ++ be8 (if run then 0 else 1) := by cases w <;> rfl
  unfold State.nodeBytes
  dsimp only
  rw [List.append_assoc _ (be8 (s.node a).binding.kindCode), binding, wanted]
  cases (s.node a).type <;> rfl

end Sys2Proof.Machine
end

section
/-! SUPPORT. The reads of courses and cabinets; then every read's answer and refusal. -/

namespace Sys2Proof.Machine

variable {s : State}

theorem courseReadBody_reads {c q k : Nat} (h : c < 32 ∧ (q = 0 ∨ q = 1 ∧ k < 24)) :
    ∃ data, courseReadBody c q k s = okWith data s :=
  ⟨_, checked_one (by
    rw [Bool.and_eq_true, Bool.and_eq_true, Bool.or_eq_true, isFlag_iff, decide_eq_true_eq, decide_eq_true_eq,
      decide_eq_true_eq]
    omega)⟩

theorem courseReadBody_range {c q k : Nat} (h : ¬(c < 32 ∧ (q = 0 ∨ q = 1 ∧ k < 24))) :
    courseReadBody c q k s = refuse .range s :=
  checked_one_not (Bool.eq_false_iff.2 fun e => by
    rw [Bool.and_eq_true, Bool.and_eq_true, Bool.or_eq_true, isFlag_iff, decide_eq_true_eq, decide_eq_true_eq,
      decide_eq_true_eq] at e
    omega)

theorem cabinetReadBody_reads {k q i : Nat} (h : k < 24 ∧ (q = 0 ∨ q < 4 ∧ i < 24)) :
    ∃ data, cabinetReadBody k q i s = okWith data s :=
  ⟨_, checked_one (by
    rw [Bool.and_eq_true, Bool.and_eq_true, Bool.or_eq_true, decide_eq_true_eq, decide_eq_true_eq, decide_eq_true_eq,
      decide_eq_true_eq]
    omega)⟩

theorem cabinetReadBody_range {k q i : Nat} (h : ¬(k < 24 ∧ (q = 0 ∨ q < 4 ∧ i < 24))) :
    cabinetReadBody k q i s = refuse .range s :=
  checked_one_not (Bool.eq_false_iff.2 fun e => by
    rw [Bool.and_eq_true, Bool.and_eq_true, Bool.or_eq_true, decide_eq_true_eq, decide_eq_true_eq, decide_eq_true_eq,
      decide_eq_true_eq] at e
    omega)

end Sys2Proof.Machine

namespace Sys2Proof.Certificates

open Sys2Proof.Machine

/-- Settles O55: each read's answer and refusals are the lemmas about its body. -/
theorem readsAnswerAndChangeNothing : Obligations.ReadsAnswerAndChangeNothing := by
  intro p x y z s ready reads range absent racks m g summary consumer entries page pager team node bus
  have answers {i : Instr} {data : List Byte} (h : requestPort i = some p) (h1 : isRead i = true)
      (h2 : permission i = none) (hb : bodyOf i s = okWith data s) : Executes i p s data s :=
    Executes.of_read ready h h1 h2 hb
  have refuses {i : Instr} {st : Status} (h : requestPort i = some p) (h1 : isRead i = true)
      (h2 : permission i = none) (hb : bodyOf i s = refuse st s) : RefusedWith i p s st :=
    RefusedWith.of_read ready h h1 h2 hb
  have pageAt (i : Nat) (q : Page) : s.pageBytes i q = page i q := pageBytes_eq s i q
  have pagerAt (e : Option Pager) : pagerBytes e = pager e := pagerBytes_eq e
  refine ⟨fun h => ?_, fun h => ?_, fun h => ?_, fun h => ?_, fun hx h => ?_, fun hx h => ?_, fun hx hz h => ?_,
    fun hx hz h => ?_, fun h => ?_, ?_, fun hy => ?_, fun hy => ?_, fun h => ?_,
    fun i q hq => ⟨fun hi => ?_, fun first => ?_⟩, fun h => ?_, fun hx h => ?_, fun h => ?_, fun hx => ?_,
    fun i e he low high first => ?_, fun low high h => ?_, fun low high => ?_, fun h => ?_, fun low high => ?_, ?_,
    fun h => ?_⟩
  · exact (courseReadBody_reads h).imp fun _ => answers rfl rfl rfl
  · exact refuses rfl rfl rfl (courseReadBody_range h)
  · exact (cabinetReadBody_reads h).imp fun _ => answers rfl rfl rfl
  · exact refuses rfl rfl rfl (cabinetReadBody_range h)
  · have body := rackReadBody_reads (v := z) ⟨hx, by decide, .inl rfl⟩ (Line.tagPosition_lt.2 h)
    exact body.imp fun _ => answers rfl rfl rfl
  · have missing : ¬(s.line x).tagPosition z < racks.length := fun lt => by
      obtain ⟨r, hr, e⟩ := Line.tagPosition_lt.1 lt
      exact h r hr e
    exact refuses rfl rfl rfl (rackReadBody_absent ⟨hx, by decide, .inl rfl⟩ (Nat.le_of_not_lt missing))
  · exact (rackReadBody_reads (q := 1) ⟨hx, by decide, .inr hz⟩ h).imp fun _ => answers rfl rfl rfl
  · exact refuses rfl rfl rfl (rackReadBody_absent (q := 1) ⟨hx, by decide, .inr hz⟩ h)
  · exact refuses rfl rfl rfl (rackReadBody_range (by omega))
  · exact answers rfl rfl rfl ((powerReadBody_summary y s).trans (okWith_congr (powerSummary_eq s) rfl))
  · exact answers rfl rfl rfl (powerReadBody_consumer hy)
  · have listed : s.waitList.map s.waitEntry = entries := List.map_congr_left fun c _ => waitEntry_eq s c
    have body := powerReadBody_waitList (s := s) hy
    rw [listed] at body
    exact answers rfl rfl rfl body
  · exact refuses rfl rfl rfl (powerReadBody_range h)
  · exact answers rfl rfl rfl ((pageReadBody_reads ⟨by decide, .inr hi⟩ rfl hq).trans (okWith_congr (pageAt i q) rfl))
  · have body := pageReadBody_reads (q := 0) ⟨by decide, .inl rfl⟩ (pagePosition_first hq first) hq
    exact answers rfl rfl rfl (body.trans (okWith_congr (pageAt i q) rfl))
  · exact refuses rfl rfl rfl (pageReadBody_absent ⟨by decide, .inl rfl⟩ (pagePosition_absent h))
  · exact refuses rfl rfl rfl (pageReadBody_absent (q := 1) ⟨by decide, .inr hx⟩ h)
  · exact refuses rfl rfl rfl (pageReadBody_range (by omega))
  · exact answers rfl rfl rfl ((pagerReadBody_entry hx).trans (okWith_congr (pagerAt _) rfl))
  · have entry : g.dir.getD i none = some e := by rw [List.getD_eq_getElem?_getD, he, Option.getD_some]
    have body := pagerReadBody_address ⟨low, high⟩ (dirFind_first he rfl first)
    rw [show s.paging.dir.getD i none = some e from entry, pagerAt] at body
    exact answers rfl rfl rfl body
  · have unknown : s.dirFind x = none := dirFind_none fun ⟨e, he, own⟩ => h _ he e rfl own
    exact refuses rfl rfl rfl (pagerReadBody_absent ⟨low, high⟩ unknown)
  · exact answers rfl rfl rfl ((pagerReadBody_team ⟨low, high⟩).trans (okWith_congr (teamBytes_eq low) rfl))
  · exact refuses rfl rfl rfl (pagerReadBody_range h)
  · have body : nodeReadBody 0 y s = okWith (s.nodeBytes y) s := nodeReadBody_reads (.inr ⟨rfl, low, high⟩)
    exact answers rfl rfl rfl (body.trans (okWith_congr (nodeBytes_eq s y) rfl))
  · exact answers rfl rfl rfl (nodeReadBody_reads (.inl rfl))
  · exact refuses rfl rfl rfl (nodeReadBody_range h)

end Sys2Proof.Certificates
end
